-- ==== Sys2Proof/Word.lean ====
section
/-! DEFINITION. The word types of the part and their plainest reading. -/

namespace Sys2Proof

/-- A byte of memory. -/
abbrev Byte := BitVec 8

/-- A scalar register's value, a control register's value (R65, R69). -/
abbrev Word := BitVec 64

/-- One 4-byte slot of a bundle (R22). -/
abbrev SlotWord := BitVec 32

/-- The 128 lanes of 32 bits of a vector register, lane i at bits [32i + 31 : 32i] (R65, R86, R120). -/
abbrev VecWord := BitVec 4096

/-- A mask register, a scale register, a ring handle (R65). -/
abbrev Quad := BitVec 128

/-- Bits `[lo + n - 1 : lo]` of a value, as an unsigned integer (R18). -/
def bits {w : Nat} (x : BitVec w) (lo n : Nat) : Nat := x.toNat / 2 ^ lo % 2 ^ n

end Sys2Proof
end

