-- ==== Sys2Proof/Syntax.lean ====
section
/-! DEFINITION. The operations and events of the opcode table: one constructor of `Instr` per row.

A slot instruction's fields are the operand fields of its encoding (R33, R34); an event's are what it acts on
and, where something outside the device decides, what the outside brings. -/

namespace Sys2Proof

/-- Element formats of the V slot, in the order of their codes (R34). -/
inductive VFmt where
  | i8 | i16 | i32 | n8 | n32 | f16 | bf16 | f32
deriving DecidableEq, Repr

/-- The poison tags in the order of their codes (R19). -/
inductive Tag where
  | clean | deferred | late | lost
deriving DecidableEq, Repr

/-- The cause codes of faults (R327). -/
inductive Cause where
  | badbundle | badtarget | headtarget | badop | priv | align | xlate | prot | phase | poisonuse
  | contain | late | scalecount | seqback | carve | engine | regfill | slice | trap | logbook
deriving DecidableEq, Repr

/-- The causes of notice records (R327). -/
inductive Notice where
  | replay | meridian | controlw
deriving DecidableEq, Repr

/-- The gate fields a G slot carries beside its kind and aux (R28). -/
structure Gate where
  ckpt  : Bool
  scope : Fin 8
  solo  : Bool
  wait  : Fin 4
  bank  : Fin 4
  mask  : BitVec 8
deriving DecidableEq, Repr

/-- One of the two context slots of a physical core, numbered package-wide (R5, R288). -/
structure CtxId where
  core : Fin 1792
  slot : Fin 2
deriving DecidableEq, Repr

/-- The two masters of the management space (R457). -/
inductive Master where
  | controlComplex | managementPort
deriving DecidableEq, Repr

/-- An image (R463): its header's 57-byte key, version and 114-byte signature, and its body. -/
structure Image where
  key       : List Byte
  version   : BitVec 32
  signature : List Byte
  body      : List Byte
deriving DecidableEq, Repr

/-- The other end's half of an X448 exchange, and its signature (R394). -/
structure PeerHalf where
  half      : List Byte
  signature : List Byte
deriving DecidableEq, Repr

/-- What the outside brings to a boot: the images, whether the self-test and the training pass, and the values it loads
(R462 to R464). -/
structure BootInput where
  romOk      : Bool
  primary    : Image         -- the stage-1 images in the boot flash
  alternate  : Image
  trainOk    : Bool
  os         : Image
  manifest     : BitVec 512  -- digest of the stage-1 manifest, which enrols the operator key
  operatorKey  : BitVec 512  -- SHAKE256 digest of the enrolled operator key
  reserves     : List (Nat × Nat)  -- the memory reserves that stage 1 carves: base, size (R344)
  nonce        : Word        -- drawn by the root of trust (R457)
deriving DecidableEq, Repr

/-- Structures whose corrected errors are counted (R465). -/
inductive EccUnit where
  | hbmRow (stack : Fin 12) (bank row : Nat)
  | lpddrFrame (frame : Nat)
  | l2Way (die : Fin 4) (set way : Nat)
  | granule (core : Fin 1792) (granule : Nat)
  | lane (port : Fin 6) (lane : Fin 8)
deriving DecidableEq, Repr

/-- What a packet that crosses a ring port carries: a step's record, an add to a counter, or something else (R372, R392). A
group entry that another router of the domain commits here comes in the same event (R384). -/
inductive Payload where
  | group (n : Fin 1024) (image : BitVec 512)
  | ring (id : BitVec 16) (kind : Fin 4) (step : Fin 8) (n : BitVec 27) (lost : Bool) (data : List Byte)
  | add (num : Fin 4096) (amount : Word)
  | read (num : Fin 4096)                              -- a `seqrd` of another domain
  | watch (num : Fin 4096) (thr : Word)                -- a `seqwatch` of another domain
  | ack (stream : Fin 64) (seq : BitVec 32)            -- an acknowledgment, which has no number of its own
  | other (data : List Byte)
deriving DecidableEq, Repr

/-- Where an uncorrectable error falls (R345): a sector of memory, one of a weight version's private line, or one of a
stash object's stored bytes. -/
inductive ErrorPlace where
  | memory (pa : BitVec 52)
  | priv (stage version : Fin 8) (pa : BitVec 52)
  | stash (stage : Fin 8) (layer : BitVec 16) (tag : BitVec 32) (sector : Nat)
deriving DecidableEq, Repr

/-- The kinds of structure of R465, in its order, for their windows and thresholds. -/
inductive EccKind where
  | hbm | lpddr | l2 | local | lane
deriving DecidableEq, Repr

/-- The guarded writes of R460 that are not rows of their own. -/
inductive Guarded where
  | reserve (base size : Nat)                -- memory for the control complex itself (R344)
  | plim (v : Word)
  | eccWindow (k : EccKind) (window threshold : Nat)
  | remap (cluster : Fin 28) (l : Fin 64) (entry : BitVec 8)
  | relabel (row : Fin 64) (y : Fin 32) (py : Fin 33)
  | spare (row : Fin 64) (y : Fin 32)
  | longHaul (port : Fin 2) (on : Bool)
  | readmit (dom : Fin 8) (coord : BitVec 11)   -- a rebooted package is served again (R397)
deriving DecidableEq, Repr

/-- A request that arrives at the management port (R457): what it asks for, the public key it names, whether its signature
verifies under that key, and the freshness values under its signature. -/
structure MgRequest where
  offset   : BitVec 16
  write    : Option Word
  key      : List Byte
  signedOk : Bool
  nonce    : Word
  seq      : Word
deriving DecidableEq, Repr

/-- What fires an armed shutter (R466). -/
inductive ShutterSource where
  | record (c : Cause) | mark (m : BitVec 12) | dead | trip | now
deriving DecidableEq, Repr

/-- Who writes core control (R228): a command by its number, whose flag reports a refusal, or a released S store of a
context. -/
inductive Writer where
  | copy (id : Nat) | store (x : CtxId) (va : BitVec 56)
deriving DecidableEq, Repr

/-- The slots of a bundle in program order, which is also the order of the header's bits 7 to 0 (R22, R24). -/
inductive SlotPos where
  | g | s | v0 | v1 | m | c0 | c1 | x
deriving DecidableEq, Repr

/-- The instruction set and the events: one constructor per row of the opcode table (the slot instructions with operands first, then those without, then the events). -/
inductive Instr where
  -- S slot
  /-- Writes the 64-bit sum of two scalar registers. (R100) -/
  | add (d a b : Fin 64)
  /-- Writes the 64-bit difference of two scalar registers. (R100) -/
  | sub (d a b : Fin 64)
  /-- Writes the bitwise and of two scalar registers. (R100) -/
  | and (d a b : Fin 64)
  /-- Writes the bitwise or of two scalar registers. (R100) -/
  | or (d a b : Fin 64)
  /-- Writes the bitwise xor of two scalar registers. (R100) -/
  | xor (d a b : Fin 64)
  /-- Writes a and not b. (R100) -/
  | andn (d a b : Fin 64)
  /-- Shifts a left by b[5:0]. (R100) -/
  | shl (d a b : Fin 64)
  /-- Shifts a right logically by b[5:0]. (R100) -/
  | shr (d a b : Fin 64)
  /-- Shifts a right arithmetically by b[5:0]. (R100) -/
  | sar (d a b : Fin 64)
  /-- Rotates a left by b[5:0]. (R100) -/
  | rol (d a b : Fin 64)
  /-- Writes the signed minimum of two registers. (R100) -/
  | min (d a b : Fin 64)
  /-- Writes the signed maximum of two registers. (R100) -/
  | max (d a b : Fin 64)
  /-- Writes the unsigned minimum of two registers. (R100) -/
  | minn (d a b : Fin 64)
  /-- Writes the unsigned maximum of two registers. (R100) -/
  | maxn (d a b : Fin 64)
  /-- Writes 1 if a equals b, else 0. (R100) -/
  | cmpEq (d a b : Fin 64)
  /-- Writes 1 if a differs from b, else 0. (R100) -/
  | cmpNe (d a b : Fin 64)
  /-- Writes 1 if a is signed-less than b. (R100) -/
  | cmpLt (d a b : Fin 64)
  /-- Writes 1 if a is signed-less or equal to b. (R100) -/
  | cmpLe (d a b : Fin 64)
  /-- Writes 1 if a is unsigned-less than b. (R100) -/
  | cmpLtn (d a b : Fin 64)
  /-- Writes 1 if a is unsigned-less or equal to b. (R100) -/
  | cmpLen (d a b : Fin 64)
  /-- Counts leading zero bits of a. (R100) -/
  | clz (d a : Fin 64)
  /-- Counts trailing zero bits of a. (R100) -/
  | ctz (d a : Fin 64)
  /-- Writes index of lowest set bit plus one. (R100) -/
  | ffs (d a : Fin 64)
  /-- Counts set bits of a. (R100) -/
  | popc (d a : Fin 64)
  /-- Reverses the bit order of a. (R100) -/
  | brev (d a : Fin 64)
  /-- Writes the low 64 bits of the product. (R101) -/
  | mul (d a b : Fin 64)
  /-- Writes the high half of the signed product. (R101) -/
  | mulh (d a b : Fin 64)
  /-- Writes the high half of the unsigned product. (R101) -/
  | mulhn (d a b : Fin 64)
  /-- Signed division truncating toward zero with defined edge results. (R101) -/
  | div (d a b : Fin 64)
  /-- Unsigned division with defined result for zero divisor. (R101) -/
  | divn (d a b : Fin 64)
  /-- Signed remainder with sign of the dividend. (R101) -/
  | rem (d a b : Fin 64)
  /-- Unsigned remainder. (R101) -/
  | remn (d a b : Fin 64)
  /-- Adds a sign-extended 14-bit immediate. (R102) -/
  | addi (d a : Fin 64) (i : BitVec 14)
  /-- Ands a sign-extended 14-bit immediate. (R102) -/
  | andi (d a : Fin 64) (i : BitVec 14)
  /-- Ors a sign-extended 14-bit immediate. (R102) -/
  | ori (d a : Fin 64) (i : BitVec 14)
  /-- Xors a sign-extended 14-bit immediate. (R102) -/
  | xori (d a : Fin 64) (i : BitVec 14)
  /-- Shifts left by an immediate amount. (R103) -/
  | shli (d a : Fin 64) (n : BitVec 6)
  /-- Shifts right logically by an immediate amount. (R103) -/
  | shri (d a : Fin 64) (n : BitVec 6)
  /-- Shifts right arithmetically by an immediate amount. (R103) -/
  | sari (d a : Fin 64) (n : BitVec 6)
  /-- Rotates left by an immediate amount. (R103) -/
  | roli (d a : Fin 64) (n : BitVec 6)
  /-- Compares a with an 11-bit immediate for equality. (R104) -/
  | cmpiEq (d a : Fin 64) (i : BitVec 11)
  /-- Compares a with an immediate for inequality. (R104) -/
  | cmpiNe (d a : Fin 64) (i : BitVec 11)
  /-- Signed less-than against an immediate. (R104) -/
  | cmpiLt (d a : Fin 64) (i : BitVec 11)
  /-- Signed less-or-equal against an immediate. (R104) -/
  | cmpiLe (d a : Fin 64) (i : BitVec 11)
  /-- Unsigned less-than against an immediate. (R104) -/
  | cmpiLtn (d a : Fin 64) (i : BitVec 11)
  /-- Unsigned less-or-equal against an immediate. (R104) -/
  | cmpiLen (d a : Fin 64) (i : BitVec 11)
  /-- Extracts an unsigned bit field. (R107) -/
  | bfxN (d a : Fin 64) (l p : BitVec 6)
  /-- Extracts a sign-extended bit field. (R107) -/
  | bfxI (d a : Fin 64) (l p : BitVec 6)
  /-- Inserts the low bits of a into a field of d. (R108) -/
  | bfi (d a : Fin 64) (l p : BitVec 6)
  /-- Funnel shift left of a:b by an immediate amount. (R109) -/
  | fshl (d a b : Fin 64) (n : BitVec 6)
  /-- Funnel shift right of a:b by an immediate amount. (R109) -/
  | fshr (d a b : Fin 64) (n : BitVec 6)
  /-- Funnel shift left by a register amount. (R109) -/
  | fshlv (d a b c : Fin 64)
  /-- Funnel shift right by a register amount. (R109) -/
  | fshrv (d a b c : Fin 64)
  /-- Selects a or b by a condition register. (R110) -/
  | sel (d a b c : Fin 64)
  /-- Loads a sign-extended 20-bit immediate. (R105) -/
  | li (d : Fin 64) (i : BitVec 20)
  /-- Shifts d left by 20 and ors in a 20-bit immediate. (R106) -/
  | liu (d : Fin 64) (i : BitVec 20)
  /-- Reads a control register into a scalar register. (R111) -/
  | mfs (d : Fin 64) (n : BitVec 14)
  /-- Writes a scalar register to a control register that has no behaviour of its own. (R111) -/
  | mts (a : Fin 64) (n : BitVec 14)
  /-- Reads the core cycle counter. (R339) -/
  | clk (d : Fin 64)
  /-- Reads the logical core identity. (R340) -/
  | coreidLog (d : Fin 64)
  /-- Reads the physical core identity. (R340) -/
  | coreidPhys (d : Fin 64)
  /-- Branches with three delay bundles when a is zero. (R113) -/
  | brZ (a : Fin 64) (i : BitVec 16)
  /-- Branches when a is nonzero. (R113) -/
  | brNz (a : Fin 64) (i : BitVec 16)
  /-- Branches when a is negative. (R113) -/
  | brNeg (a : Fin 64) (i : BitVec 16)
  /-- Branches when a is not negative. (R113) -/
  | brNneg (a : Fin 64) (i : BitVec 16)
  /-- Branches when a is positive. (R113) -/
  | brPos (a : Fin 64) (i : BitVec 16)
  /-- Branches when a is not positive. (R113) -/
  | brNpos (a : Fin 64) (i : BitVec 16)
  /-- Branches always after three delay bundles. (R113) -/
  | br (i : BitVec 16)
  /-- Jumps to the address in a after three delay bundles. (R112) -/
  | jmp (a : Fin 64)
  /-- Calls a displacement target and writes the link into s63. (R114) -/
  | call (i : BitVec 20)
  /-- Calls the address in a and writes the link into s63. (R114) -/
  | callr (a : Fin 64)
  /-- Redirects to recovery code when a register holds deferred poison. (R117) -/
  | chk (a : Fin 64) (i : BitVec 16)
  /-- Loads a sign-extended byte. (R231) -/
  | ldI8 (d b : Fin 64) (c : Fin 16) (o : BitVec 10)
  /-- Loads a zero-extended byte. (R231) -/
  | ldN8 (d b : Fin 64) (c : Fin 16) (o : BitVec 10)
  /-- Loads a sign-extended halfword. (R231) -/
  | ldI16 (d b : Fin 64) (c : Fin 16) (o : BitVec 10)
  /-- Loads a zero-extended halfword. (R231) -/
  | ldN16 (d b : Fin 64) (c : Fin 16) (o : BitVec 10)
  /-- Loads a sign-extended word. (R231) -/
  | ldI32 (d b : Fin 64) (c : Fin 16) (o : BitVec 10)
  /-- Loads a zero-extended word. (R231) -/
  | ldN32 (d b : Fin 64) (c : Fin 16) (o : BitVec 10)
  /-- Loads a doubleword. (R231) -/
  | ldI64 (d b : Fin 64) (c : Fin 16) (o : BitVec 10)
  /-- Speculative word load giving deferred poison instead of faults. (R116) -/
  | ldSN32 (d b : Fin 64) (c : Fin 16) (o : BitVec 10)
  /-- Speculative doubleword load giving deferred poison instead of faults. (R116) -/
  | ldSI64 (d b : Fin 64) (c : Fin 16) (o : BitVec 10)
  /-- Withholds a byte store until the next checkpoint. (R231) -/
  | st8 (d b : Fin 64) (c : Fin 16) (o : BitVec 10)
  /-- Withholds a halfword store. (R231) -/
  | st16 (d b : Fin 64) (c : Fin 16) (o : BitVec 10)
  /-- Withholds a word store. (R231) -/
  | st32 (d b : Fin 64) (c : Fin 16) (o : BitVec 10)
  /-- Withholds a doubleword store. (R231) -/
  | st64 (d b : Fin 64) (c : Fin 16) (o : BitVec 10)
  /-- Allocates a load block of lines into the L1 and completes a flag. (R230) -/
  | ldBlk (f : Fin 32) (a b : Fin 64) (r : BitVec 2) (c : Fin 16)
  /-- Performs a 32-bit atomic at issue in a checkpoint bundle. (R232) -/
  | amo32 (d a b : Fin 64) (p : BitVec 4) (c : Fin 16)
  /-- Performs a 64-bit atomic at issue in a checkpoint bundle. (R232) -/
  | amo64 (d a b : Fin 64) (p : BitVec 4) (c : Fin 16)
  /-- Remote load with a declared latency that never freezes. (R380) -/
  | rld (d a : Fin 64) (l : BitVec 14)
  /-- Orders accesses across the classes in a mask as a checkpoint bundle. (R257) -/
  | fenceC (m : BitVec 16)
  /-- Moves visibility of complete accesses between two paths. (R258) -/
  | fenceP (p q : BitVec 3)
  /-- Sets the named flags. (R272) -/
  | sig (a : Fin 64)
  /-- Clears set and error bits of the named flags and frees their watches. (R272) -/
  | clrf (a : Fin 64)
  /-- Clears only the error bits and cause bytes of the named flags. (R272) -/
  | clrfErr (a : Fin 64)
  /-- Advances a ring's producer pointer. (R285) -/
  | advP (h : Fin 16) (b : Fin 64)
  /-- Advances a ring's consumer pointer. (R285) -/
  | advC (h : Fin 16) (b : Fin 64)
  /-- Binds a flag to filled at least k of a ring. (R286) -/
  | rfill (f : Fin 32) (h : Fin 16) (b : Fin 64)
  /-- Binds a flag to free at least k of a ring. (R286) -/
  | rfree (f : Fin 32) (h : Fin 16) (b : Fin 64)
  /-- Adds to a sequence counter as a withheld release. (R279) -/
  | seqadd (a b : Fin 64)
  /-- Binds a flag to a counter reaching a threshold. (R282) -/
  | seqwatch (f : Fin 32) (a b : Fin 64)
  /-- Binds a flag to a counter reaching threshold plus the task tag. (R282) -/
  | seqwatchTag (f : Fin 32) (a b : Fin 64)
  /-- Reads a sequence counter as an acquire. (R280) -/
  | seqrd (d a : Fin 64)
  /-- Creates a graph instance from a descriptor. (R302) -/
  | launch (d a b : Fin 64)
  /-- Enqueues a tag and argument into the meridian's F queue. (R301) -/
  | launchQF (d b : Fin 64)
  /-- Enqueues into the meridian's B queue. (R301) -/
  | launchQB (d b : Fin 64)
  /-- Enqueues into the meridian's W queue. (R301) -/
  | launchQW (d b : Fin 64)
  /-- Renegotiates the team's local-array carve-out at a barrier. (R221) -/
  | carve (d a : Fin 64)
  /-- Commits as a checkpoint and enters the supervisor with a trap record. (R328) -/
  | trap (n : BitVec 14)
  /-- Sets the seed of a dimension entry. (R154) -/
  | qseed (a b : Fin 64)
  /-- Loads dimension records into the sequence tables. (R155) -/
  | qldt (c : Fin 16) (a b : Fin 64)
  /-- Computes one scrambled Sobol coordinate. (R157) -/
  | qpt (d a b : Fin 64)
  /-- Stores dimension entries as records. (R156) -/
  | qsave (c : Fin 16) (a b : Fin 64)
  -- G slot (the other gate fields stand in `Gate`)
  /-- Gate kind that passes n idle context cycles after the bundle. (R30) -/
  | pause (g : Gate) (n : BitVec 12)
  /-- Gate kind that opens a phase and registers its ranges. (R335) -/
  | phase (g : Gate) (n : BitVec 12)
  /-- Gate kind that writes a trace mark. (R30) -/
  | mark (g : Gate) (n : BitVec 12)
  -- V slots
  /-- Element-wise addition. (R126) -/
  | vadd (t : VFmt) (d a b : Fin 64) (k : Fin 4) (h : Bool)
  /-- Saturating integer addition. (R126) -/
  | vaddSat (t : VFmt) (d a b : Fin 64) (k : Fin 4) (h : Bool)
  /-- Element-wise subtraction. (R126) -/
  | vsub (t : VFmt) (d a b : Fin 64) (k : Fin 4) (h : Bool)
  /-- Saturating integer subtraction. (R126) -/
  | vsubSat (t : VFmt) (d a b : Fin 64) (k : Fin 4) (h : Bool)
  /-- Element-wise multiplication, low part or rounded. (R126) -/
  | vmul (t : VFmt) (d a b : Fin 64) (k : Fin 4) (h : Bool)
  /-- High half of integer products. (R126) -/
  | vmulHi (t : VFmt) (d a b : Fin 64) (k : Fin 4) (h : Bool)
  /-- Widening products of even elements. (R126) -/
  | vmulWide (t : VFmt) (d a b : Fin 64) (k : Fin 4) (h : Bool)
  /-- Fused d plus a times b. (R128) -/
  | vfma (t : VFmt) (d a b : Fin 64) (k : Fin 4) (h : Bool)
  /-- Fused a times b minus d. (R128) -/
  | vfmaFms (t : VFmt) (d a b : Fin 64) (k : Fin 4) (h : Bool)
  /-- Fused d minus a times b. (R128) -/
  | vfmaFnma (t : VFmt) (d a b : Fin 64) (k : Fin 4) (h : Bool)
  /-- Element-wise minimum. (R129) -/
  | vmin (t : VFmt) (d a b : Fin 64) (k : Fin 4) (h : Bool)
  /-- Element-wise maximum. (R129) -/
  | vmax (t : VFmt) (d a b : Fin 64) (k : Fin 4) (h : Bool)
  /-- Element-wise absolute value. (R126) -/
  | vabs (t : VFmt) (d a : Fin 64) (k : Fin 4)
  /-- Element-wise negation. (R126) -/
  | vneg (t : VFmt) (d a : Fin 64) (k : Fin 4)
  /-- Lane-wise bitwise and. (R133) -/
  | vlogAnd (t : VFmt) (d a b : Fin 64) (k : Fin 4) (h : Bool)
  /-- Lane-wise bitwise or. (R133) -/
  | vlogOr (t : VFmt) (d a b : Fin 64) (k : Fin 4) (h : Bool)
  /-- Lane-wise bitwise xor. (R133) -/
  | vlogXor (t : VFmt) (d a b : Fin 64) (k : Fin 4) (h : Bool)
  /-- Lane-wise a and not b. (R133) -/
  | vlogAndn (t : VFmt) (d a b : Fin 64) (k : Fin 4) (h : Bool)
  /-- Lane-wise not a. (R133) -/
  | vlogNot (t : VFmt) (d a : Fin 64) (k : Fin 4)
  /-- Per-element shift left. (R127) -/
  | vshShl (t : VFmt) (d a b : Fin 64) (k : Fin 4) (h : Bool)
  /-- Per-element logical shift right. (R127) -/
  | vshShr (t : VFmt) (d a b : Fin 64) (k : Fin 4) (h : Bool)
  /-- Per-element arithmetic shift right. (R127) -/
  | vshSar (t : VFmt) (d a b : Fin 64) (k : Fin 4) (h : Bool)
  /-- Writes a mask of lanes where all elements are equal. (R130) -/
  | vcmpEq (t : VFmt) (m : Fin 16) (a b : Fin 64) (k : Fin 4) (h : Bool)
  /-- Mask of lanes where elements differ. (R130) -/
  | vcmpNe (t : VFmt) (m : Fin 16) (a b : Fin 64) (k : Fin 4) (h : Bool)
  /-- Mask of less-than lanes. (R130) -/
  | vcmpLt (t : VFmt) (m : Fin 16) (a b : Fin 64) (k : Fin 4) (h : Bool)
  /-- Mask of less-or-equal lanes. (R130) -/
  | vcmpLe (t : VFmt) (m : Fin 16) (a b : Fin 64) (k : Fin 4) (h : Bool)
  /-- Mask of greater-than lanes. (R130) -/
  | vcmpGt (t : VFmt) (m : Fin 16) (a b : Fin 64) (k : Fin 4) (h : Bool)
  /-- Mask of greater-or-equal lanes. (R130) -/
  | vcmpGe (t : VFmt) (m : Fin 16) (a b : Fin 64) (k : Fin 4) (h : Bool)
  /-- Mask of unordered lanes. (R130) -/
  | vcmpUo (t : VFmt) (m : Fin 16) (a b : Fin 64) (k : Fin 4) (h : Bool)
  /-- Selects whole lanes of a or b by a mask. (R131) -/
  | vsel (t : VFmt) (d a b : Fin 64) (k : Fin 4) (h : Bool) (s : Fin 8)
  /-- Counts leading zeros per element. (R134) -/
  | vbitClz (t : VFmt) (d a : Fin 64) (k : Fin 4)
  /-- Counts trailing zeros per element. (R134) -/
  | vbitCtz (t : VFmt) (d a : Fin 64) (k : Fin 4)
  /-- Finds first set bit per element. (R134) -/
  | vbitFfs (t : VFmt) (d a : Fin 64) (k : Fin 4)
  /-- Counts set bits per element. (R134) -/
  | vbitPopc (t : VFmt) (d a : Fin 64) (k : Fin 4)
  /-- Extracts an unsigned field per lane. (R135) -/
  | vbfxN32 (d a b : Fin 64) (k : Fin 4) (h : Bool)
  /-- Extracts a signed field per lane. (R135) -/
  | vbfxI32 (d a b : Fin 64) (k : Fin 4) (h : Bool)
  /-- Per-lane funnel shift left of d:a. (R136) -/
  | vfshLeft (t : VFmt) (d a b : Fin 64) (k : Fin 4) (h : Bool)
  /-- Per-lane funnel shift right of d:a. (R136) -/
  | vfshRight (t : VFmt) (d a b : Fin 64) (k : Fin 4) (h : Bool)
  /-- Fixed-function exp2 per element. (R137) -/
  | vspecExp2 (d a : Fin 64) (k : Fin 4)
  /-- Fixed-function log2 per element. (R137) -/
  | vspecLog2 (d a : Fin 64) (k : Fin 4)
  /-- Fixed-function reciprocal per element. (R137) -/
  | vspecRcp (d a : Fin 64) (k : Fin 4)
  /-- Fixed-function reciprocal square root. (R137) -/
  | vspecRsqrt (d a : Fin 64) (k : Fin 4)
  /-- Correctly rounded square root. (R137) -/
  | vspecSqrt (d a : Fin 64) (k : Fin 4)
  /-- Tree sum of each lane group into its first lane. (R139) -/
  | vredAdd (t : VFmt) (d a : Fin 64) (k : Fin 4)
  /-- Tree maximum of each lane group. (R139) -/
  | vredMax (t : VFmt) (d a : Fin 64) (k : Fin 4)
  /-- Tree minimum of each lane group. (R139) -/
  | vredMin (t : VFmt) (d a : Fin 64) (k : Fin 4)
  /-- Shuffles lanes within each group. (R140) -/
  | vshuf (t : VFmt) (d a b : Fin 64) (k : Fin 4) (h : Bool)
  /-- Rotates lanes within each group. (R140) -/
  | vrot (t : VFmt) (d a b : Fin 64) (k : Fin 4) (h : Bool)
  /-- Gathers lanes across groups. (R140) -/
  | vxg (t : VFmt) (d a b : Fin 64) (k : Fin 4) (h : Bool)
  /-- Broadcasts a scalar into every element. (R141) -/
  | vbcast (t : VFmt) (d a : Fin 64) (k : Fin 4)
  /-- Extracts one element into a scalar register. (R141) -/
  | vext (t : VFmt) (d a b : Fin 64)
  /-- Loads 512 bytes of scratchpad into a vector register. (R142) -/
  | vld (t : VFmt) (d a b : Fin 64) (k : Fin 4)
  /-- Withholds a 512-byte scratchpad store. (R144) -/
  | vst (t : VFmt) (d a b : Fin 64) (k : Fin 4)
  /-- Gathers lanes from per-lane scratchpad offsets. (R142) -/
  | vgath (t : VFmt) (d a b : Fin 64) (k : Fin 4)
  /-- Scatters lanes to per-lane scratchpad offsets. (R144) -/
  | vscat (t : VFmt) (d a b : Fin 64) (k : Fin 4)
  /-- Per-lane memory-side add performed at release. (R234) -/
  | vamoAdd (t : VFmt) (d a b : Fin 64) (k : Fin 4)
  /-- Per-lane bf16 add with stochastic rounding. (R235) -/
  | vamoAddSr (d a b : Fin 64) (k : Fin 4)
  /-- Per-lane memory-side minimum. (R234) -/
  | vamoMin (t : VFmt) (d a b : Fin 64) (k : Fin 4)
  /-- Per-lane memory-side maximum. (R234) -/
  | vamoMax (t : VFmt) (d a b : Fin 64) (k : Fin 4)
  /-- Per-lane memory-side floating maximum. (R234) -/
  | vamoFmax (t : VFmt) (d a b : Fin 64) (k : Fin 4)
  /-- Computes Sobol points per lane. (R158) -/
  | vqpt (t : VFmt) (d a b : Fin 64) (k : Fin 4)
  /-- Ands two masks. (R132) -/
  | vmaskAnd (d a b : Fin 16) (k : Fin 4)
  /-- Ors two masks. (R132) -/
  | vmaskOr (d a b : Fin 16) (k : Fin 4)
  /-- Xors two masks. (R132) -/
  | vmaskXor (d a b : Fin 16) (k : Fin 4)
  /-- Ands a mask with the complement of another. (R132) -/
  | vmaskAndn (d a b : Fin 16) (k : Fin 4)
  /-- Complements a mask. (R132) -/
  | vmaskNot (d a : Fin 16) (k : Fin 4)
  /-- Copies a mask. (R132) -/
  | vmaskMov (d a : Fin 16) (k : Fin 4)
  /-- Copies written lanes of a vector register. (R141) -/
  | vmov (t : VFmt) (d a : Fin 64) (k : Fin 4)
  -- M slot
  /-- Runs an ephemeris routine on a private copy of the q registers. (R215) -/
  | mcall (e : Fin 64) (i : BitVec 16) (f : Fin 32)
  /-- Loads and converts a weight tile into shadow planes. (R205) -/
  | mlds (a : Fin 16) (f : Fin 32) (p q : Fin 8)
  /-- Exchanges live and shadow planes of an array. (R206) -/
  | mswap (a : Fin 16)
  /-- Streams activation rows from a ring through the live planes into accumulators. (R208) -/
  | mstream (a : Fin 16) (t : Fin 8) (i : Bool)
  /-- Streams one eyepiece row through the live planes. (R208) -/
  | mstreamEyepiece (a : Fin 16) (e t : Fin 8) (i : Bool)
  /-- Converts accumulator entries and writes them to ring slots. (R210) -/
  | mdrain (f : Fin 32) (t : Fin 8) (m : Fin 16) (c : Bool)
  /-- Zeroes a tile of accumulator entries. (R209) -/
  | mzero (q : Fin 8)
  /-- Copies one row record into an eyepiece. (R207) -/
  | mepl (e q : Fin 8)
  /-- Sets the context's mirror mode. (R187) -/
  | mmode (m : BitVec 3) (o b : Bool) (w a : BitVec 3)
  /-- Regroups segments into an array. (R186) -/
  | mseg (f : Fin 16) (r c : BitVec 2)
  /-- Copies a scalar register into a q register. (R204) -/
  | mqset (q : Fin 8) (a : Fin 64)
  /-- Loads micro-steps into the ephemeris store and optionally sets an entry. (R213) -/
  | mephw (a b : Fin 8) (f : Fin 1024) (s : Bool) (e : Fin 64)
  /-- Waits for earlier M operations and reads the mirror flags. (R211) -/
  | mstat (d : Fin 64) (c : Bool)
  -- C slots
  /-- Copies a strided block of bytes. (R239) -/
  | cpy (n : Fin 16) (f : Fin 32) (a b c : Fin 64)
  /-- Gathers rows by an index list. (R240) -/
  | cgath (n : Fin 16) (f : Fin 32) (a b c : Fin 64)
  /-- Scatters rows by an index list. (R240) -/
  | cscat (n : Fin 16) (f : Fin 32) (a b c : Fin 64)
  /-- Fills a strided block with an 8-byte pattern. (R239) -/
  | cfill (n : Fin 16) (f : Fin 32) (a b c : Fin 64)
  /-- Adds source elements into destination elements atomically. (R239) -/
  | cred (n : Fin 16) (f : Fin 32) (a b c : Fin 64)
  /-- Broadcasts bytes to scratchpads of masked cluster cores. (R241) -/
  | cbcast (n : Fin 16) (f : Fin 32) (a b c : Fin 64)
  /-- Transforms a tensor between formats by header records. (R242) -/
  | cxfm (n : Fin 16) (f : Fin 32) (a b c : Fin 64)
  /-- Creates a stash object and stores its data. (R362) -/
  | cstashSave (n : Fin 16) (f : Fin 32) (a b c : Fin 64)
  /-- Writes a stash object's data, optionally removing it. (R362) -/
  | cstashGet (n : Fin 16) (f : Fin 32) (a b c : Fin 64)
  /-- Moves a far stash object into the near pool if it fits. (R362) -/
  | cstashPf (n : Fin 16) (f : Fin 32) (c : Fin 64)
  /-- Removes a stash object and frees its size. (R362) -/
  | cstashDrop (n : Fin 16) (f : Fin 32) (c : Fin 64)
  /-- Makes a version live with a view equal to a source version. (R368) -/
  | cverFork (n : Fin 16) (f : Fin 32) (a : Fin 64)
  /-- Discards a version's private lines and makes it not live. (R368) -/
  | cverRetire (n : Fin 16) (f : Fin 32) (a : Fin 64)
  /-- Writes the only live version's private lines into the shared copy. (R368) -/
  | cverSettle (n : Fin 16) (f : Fin 32) (a : Fin 64)
  /-- Sends a message on a tensor channel. (R376) -/
  | csend (n : Fin 16) (f : Fin 32) (a b c : Fin 64)
  /-- Posts a receive window on a tensor channel. (R377) -/
  | crecv (n : Fin 16) (f : Fin 32) (a b c : Fin 64)
  /-- One compressed reduce-scatter step across domains. (R391) -/
  | cringReduceScatter (n : Fin 16) (f : Fin 32) (a b c : Fin 64)
  /-- One compressed all-gather step across domains. (R391) -/
  | cringAllGather (n : Fin 16) (f : Fin 32) (a b c : Fin 64)
  /-- One f32 reduce-scatter step across domains. (R391) -/
  | cringReduceScatterF32 (n : Fin 16) (f : Fin 32) (a b c : Fin 64)
  /-- One f32 all-gather step across domains. (R391) -/
  | cringAllGatherF32 (n : Fin 16) (f : Fin 32) (a b c : Fin 64)
  /-- Contributes elements to an in-network reduction over a group. (R386) -/
  | cnred (n : Fin 16) (f : Fin 32) (a b c : Fin 64)
  /-- Writes back dirty lines in a range. (R356) -/
  | cmaintClean (n : Fin 16) (f : Fin 32) (a b c : Fin 64)
  /-- Writes back and invalidates lines in a range. (R356) -/
  | cmaintFlush (n : Fin 16) (f : Fin 32) (a b c : Fin 64)
  /-- Invalidates lines discarding dirty data. (R356) -/
  | cmaintInval (n : Fin 16) (f : Fin 32) (a b c : Fin 64)
  /-- Removes unlocked TLB entries for a range. (R356) -/
  | cmaintTlb (n : Fin 16) (f : Fin 32) (a b c : Fin 64)
  /-- Pins translations into the cluster TLB. (R355) -/
  | cpin (n : Fin 16) (f : Fin 32) (a b c : Fin 64)
  /-- Decrements pin counts of translations. (R355) -/
  | cpinUnpin (n : Fin 16) (f : Fin 32) (a b c : Fin 64)
  /-- Writes a multicast group entry into routers. (R384) -/
  | cmcast (n : Fin 16) (f : Fin 32) (a b : Fin 64)
  -- X slot
  /-- Converts a register group between formats under %round. (R165) -/
  | xcvt (f g : BitVec 4) (d a : Fin 64)
  /-- Converts with address-keyed stochastic rounding. (R166) -/
  | xcvtSr (f g : BitVec 4) (d a b : Fin 64)
  /-- Quantises floating elements to BFP blocks and exponents. (R167) -/
  | xq (k : Bool) (s m : BitVec 4) (d a : Fin 64) (z : Fin 16)
  /-- Expands BFP blocks to floating elements. (R168) -/
  | xdq (k : Bool) (s m : BitVec 4) (d a : Fin 64) (z : Fin 16)
  /-- Loads a scale register from a ring slot. (R169) -/
  | xsld (v : Bool) (c : BitVec 4) (k : Bool) (o : BitVec 3) (z h : Fin 16) (b : Fin 64)
  /-- Stores a scale register to a ring slot. (R169) -/
  | xsst (v : Bool) (c : BitVec 4) (k : Bool) (o : BitVec 3) (z h : Fin 16) (b : Fin 64)
  /-- Transposes 16 by 16 matrices. (R178) -/
  | xtr (w : BitVec 2) (d a : Fin 64)
  /-- Gathers elements through the permutation table. (R175) -/
  | xperm (w : BitVec 2) (d a b : Fin 64)
  /-- Applies signed Hadamard transforms forward or inverse. (R177) -/
  | xhad (n : BitVec 2) (i : Bool) (d a b : Fin 64)
  /-- Writes the largest magnitude of a register and a scalar. (R181) -/
  | xamax (f : BitVec 4) (d a b : Fin 64)
  /-- Packs elements into m-bit fields. (R179) -/
  | xpack (m : BitVec 4) (w : BitVec 2) (s g : Bool) (d a : Fin 64)
  /-- Unpacks m-bit fields into elements. (R179) -/
  | xunpk (m : BitVec 4) (w : BitVec 2) (g : Bool) (d a : Fin 64)
  /-- Expands bitmap-sparse data. (R180) -/
  | xexp (w : BitVec 2) (d a : Fin 64) (m : Fin 16)
  /-- Loads the core's permutation table. (R174) -/
  | xtblPerm (a b : Fin 64)
  /-- Loads the core's Hadamard key register. (R174) -/
  | xtblKey (a : Fin 64)
  /-- Ends the task, drains it, releases at domain scope and sets its scoreboard bit. (R304) -/
  | retire
  /-- Ends a user-level handler. (R277) -/
  | retu
  /-- Ends the late handler and re-evaluates the trapped bundle. (R330) -/
  | retl
  -- events
  /-- The mirror takes the next operation from a context's queue and occupies itself with it. (R197) -/
  | mOperationExecute (x : CtxId)
  /-- The last cell of a plane load is written and its flag completes. (R205) -/
  | mldsCompletion (x : CtxId)
  /-- The last drained byte is written and its flag completes. (R210) -/
  | mdrainCompletion (x : CtxId)
  /-- A routine reaches end or fails a step check and completes its flag. (R215) -/
  | routineCompletion (x : CtxId)
  /-- Resets the package and runs the boot sequence. (R462) -/
  | packageReset (b : BootInput)
  /-- Late load data arrives, lands and unfreezes the context. (R52) -/
  | loadDataArrival (x : CtxId)
  /-- Fills a spilled vector register into the register share. (R75) -/
  | registerFill (x : CtxId) (v : Fin 64)
  /-- Walks the page tables for a TLB miss and installs or faults. (R351) -/
  | pageWalk (x : CtxId) (va : BitVec 56)
  /-- A released store performs at its home. (R252) -/
  | releasedStorePerform (x : CtxId) (n : Nat)
  /-- A home refuses a released store, which is parked in the replay queue. (R261) -/
  | storeRefused (x : CtxId) (n : Nat) (prot : Bool)
  /-- Resends parked stores oldest first. (R262) -/
  | rqctlRetry (x : CtxId)
  /-- Discards every parked store. (R262) -/
  | rqctlDrop (x : CtxId)
  /-- A command reaches the head of its queue, pins its pages and moves its bytes. (R237) -/
  | commandExecute (core : Fin 1792) (queue : Fin 2)
  /-- An engine command finishes and sets its flag, with error status if any. (R267) -/
  | commandCompletion (core : Fin 1792) (n : Nat) (outcome : Option Cause)
  /-- Every line of a load block is present and its flag completes. (R230) -/
  | ldBlkCompletion (core : Fin 1792) (n : Nat)
  /-- A counter reaches a watch threshold and sets the bound flag. (R282) -/
  | watchFire (x : CtxId) (j : Fin 4)
  /-- Delivers a pending interrupting flag to the user handler. (R275) -/
  | userInterruptDelivery (x : CtxId)
  /-- An rld's declared latency expires; the result lands or becomes late. (R381) -/
  | rldDeadline (x : CtxId)
  /-- An overdue rld reply arrives and replaces the late value. (R381) -/
  | rldReply (x : CtxId) (n : Nat)
  /-- Writes a fault record or notice into the record queue and halts the context. (R324) -/
  | faultRecordWrite
  /-- Configures the record queue, releasing waiting records when enabled. (R324) -/
  | frqWrite (v : Word)
  /-- Starts a ready task in a free slot of its logical core. (R303) -/
  | taskStart (x : CtxId)
  /-- Chooses a victim for a ready task that lacks a slot. (R311) -/
  | preemptionDecision (l : Fin 1792)
  /-- The deferred slice floor expires and the decision is made again. (R311) -/
  | sliceFloorExpiry (x : CtxId)
  /-- A resident task's equal-priority quantum expires. (R311) -/
  | quantumExpiry (x : CtxId)
  /-- No checkpoint came within 512 cycles, so one is forced at the victim. (R313) -/
  | preemptForcedCheckpoint (x : CtxId)
  /-- Saves a victim task into a save frame at a checkpoint. (R313) -/
  | checkpointSwitchOut (x : CtxId)
  /-- Restores a switched-out task and reloads its planes and eyepieces. (R313) -/
  | taskResume (x : CtxId)
  /-- A matching policy row pops a queue entry and creates an instance. (R309) -/
  | meridianFiring (m : Fin 8)
  /-- A message arrives, is placed in a window and appended to a meridian queue; `lost` numbers its lost bytes. (R378) -/
  | channelMessageArrival (ch : Fin 256) (peer : Fin 2048) (pch : Fin 256) (tag : BitVec 32) (lost : List Nat) (data : List Byte)
  /-- A B arrival's prefetch moves far objects into the near pool. (R365) -/
  | stashPrefetch
  /-- Writes back a graph's dirty lines before its increment leaves the domain. (R264) -/
  | releaseFlush
  /-- A reduction chunk reaches a router and joins the prefix. (R388) -/
  | nredChunkArrival (grp : BitVec 10) (seq : BitVec 16) (chunk : Nat) (rank : Fin 32) (fits lost : Bool) (data : List Byte)
  /-- A chunk deadline expires and the router spills to the home. (R388) -/
  | nredDeadlineSpill (grp : BitVec 10) (seq : BitVec 16) (chunk : Nat)
  /-- A ring step's record arrives from D- and is applied. (R392) -/
  | ringStepArrival (id : BitVec 16) (kind : Fin 4) (step : Fin 8) (n : BitVec 27) (lost : Bool) (data : List Byte)
  /-- Runs the signed X448 exchange at long-haul link bring-up. (R394) -/
  | keyAgreement (port : Fin 2) (peer : PeerHalf) (secret : BitVec 448)
  /-- A frame counter reaches 2^31 and a new epoch key is agreed. (R394) -/
  | epochRotation (port : Fin 2) (peer : PeerHalf) (secret : BitVec 448)
  /-- Receives a long-haul frame, checks tag and sequence, acknowledges or requests replay. (R395) -/
  | frameReceive (port : Fin 2) (epoch : Nat) (counter : BitVec 32) (tagOk : Bool)
  /-- Measures the link round trip, in µs and ns, and updates the bound each second. (R395) -/
  | roundTripMeasure (port : Fin 2) (us : Nat) (ns : Fin 1000)
  /-- Applies or drops a ring-port packet by its deduplication window. (R396) -/
  | packetReceive (src : BitVec 14) (stream : Fin 64) (seq : BitVec 32) (data : Payload)
  /-- The end-to-end timer expires and a packet is sent again. (R396) -/
  | e2eResend (n : Nat)
  /-- An idle port sends a heartbeat flit every 10 microseconds. (R397) -/
  | heartbeat (port : Fin 6)
  /-- A silent or downed neighbour is declared dead and its port isolated. (R397) -/
  | deadPeerDeclaration (port : Fin 6)
  /-- A dead notice reaches a router or home and updates its lists. (R397) -/
  | deadNoticeReceive (dom : Fin 8) (coord : Fin 2048)
  /-- A home serves a read request for a shared copy. (R383) -/
  | fabricRead (line : Nat) (who : Fin 2048)
  /-- A home serves an ownership request by sending invalidations. (R383) -/
  | fabricOwnership (line : Nat) (who : Fin 2048)
  /-- A package receives an invalidation and acknowledges it. (R383) -/
  | fabricInvalidation (line : Nat) (home : Fin 2048)
  /-- An acknowledgment returns to the home. (R383) -/
  | invalidationAck (line : Nat) (who : Fin 2048)
  /-- A dirty copy is written back to its home. (R383) -/
  | fabricWriteBack (line : Nat) (who : Fin 2048) (data : List (Byte × Bool))
  /-- A clean copy's eviction clears its exact bit. (R383) -/
  | fabricEviction (line : Nat) (who : Fin 2048)
  /-- Refreshes an HBM4E bank on its interval. (R369) -/
  | hbmRefresh (stack : Fin 12) (bank : Nat)
  /-- Refreshes an LPDDR bank on its interval. (R369) -/
  | lpddrRefresh (bank : Nat)
  /-- A lane reaches its error threshold and retrains. (R369) -/
  | linkRetrain (port : Fin 6) (lane : Fin 8) (ok : Bool)
  /-- Scrubs one line, correcting and rewriting sectors. (R369) -/
  | scrub (line : Nat)
  /-- An uncorrectable error makes sectors or a compression unit lost. (R345) -/
  | uncorrectableError (at_ : ErrorPlace) (unit : Bool)
  /-- Counts a corrected error and classifies lasting faults. (R465) -/
  | correctedError (u : EccUnit)
  /-- Arms the shutter with its sources. (R466) -/
  | shutterArm (m : Master) (v : Word)
  /-- Releases a shutter halt. (R466) -/
  | shutterRelease (m : Master)
  /-- An enabled source fires the armed shutter. (R466) -/
  | shutterFire (src : ShutterSource)
  /-- 64 cycles after firing every snapshot register latches and halting begins. (R466) -/
  | shutterLatch
  /-- Grants the control semaphore if unowned. (R459) -/
  | semaphoreAcquire (m : Master) (lease : BitVec 32)
  /-- Renews the owner's lease. (R459) -/
  | semaphoreRenew (m : Master) (lease : BitVec 32) (epoch : BitVec 16)
  /-- Releases ownership of the semaphore. (R459) -/
  | semaphoreRelease (m : Master) (epoch : BitVec 16)
  /-- The lease reaches 0 and owner becomes none. (R459) -/
  | leaseExpiry
  /-- Applies a guarded write from the owner or counts a refusal. (R459) -/
  | guardedWrite (m : Master) (w : Guarded)
  /-- Verifies and executes a signed management-port request. (R457) -/
  | managementRequest (r : MgRequest)
  /-- Reads and clears management event bits. (R461) -/
  | mgevtRead
  /-- Answers a nonce with a signed quote of measurements. (R464) -/
  | attestationQuote (nonce : BitVec 256)
  /-- The control complex sets a sequence counter's value. (R460) -/
  | counterWrite (m : Master) (n : Fin 4096) (v : Word)
  /-- Sets the core clock step and supply. (R468) -/
  | mgclkWrite (m : Master) (v : Word)
  /-- Every 10 microseconds adjusts mirror duty and clock step to the limits. (R469) -/
  | governorInterval (watts mirrorWatts amps junction : Nat)
  /-- A coolant threshold is crossed and the limit drops to 1,800 W. (R470) -/
  | coolantAlarm (inlet flow : Nat)
  /-- Junction reaches 115 C; contexts halt and the shutter may fire. (R470) -/
  | thermalTrip
  /-- Core rails switch off 1 ms after a thermal trip. (R470) -/
  | railShutoff
  /-- Resumes a halted context at the record's resume address. (R326) -/
  | fctlResume (x : CtxId)
  /-- Kills the halted context's task. (R326) -/
  | fctlKill (x : CtxId)
  /-- Switches the halted task out as a checkpoint pre-emption. (R326) -/
  | fctlSwitchOut (x : CtxId)
  /-- Supervisor write of flag set and error bits at the next boundary. (R271) -/
  | flagsWrite (x : CtxId) (v : Word)
  /-- Changes quarter ownership and clears newly granted quarters. (R184) -/
  | mquartWrite (x : CtxId) (v : Word)
  /-- Supervisor applies a new carve word to its own logical core. (R221) -/
  | carveWrite (x : CtxId) (v : Word)
  /-- Binds or unbinds a ring handle and zeroes its state word. (R283) -/
  | hgWrite (x : CtxId) (n : Fin 16) (v : Word)
  /-- Sets ring pointers and bindings. (R283) -/
  | hsWrite (x : CtxId) (n : Fin 16) (v : Word)
  /-- Restores a watch entry, arming it at the next boundary. (R281) -/
  | watchEntryWrite (x : CtxId) (j : Fin 4) (threshold : Bool) (v : Word)
  /-- A store or copy to core control acts as an mts at the next boundary. (R228) -/
  | coreControlWrite (core : Fin 1792) (off : BitVec 22) (v : Word) (w : Writer)
  /-- The supervisor writes the tail of %frpos, freeing record-queue room so that held faulting contexts and queued notices write their records. (R324) -/
  | frposWrite (v : Word)
  /-- A write to %vrb that sets en makes version 0 live with an empty view, and other writes are refused under the live checks. (R366) -/
  | vrbWrite (k : Fin 8) (v : Word)
  /-- The supervisor creates a context, which gives every register of R65 its reset value. (R67) -/
  | contextCreate (x : CtxId) (pc : BitVec 56) (sup : Bool)
  /-- A released seqadd, after its earlier stores have performed and its replay queue is empty, adds to the named counter, saturating. (R279) -/
  | counterAdd (x : CtxId) (n : Nat)
  /-- An owner package receives a request that the home forwarded and supplies the line, an M owner becoming O. (R383) -/
  | forwardedRequest (line : Nat) (who : Fin 2048) (own : Bool)
  /-- Coolant inlet temperature and flow return within bounds, and the power limit in force returns to mgplim. (R470) -/
  | coolantRestored (inlet flow : Nat)
deriving DecidableEq, Repr

end Sys2Proof
end

