-- ==== Sys2Proof/Decode.lean ====
section
/-! DEFINITION. From bytes to instructions and back (R21 to R43).

The slot decoders are total: a word of a slot is an instruction or nothing, and nothing is BADOP at issue (R35).
`decodeBundle` reads one bundle from the bytes that follow its header's place, and says by name what is wrong with it. -/

namespace Sys2Proof

/-- Bits `[lo + n - 1 : lo]` of a slot word as a register or code number. -/
def fld (w : SlotWord) (lo n : Nat) : Fin (2 ^ n) := ⟨bits w lo n, Nat.mod_lt _ (Nat.two_pow_pos n)⟩

/-- Bits `[lo + n - 1 : lo]` of a slot word as an immediate. -/
def bfld (w : SlotWord) (lo n : Nat) : BitVec n := BitVec.ofNat n (bits w lo n)

/-- One bit of a slot word. -/
def bit (w : SlotWord) (lo : Nat) : Bool := bits w lo 1 == 1

/-- The V slot's format codes (R34). -/
def VFmt.ofCode (n : Nat) : VFmt :=
  match n with
  | 0 => .i8 | 1 => .i16 | 2 => .i32 | 3 => .n8 | 4 => .n32 | 5 => .f16 | 6 => .bf16 | _ => .f32

/-- The code of a format (R34). -/
def VFmt.code (t : VFmt) : Nat :=
  match t with
  | .i8 => 0 | .i16 => 1 | .i32 => 2 | .n8 => 3 | .n32 => 4 | .f16 => 5 | .bf16 => 6 | .f32 => 7

/-- S opcode 0x01, R36 to R38. -/
def decodeAluGroup (w : SlotWord) : Option Instr :=
  match bits w 0 8 with
  | 0x00 => some (.add (fld w 20 6) (fld w 14 6) (fld w 8 6))
  | 0x01 => some (.sub (fld w 20 6) (fld w 14 6) (fld w 8 6))
  | 0x02 => some (.and (fld w 20 6) (fld w 14 6) (fld w 8 6))
  | 0x03 => some (.or (fld w 20 6) (fld w 14 6) (fld w 8 6))
  | 0x04 => some (.xor (fld w 20 6) (fld w 14 6) (fld w 8 6))
  | 0x05 => some (.andn (fld w 20 6) (fld w 14 6) (fld w 8 6))
  | 0x06 => some (.shl (fld w 20 6) (fld w 14 6) (fld w 8 6))
  | 0x07 => some (.shr (fld w 20 6) (fld w 14 6) (fld w 8 6))
  | 0x08 => some (.sar (fld w 20 6) (fld w 14 6) (fld w 8 6))
  | 0x09 => some (.rol (fld w 20 6) (fld w 14 6) (fld w 8 6))
  | 0x0A => some (.min (fld w 20 6) (fld w 14 6) (fld w 8 6))
  | 0x0B => some (.max (fld w 20 6) (fld w 14 6) (fld w 8 6))
  | 0x0C => some (.minn (fld w 20 6) (fld w 14 6) (fld w 8 6))
  | 0x0D => some (.maxn (fld w 20 6) (fld w 14 6) (fld w 8 6))
  | 0x10 => some (.cmpEq (fld w 20 6) (fld w 14 6) (fld w 8 6))
  | 0x11 => some (.cmpNe (fld w 20 6) (fld w 14 6) (fld w 8 6))
  | 0x12 => some (.cmpLt (fld w 20 6) (fld w 14 6) (fld w 8 6))
  | 0x13 => some (.cmpLe (fld w 20 6) (fld w 14 6) (fld w 8 6))
  | 0x14 => some (.cmpLtn (fld w 20 6) (fld w 14 6) (fld w 8 6))
  | 0x15 => some (.cmpLen (fld w 20 6) (fld w 14 6) (fld w 8 6))
  | 0x18 => if bits w 8 6 = 0 then some (.clz (fld w 20 6) (fld w 14 6))
      else none
  | 0x19 => if bits w 8 6 = 0 then some (.ctz (fld w 20 6) (fld w 14 6))
      else none
  | 0x1A => if bits w 8 6 = 0 then some (.ffs (fld w 20 6) (fld w 14 6))
      else none
  | 0x1B => if bits w 8 6 = 0 then some (.popc (fld w 20 6) (fld w 14 6))
      else none
  | 0x1C => if bits w 8 6 = 0 then some (.brev (fld w 20 6) (fld w 14 6))
      else none
  | _ => none

/-- S opcode 0x02, R36 to R38. -/
def decodeMulGroup (w : SlotWord) : Option Instr :=
  match bits w 0 8 with
  | 0x00 => some (.mul (fld w 20 6) (fld w 14 6) (fld w 8 6))
  | 0x01 => some (.mulh (fld w 20 6) (fld w 14 6) (fld w 8 6))
  | 0x02 => some (.mulhn (fld w 20 6) (fld w 14 6) (fld w 8 6))
  | 0x03 => some (.div (fld w 20 6) (fld w 14 6) (fld w 8 6))
  | 0x04 => some (.divn (fld w 20 6) (fld w 14 6) (fld w 8 6))
  | 0x05 => some (.rem (fld w 20 6) (fld w 14 6) (fld w 8 6))
  | 0x06 => some (.remn (fld w 20 6) (fld w 14 6) (fld w 8 6))
  | _ => none

/-- S opcode 0x07, R36 to R38. -/
def decodeShiftImm (w : SlotWord) : Option Instr :=
  match bits w 6 8 with
  | 0x00 => some (.shli (fld w 20 6) (fld w 14 6) (bfld w 0 6))
  | 0x40 => some (.shri (fld w 20 6) (fld w 14 6) (bfld w 0 6))
  | 0x80 => some (.sari (fld w 20 6) (fld w 14 6) (bfld w 0 6))
  | 0xC0 => some (.roli (fld w 20 6) (fld w 14 6) (bfld w 0 6))
  | _ => none

/-- S opcode 0x08, R36 to R38. -/
def decodeCmpImm (w : SlotWord) : Option Instr :=
  match bits w 11 3 with
  | 0x00 => some (.cmpiEq (fld w 20 6) (fld w 14 6) (bfld w 0 11))
  | 0x01 => some (.cmpiNe (fld w 20 6) (fld w 14 6) (bfld w 0 11))
  | 0x02 => some (.cmpiLt (fld w 20 6) (fld w 14 6) (bfld w 0 11))
  | 0x03 => some (.cmpiLe (fld w 20 6) (fld w 14 6) (bfld w 0 11))
  | 0x04 => some (.cmpiLtn (fld w 20 6) (fld w 14 6) (bfld w 0 11))
  | 0x05 => some (.cmpiLen (fld w 20 6) (fld w 14 6) (bfld w 0 11))
  | _ => none

/-- S opcode 0x09, R36 to R38. -/
def decodeBfxGroup (w : SlotWord) : Option Instr :=
  match bits w 12 2 with
  | 0x00 => some (.bfxN (fld w 20 6) (fld w 14 6) (bfld w 6 6) (bfld w 0 6))
  | 0x01 => some (.bfxI (fld w 20 6) (fld w 14 6) (bfld w 6 6) (bfld w 0 6))
  | _ => none

/-- S opcode 0x0B, R36 to R38. -/
def decodeFunnelImm (w : SlotWord) : Option Instr :=
  match bits w 6 2 with
  | 0x00 => some (.fshl (fld w 20 6) (fld w 14 6) (fld w 8 6) (bfld w 0 6))
  | 0x01 => some (.fshr (fld w 20 6) (fld w 14 6) (fld w 8 6) (bfld w 0 6))
  | _ => none

/-- S opcode 0x0C, R36 to R38. -/
def decodeFunnelReg (w : SlotWord) : Option Instr :=
  match bits w 6 2 with
  | 0x00 => some (.fshlv (fld w 20 6) (fld w 14 6) (fld w 8 6) (fld w 0 6))
  | 0x01 => some (.fshrv (fld w 20 6) (fld w 14 6) (fld w 8 6) (fld w 0 6))
  | _ => none

/-- S opcode 0x15, R36 to R38. -/
def decodeCoreidGroup (w : SlotWord) : Option Instr :=
  match bits w 0 20 with
  | 0x00 => some (.coreidLog (fld w 20 6))
  | 0x01 => some (.coreidPhys (fld w 20 6))
  | _ => none

/-- S opcode 0x18, R36 to R38. -/
def decodeBranchGroup (w : SlotWord) : Option Instr :=
  match bits w 22 4 with
  | 0x00 => some (.brZ (fld w 16 6) (bfld w 0 16))
  | 0x01 => some (.brNz (fld w 16 6) (bfld w 0 16))
  | 0x02 => some (.brNeg (fld w 16 6) (bfld w 0 16))
  | 0x03 => some (.brNneg (fld w 16 6) (bfld w 0 16))
  | 0x04 => some (.brPos (fld w 16 6) (bfld w 0 16))
  | 0x05 => some (.brNpos (fld w 16 6) (bfld w 0 16))
  | 0x06 => if bits w 16 6 = 0 then some (.br (bfld w 0 16))
      else none
  | _ => none

/-- S opcode 0x33, R36 to R38. -/
def decodeFlagRing (w : SlotWord) : Option Instr :=
  match bits w 0 8 with
  | 0x00 => if bits w 20 6 = 0 ∧ bits w 8 6 = 0 then some (.sig (fld w 14 6))
      else none
  | 0x01 => if bits w 20 6 = 0 ∧ bits w 8 6 = 0 then some (.clrf (fld w 14 6))
      else if bits w 20 6 = 1 ∧ bits w 8 6 = 0 then some (.clrfErr (fld w 14 6))
      else none
  | 0x02 => if bits w 24 2 = 0 ∧ bits w 14 6 = 0 then some (.advP (fld w 20 4) (fld w 8 6))
      else none
  | 0x03 => if bits w 24 2 = 0 ∧ bits w 14 6 = 0 then some (.advC (fld w 20 4) (fld w 8 6))
      else none
  | 0x04 => if bits w 25 1 = 0 ∧ bits w 18 2 = 0 then some (.rfill (fld w 20 5) (fld w 14 4) (fld w 8 6))
      else none
  | 0x05 => if bits w 25 1 = 0 ∧ bits w 18 2 = 0 then some (.rfree (fld w 20 5) (fld w 14 4) (fld w 8 6))
      else none
  | _ => none

/-- S opcode 0x35, R36 to R38. -/
def decodeSeqwatchGroup (w : SlotWord) : Option Instr :=
  match bits w 25 1 with
  | 0x00 => if bits w 0 8 = 0 then some (.seqwatch (fld w 20 5) (fld w 14 6) (fld w 8 6))
      else none
  | 0x01 => if bits w 0 8 = 0 then some (.seqwatchTag (fld w 20 5) (fld w 14 6) (fld w 8 6))
      else none
  | _ => none

/-- S opcode 0x37, R36 to R38. -/
def decodeLaunchGroup (w : SlotWord) : Option Instr :=
  match bits w 0 8 with
  | 0x00 => some (.launch (fld w 20 6) (fld w 14 6) (fld w 8 6))
  | 0x01 => if bits w 14 6 = 0 then some (.launchQF (fld w 20 6) (fld w 8 6))
      else none
  | 0x02 => if bits w 14 6 = 0 then some (.launchQB (fld w 20 6) (fld w 8 6))
      else none
  | 0x03 => if bits w 14 6 = 0 then some (.launchQW (fld w 20 6) (fld w 8 6))
      else none
  | _ => none

/-- S opcode 0x3D, R36 to R38. -/
def decodeSeqUnit (w : SlotWord) : Option Instr :=
  match bits w 0 8 with
  | 0x00 => if bits w 20 6 = 0 then some (.qseed (fld w 14 6) (fld w 8 6))
      else none
  | 0x01 => if bits w 24 2 = 0 then some (.qldt (fld w 20 4) (fld w 14 6) (fld w 8 6))
      else none
  | 0x02 => some (.qpt (fld w 20 6) (fld w 14 6) (fld w 8 6))
  | 0x03 => if bits w 24 2 = 0 then some (.qsave (fld w 20 4) (fld w 14 6) (fld w 8 6))
      else none
  | _ => none

/-- V opcode 0x01, R39. -/
def decodeVaddGroup (w : SlotWord) : Option Instr :=
  match bits w 0 3 with
  | 0x00 => some (.vadd (VFmt.ofCode (bits w 24 3)) (fld w 18 6) (fld w 12 6) (fld w 6 6) (fld w 4 2) (bit w 3))
  | 0x01 => some (.vaddSat (VFmt.ofCode (bits w 24 3)) (fld w 18 6) (fld w 12 6) (fld w 6 6) (fld w 4 2) (bit w 3))
  | _ => none

/-- V opcode 0x02, R39. -/
def decodeVsubGroup (w : SlotWord) : Option Instr :=
  match bits w 0 3 with
  | 0x00 => some (.vsub (VFmt.ofCode (bits w 24 3)) (fld w 18 6) (fld w 12 6) (fld w 6 6) (fld w 4 2) (bit w 3))
  | 0x01 => some (.vsubSat (VFmt.ofCode (bits w 24 3)) (fld w 18 6) (fld w 12 6) (fld w 6 6) (fld w 4 2) (bit w 3))
  | _ => none

/-- V opcode 0x03, R39. -/
def decodeVmulGroup (w : SlotWord) : Option Instr :=
  match bits w 0 3 with
  | 0x00 => some (.vmul (VFmt.ofCode (bits w 24 3)) (fld w 18 6) (fld w 12 6) (fld w 6 6) (fld w 4 2) (bit w 3))
  | 0x01 => some (.vmulHi (VFmt.ofCode (bits w 24 3)) (fld w 18 6) (fld w 12 6) (fld w 6 6) (fld w 4 2) (bit w 3))
  | 0x02 => some (.vmulWide (VFmt.ofCode (bits w 24 3)) (fld w 18 6) (fld w 12 6) (fld w 6 6) (fld w 4 2) (bit w 3))
  | _ => none

/-- V opcode 0x04, R39. -/
def decodeVfmaGroup (w : SlotWord) : Option Instr :=
  match bits w 0 3 with
  | 0x00 => some (.vfma (VFmt.ofCode (bits w 24 3)) (fld w 18 6) (fld w 12 6) (fld w 6 6) (fld w 4 2) (bit w 3))
  | 0x01 => some (.vfmaFms (VFmt.ofCode (bits w 24 3)) (fld w 18 6) (fld w 12 6) (fld w 6 6) (fld w 4 2) (bit w 3))
  | 0x02 => some (.vfmaFnma (VFmt.ofCode (bits w 24 3)) (fld w 18 6) (fld w 12 6) (fld w 6 6) (fld w 4 2) (bit w 3))
  | _ => none

/-- V opcode 0x07, R39. -/
def decodeVabsGroup (w : SlotWord) : Option Instr :=
  match bits w 0 4 with
  | 0x00 => if bits w 6 6 = 0 then some (.vabs (VFmt.ofCode (bits w 24 3)) (fld w 18 6) (fld w 12 6) (fld w 4 2))
      else none
  | 0x01 => if bits w 6 6 = 0 then some (.vneg (VFmt.ofCode (bits w 24 3)) (fld w 18 6) (fld w 12 6) (fld w 4 2))
      else none
  | _ => none

/-- V opcode 0x08, R39. -/
def decodeVlogGroup (w : SlotWord) : Option Instr :=
  match bits w 0 3 with
  | 0x00 => some (.vlogAnd (VFmt.ofCode (bits w 24 3)) (fld w 18 6) (fld w 12 6) (fld w 6 6) (fld w 4 2) (bit w 3))
  | 0x01 => some (.vlogOr (VFmt.ofCode (bits w 24 3)) (fld w 18 6) (fld w 12 6) (fld w 6 6) (fld w 4 2) (bit w 3))
  | 0x02 => some (.vlogXor (VFmt.ofCode (bits w 24 3)) (fld w 18 6) (fld w 12 6) (fld w 6 6) (fld w 4 2) (bit w 3))
  | 0x03 => some (.vlogAndn (VFmt.ofCode (bits w 24 3)) (fld w 18 6) (fld w 12 6) (fld w 6 6) (fld w 4 2) (bit w 3))
  | 0x04 => if bits w 6 6 = 0 ∧ bits w 3 1 = 0 then some (.vlogNot (VFmt.ofCode (bits w 24 3)) (fld w 18 6) (fld w 12 6) (fld w 4 2))
      else none
  | _ => none

/-- V opcode 0x09, R39. -/
def decodeVshGroup (w : SlotWord) : Option Instr :=
  match bits w 0 3 with
  | 0x00 => some (.vshShl (VFmt.ofCode (bits w 24 3)) (fld w 18 6) (fld w 12 6) (fld w 6 6) (fld w 4 2) (bit w 3))
  | 0x01 => some (.vshShr (VFmt.ofCode (bits w 24 3)) (fld w 18 6) (fld w 12 6) (fld w 6 6) (fld w 4 2) (bit w 3))
  | 0x02 => some (.vshSar (VFmt.ofCode (bits w 24 3)) (fld w 18 6) (fld w 12 6) (fld w 6 6) (fld w 4 2) (bit w 3))
  | _ => none

/-- V opcode 0x0A, R39. -/
def decodeVcmpGroup (w : SlotWord) : Option Instr :=
  match bits w 0 3 with
  | 0x00 => if bits w 22 2 = 0 then some (.vcmpEq (VFmt.ofCode (bits w 24 3)) (fld w 18 4) (fld w 12 6) (fld w 6 6) (fld w 4 2) (bit w 3))
      else none
  | 0x01 => if bits w 22 2 = 0 then some (.vcmpNe (VFmt.ofCode (bits w 24 3)) (fld w 18 4) (fld w 12 6) (fld w 6 6) (fld w 4 2) (bit w 3))
      else none
  | 0x02 => if bits w 22 2 = 0 then some (.vcmpLt (VFmt.ofCode (bits w 24 3)) (fld w 18 4) (fld w 12 6) (fld w 6 6) (fld w 4 2) (bit w 3))
      else none
  | 0x03 => if bits w 22 2 = 0 then some (.vcmpLe (VFmt.ofCode (bits w 24 3)) (fld w 18 4) (fld w 12 6) (fld w 6 6) (fld w 4 2) (bit w 3))
      else none
  | 0x04 => if bits w 22 2 = 0 then some (.vcmpGt (VFmt.ofCode (bits w 24 3)) (fld w 18 4) (fld w 12 6) (fld w 6 6) (fld w 4 2) (bit w 3))
      else none
  | 0x05 => if bits w 22 2 = 0 then some (.vcmpGe (VFmt.ofCode (bits w 24 3)) (fld w 18 4) (fld w 12 6) (fld w 6 6) (fld w 4 2) (bit w 3))
      else none
  | 0x06 => if bits w 22 2 = 0 then some (.vcmpUo (VFmt.ofCode (bits w 24 3)) (fld w 18 4) (fld w 12 6) (fld w 6 6) (fld w 4 2) (bit w 3))
      else none
  | _ => none

/-- V opcode 0x0C, R39. -/
def decodeVbitGroup (w : SlotWord) : Option Instr :=
  match bits w 0 4 with
  | 0x00 => if bits w 6 6 = 0 then some (.vbitClz (VFmt.ofCode (bits w 24 3)) (fld w 18 6) (fld w 12 6) (fld w 4 2))
      else none
  | 0x01 => if bits w 6 6 = 0 then some (.vbitCtz (VFmt.ofCode (bits w 24 3)) (fld w 18 6) (fld w 12 6) (fld w 4 2))
      else none
  | 0x02 => if bits w 6 6 = 0 then some (.vbitFfs (VFmt.ofCode (bits w 24 3)) (fld w 18 6) (fld w 12 6) (fld w 4 2))
      else none
  | 0x03 => if bits w 6 6 = 0 then some (.vbitPopc (VFmt.ofCode (bits w 24 3)) (fld w 18 6) (fld w 12 6) (fld w 4 2))
      else none
  | _ => none

/-- V opcode 0x0D, R39. -/
def decodeVbfxGroup (w : SlotWord) : Option Instr :=
  match bits w 24 3 with
  | 0x02 => if bits w 0 3 = 1 then some (.vbfxI32 (fld w 18 6) (fld w 12 6) (fld w 6 6) (fld w 4 2) (bit w 3))
      else none
  | 0x04 => if bits w 0 3 = 0 then some (.vbfxN32 (fld w 18 6) (fld w 12 6) (fld w 6 6) (fld w 4 2) (bit w 3))
      else none
  | _ => none

/-- V opcode 0x0E, R39. -/
def decodeVfshGroup (w : SlotWord) : Option Instr :=
  match bits w 0 3 with
  | 0x00 => some (.vfshLeft (VFmt.ofCode (bits w 24 3)) (fld w 18 6) (fld w 12 6) (fld w 6 6) (fld w 4 2) (bit w 3))
  | 0x01 => some (.vfshRight (VFmt.ofCode (bits w 24 3)) (fld w 18 6) (fld w 12 6) (fld w 6 6) (fld w 4 2) (bit w 3))
  | _ => none

/-- V opcode 0x0F, R39. -/
def decodeVspecGroup (w : SlotWord) : Option Instr :=
  match bits w 0 4 with
  | 0x00 => if bits w 24 3 = 7 ∧ bits w 6 6 = 0 then some (.vspecExp2 (fld w 18 6) (fld w 12 6) (fld w 4 2))
      else none
  | 0x01 => if bits w 24 3 = 7 ∧ bits w 6 6 = 0 then some (.vspecLog2 (fld w 18 6) (fld w 12 6) (fld w 4 2))
      else none
  | 0x02 => if bits w 24 3 = 7 ∧ bits w 6 6 = 0 then some (.vspecRcp (fld w 18 6) (fld w 12 6) (fld w 4 2))
      else none
  | 0x03 => if bits w 24 3 = 7 ∧ bits w 6 6 = 0 then some (.vspecRsqrt (fld w 18 6) (fld w 12 6) (fld w 4 2))
      else none
  | 0x04 => if bits w 24 3 = 7 ∧ bits w 6 6 = 0 then some (.vspecSqrt (fld w 18 6) (fld w 12 6) (fld w 4 2))
      else none
  | _ => none

/-- V opcode 0x10, R39. -/
def decodeVredGroup (w : SlotWord) : Option Instr :=
  match bits w 0 4 with
  | 0x00 => if bits w 6 6 = 0 then some (.vredAdd (VFmt.ofCode (bits w 24 3)) (fld w 18 6) (fld w 12 6) (fld w 4 2))
      else none
  | 0x01 => if bits w 6 6 = 0 then some (.vredMax (VFmt.ofCode (bits w 24 3)) (fld w 18 6) (fld w 12 6) (fld w 4 2))
      else none
  | 0x02 => if bits w 6 6 = 0 then some (.vredMin (VFmt.ofCode (bits w 24 3)) (fld w 18 6) (fld w 12 6) (fld w 4 2))
      else none
  | _ => none

/-- V opcode 0x1A, R39. -/
def decodeVamoGroup (w : SlotWord) : Option Instr :=
  match bits w 0 4 with
  | 0x00 => some (.vamoAdd (VFmt.ofCode (bits w 24 3)) (fld w 18 6) (fld w 12 6) (fld w 6 6) (fld w 4 2))
  | 0x01 => if bits w 24 3 = 6 then some (.vamoAddSr (fld w 18 6) (fld w 12 6) (fld w 6 6) (fld w 4 2))
      else none
  | 0x02 => some (.vamoMin (VFmt.ofCode (bits w 24 3)) (fld w 18 6) (fld w 12 6) (fld w 6 6) (fld w 4 2))
  | 0x03 => some (.vamoMax (VFmt.ofCode (bits w 24 3)) (fld w 18 6) (fld w 12 6) (fld w 6 6) (fld w 4 2))
  | 0x04 => some (.vamoFmax (VFmt.ofCode (bits w 24 3)) (fld w 18 6) (fld w 12 6) (fld w 6 6) (fld w 4 2))
  | _ => none

/-- V opcode 0x1D, R39. -/
def decodeVmaskGroup (w : SlotWord) : Option Instr :=
  match bits w 0 4 with
  | 0x00 => if bits w 22 5 = 0 ∧ bits w 16 2 = 0 ∧ bits w 10 2 = 0 then some (.vmaskAnd (fld w 18 4) (fld w 12 4) (fld w 6 4) (fld w 4 2))
      else none
  | 0x01 => if bits w 22 5 = 0 ∧ bits w 16 2 = 0 ∧ bits w 10 2 = 0 then some (.vmaskOr (fld w 18 4) (fld w 12 4) (fld w 6 4) (fld w 4 2))
      else none
  | 0x02 => if bits w 22 5 = 0 ∧ bits w 16 2 = 0 ∧ bits w 10 2 = 0 then some (.vmaskXor (fld w 18 4) (fld w 12 4) (fld w 6 4) (fld w 4 2))
      else none
  | 0x03 => if bits w 22 5 = 0 ∧ bits w 16 2 = 0 ∧ bits w 10 2 = 0 then some (.vmaskAndn (fld w 18 4) (fld w 12 4) (fld w 6 4) (fld w 4 2))
      else none
  | 0x04 => if bits w 22 5 = 0 ∧ bits w 16 2 = 0 ∧ bits w 6 6 = 0 then some (.vmaskNot (fld w 18 4) (fld w 12 4) (fld w 4 2))
      else none
  | 0x05 => if bits w 22 5 = 0 ∧ bits w 16 2 = 0 ∧ bits w 6 6 = 0 then some (.vmaskMov (fld w 18 4) (fld w 12 4) (fld w 4 2))
      else none
  | _ => none

/-- M opcode 0x04, R40. -/
def decodeMstreamGroup (w : SlotWord) : Option Instr :=
  match bits w 23 1 with
  | 0x00 => if bits w 20 3 = 0 ∧ bits w 0 16 = 0 then some (.mstream (fld w 24 4) (fld w 17 3) (bit w 16))
      else none
  | 0x01 => if bits w 0 16 = 0 then some (.mstreamEyepiece (fld w 24 4) (fld w 20 3) (fld w 17 3) (bit w 16))
      else none
  | _ => none

/-- C opcode 0x09, R41, R362. -/
def decodeCstashGroup (w : SlotWord) : Option Instr :=
  if bits w 6 12 = 0 then some (.cstashPf (fld w 23 4) (fld w 18 5) (fld w 0 6))
  else if bits w 12 6 = 0 ∨ bits w 6 6 = 0 then none
  else some (.cstashGet (fld w 23 4) (fld w 18 5) (fld w 12 6) (fld w 6 6) (fld w 0 6))

/-- X opcode 0x01, R42. -/
def decodeXcvtGroup (w : SlotWord) : Option Instr :=
  match bits w 18 1 with
  | 0x00 => if bits w 0 6 = 0 then some (.xcvt (bfld w 23 4) (bfld w 19 4) (fld w 12 6) (fld w 6 6))
      else none
  | 0x01 => some (.xcvtSr (bfld w 23 4) (bfld w 19 4) (fld w 12 6) (fld w 6 6) (fld w 0 6))
  | _ => none

/-- X opcode 0x0A, R42. -/
def decodeXpackGroup (w : SlotWord) : Option Instr :=
  match bits w 26 1 with
  | 0x00 => if bits w 0 6 = 0 then some (.xpack (bfld w 22 4) (bfld w 20 2) (bit w 19) (bit w 18) (fld w 12 6) (fld w 6 6))
      else none
  | 0x01 => if bits w 19 1 = 0 ∧ bits w 0 6 = 0 then some (.xunpk (bfld w 22 4) (bfld w 20 2) (bit w 18) (fld w 12 6) (fld w 6 6))
      else none
  | _ => none

/-- X opcode 0x0C, R42. -/
def decodeXtblGroup (w : SlotWord) : Option Instr :=
  match bits w 12 15 with
  | 0x00 => some (.xtblPerm (fld w 6 6) (fld w 0 6))
  | 0x4000 => if bits w 0 6 = 0 then some (.xtblKey (fld w 6 6))
      else none
  | _ => none

/-- The S slot (R36 to R38). -/
def decodeScalar (w : SlotWord) : Option Instr :=
  match bits w 26 6 with
  | 0x01 => decodeAluGroup w
  | 0x02 => decodeMulGroup w
  | 0x03 => some (.addi (fld w 20 6) (fld w 14 6) (bfld w 0 14))
  | 0x04 => some (.andi (fld w 20 6) (fld w 14 6) (bfld w 0 14))
  | 0x05 => some (.ori (fld w 20 6) (fld w 14 6) (bfld w 0 14))
  | 0x06 => some (.xori (fld w 20 6) (fld w 14 6) (bfld w 0 14))
  | 0x07 => decodeShiftImm w
  | 0x08 => decodeCmpImm w
  | 0x09 => decodeBfxGroup w
  | 0x0A => if bits w 12 2 = 0 then some (.bfi (fld w 20 6) (fld w 14 6) (bfld w 6 6) (bfld w 0 6))
      else none
  | 0x0B => decodeFunnelImm w
  | 0x0C => decodeFunnelReg w
  | 0x0D => if bits w 6 2 = 0 then some (.sel (fld w 20 6) (fld w 14 6) (fld w 8 6) (fld w 0 6))
      else none
  | 0x10 => some (.li (fld w 20 6) (bfld w 0 20))
  | 0x11 => some (.liu (fld w 20 6) (bfld w 0 20))
  | 0x12 => if bits w 14 6 = 0 then some (.mfs (fld w 20 6) (bfld w 0 14))
      else none
  | 0x13 => if bits w 20 6 = 0 then some (.mts (fld w 14 6) (bfld w 0 14))
      else none
  | 0x14 => if bits w 0 20 = 0 then some (.clk (fld w 20 6))
      else none
  | 0x15 => decodeCoreidGroup w
  | 0x18 => decodeBranchGroup w
  | 0x19 => if bits w 20 6 = 0 ∧ bits w 0 14 = 0 then some (.jmp (fld w 14 6))
      else none
  | 0x1A => if bits w 20 6 = 0 then some (.call (bfld w 0 20))
      else none
  | 0x1B => if bits w 20 6 = 0 ∧ bits w 0 14 = 0 then some (.callr (fld w 14 6))
      else none
  | 0x1C => if bits w 22 4 = 0 then some (.chk (fld w 16 6) (bfld w 0 16))
      else none
  | 0x20 => some (.ldI8 (fld w 20 6) (fld w 14 6) (fld w 10 4) (bfld w 0 10))
  | 0x21 => some (.ldN8 (fld w 20 6) (fld w 14 6) (fld w 10 4) (bfld w 0 10))
  | 0x22 => some (.ldI16 (fld w 20 6) (fld w 14 6) (fld w 10 4) (bfld w 0 10))
  | 0x23 => some (.ldN16 (fld w 20 6) (fld w 14 6) (fld w 10 4) (bfld w 0 10))
  | 0x24 => some (.ldI32 (fld w 20 6) (fld w 14 6) (fld w 10 4) (bfld w 0 10))
  | 0x25 => some (.ldN32 (fld w 20 6) (fld w 14 6) (fld w 10 4) (bfld w 0 10))
  | 0x26 => some (.ldI64 (fld w 20 6) (fld w 14 6) (fld w 10 4) (bfld w 0 10))
  | 0x27 => some (.ldSN32 (fld w 20 6) (fld w 14 6) (fld w 10 4) (bfld w 0 10))
  | 0x28 => some (.ldSI64 (fld w 20 6) (fld w 14 6) (fld w 10 4) (bfld w 0 10))
  | 0x29 => some (.st8 (fld w 20 6) (fld w 14 6) (fld w 10 4) (bfld w 0 10))
  | 0x2A => some (.st16 (fld w 20 6) (fld w 14 6) (fld w 10 4) (bfld w 0 10))
  | 0x2B => some (.st32 (fld w 20 6) (fld w 14 6) (fld w 10 4) (bfld w 0 10))
  | 0x2C => some (.st64 (fld w 20 6) (fld w 14 6) (fld w 10 4) (bfld w 0 10))
  | 0x2D => if bits w 25 1 = 0 ∧ bits w 6 2 = 0 then some (.ldBlk (fld w 20 5) (fld w 14 6) (fld w 8 6) (bfld w 4 2) (fld w 0 4))
      else none
  | 0x2E => some (.amo32 (fld w 20 6) (fld w 14 6) (fld w 8 6) (bfld w 4 4) (fld w 0 4))
  | 0x2F => some (.amo64 (fld w 20 6) (fld w 14 6) (fld w 8 6) (bfld w 4 4) (fld w 0 4))
  | 0x30 => some (.rld (fld w 20 6) (fld w 14 6) (bfld w 0 14))
  | 0x31 => if bits w 16 10 = 0 then some (.fenceC (bfld w 0 16))
      else none
  | 0x32 => if bits w 6 20 = 0 then some (.fenceP (bfld w 3 3) (bfld w 0 3))
      else none
  | 0x33 => decodeFlagRing w
  | 0x34 => if bits w 20 6 = 0 ∧ bits w 0 8 = 0 then some (.seqadd (fld w 14 6) (fld w 8 6))
      else none
  | 0x35 => decodeSeqwatchGroup w
  | 0x36 => if bits w 0 14 = 0 then some (.seqrd (fld w 20 6) (fld w 14 6))
      else none
  | 0x37 => decodeLaunchGroup w
  | 0x38 => if bits w 0 26 = 0 then some .retire
      else none
  | 0x39 => if bits w 0 14 = 0 then some (.carve (fld w 20 6) (fld w 14 6))
      else none
  | 0x3A => if bits w 14 12 = 0 then some (.trap (bfld w 0 14))
      else none
  | 0x3B => if bits w 0 26 = 0 then some .retu
      else none
  | 0x3C => if bits w 0 26 = 0 then some .retl
      else none
  | 0x3D => decodeSeqUnit w
  | _ => none

/-- The V slots (R39). `vmov` takes every fmt value: R124 and R141 name none (DESIGN CHOICE, notes/assumptions/110.md). -/
def decodeVector (w : SlotWord) : Option Instr :=
  match bits w 27 5 with
  | 0x01 => decodeVaddGroup w
  | 0x02 => decodeVsubGroup w
  | 0x03 => decodeVmulGroup w
  | 0x04 => decodeVfmaGroup w
  | 0x05 => if bits w 0 3 = 0 then some (.vmin (VFmt.ofCode (bits w 24 3)) (fld w 18 6) (fld w 12 6) (fld w 6 6) (fld w 4 2) (bit w 3))
      else none
  | 0x06 => if bits w 0 3 = 0 then some (.vmax (VFmt.ofCode (bits w 24 3)) (fld w 18 6) (fld w 12 6) (fld w 6 6) (fld w 4 2) (bit w 3))
      else none
  | 0x07 => decodeVabsGroup w
  | 0x08 => decodeVlogGroup w
  | 0x09 => decodeVshGroup w
  | 0x0A => decodeVcmpGroup w
  | 0x0B => some (.vsel (VFmt.ofCode (bits w 24 3)) (fld w 18 6) (fld w 12 6) (fld w 6 6) (fld w 4 2) (bit w 3) (fld w 0 3))
  | 0x0C => decodeVbitGroup w
  | 0x0D => decodeVbfxGroup w
  | 0x0E => decodeVfshGroup w
  | 0x0F => decodeVspecGroup w
  | 0x10 => decodeVredGroup w
  | 0x11 => if bits w 0 3 = 0 then some (.vshuf (VFmt.ofCode (bits w 24 3)) (fld w 18 6) (fld w 12 6) (fld w 6 6) (fld w 4 2) (bit w 3))
      else none
  | 0x12 => if bits w 0 3 = 0 then some (.vrot (VFmt.ofCode (bits w 24 3)) (fld w 18 6) (fld w 12 6) (fld w 6 6) (fld w 4 2) (bit w 3))
      else none
  | 0x13 => if bits w 0 3 = 0 then some (.vxg (VFmt.ofCode (bits w 24 3)) (fld w 18 6) (fld w 12 6) (fld w 6 6) (fld w 4 2) (bit w 3))
      else none
  | 0x14 => if bits w 6 6 = 0 ∧ bits w 0 4 = 0 then some (.vbcast (VFmt.ofCode (bits w 24 3)) (fld w 18 6) (fld w 12 6) (fld w 4 2))
      else none
  | 0x15 => if bits w 0 6 = 0 then some (.vext (VFmt.ofCode (bits w 24 3)) (fld w 18 6) (fld w 12 6) (fld w 6 6))
      else none
  | 0x16 => if bits w 0 4 = 0 then some (.vld (VFmt.ofCode (bits w 24 3)) (fld w 18 6) (fld w 12 6) (fld w 6 6) (fld w 4 2))
      else none
  | 0x17 => if bits w 0 4 = 0 then some (.vst (VFmt.ofCode (bits w 24 3)) (fld w 18 6) (fld w 12 6) (fld w 6 6) (fld w 4 2))
      else none
  | 0x18 => if bits w 0 4 = 0 then some (.vgath (VFmt.ofCode (bits w 24 3)) (fld w 18 6) (fld w 12 6) (fld w 6 6) (fld w 4 2))
      else none
  | 0x19 => if bits w 0 4 = 0 then some (.vscat (VFmt.ofCode (bits w 24 3)) (fld w 18 6) (fld w 12 6) (fld w 6 6) (fld w 4 2))
      else none
  | 0x1A => decodeVamoGroup w
  | 0x1C => if bits w 0 4 = 0 then some (.vqpt (VFmt.ofCode (bits w 24 3)) (fld w 18 6) (fld w 12 6) (fld w 6 6) (fld w 4 2))
      else none
  | 0x1D => decodeVmaskGroup w
  | 0x1E => if bits w 6 6 = 0 ∧ bits w 0 4 = 0 then some (.vmov (VFmt.ofCode (bits w 24 3)) (fld w 18 6) (fld w 12 6) (fld w 4 2))
      else none
  | _ => none

/-- The M slot (R40). -/
def decodeMatrix (w : SlotWord) : Option Instr :=
  match bits w 28 4 with
  | 0x01 => if bits w 0 1 = 0 then some (.mcall (fld w 22 6) (bfld w 6 16) (fld w 1 5))
      else none
  | 0x02 => if bits w 0 13 = 0 then some (.mlds (fld w 24 4) (fld w 19 5) (fld w 16 3) (fld w 13 3))
      else none
  | 0x03 => if bits w 0 24 = 0 then some (.mswap (fld w 24 4))
      else none
  | 0x04 => decodeMstreamGroup w
  | 0x05 => if bits w 0 15 = 0 then some (.mdrain (fld w 23 5) (fld w 20 3) (fld w 16 4) (bit w 15))
      else none
  | 0x06 => if bits w 0 25 = 0 then some (.mzero (fld w 25 3))
      else none
  | 0x07 => if bits w 0 22 = 0 then some (.mepl (fld w 25 3) (fld w 22 3))
      else none
  | 0x08 => if bits w 0 17 = 0 then some (.mmode (bfld w 25 3) (bit w 24) (bit w 23) (bfld w 20 3) (bfld w 17 3))
      else none
  | 0x09 => if bits w 0 20 = 0 then some (.mseg (fld w 24 4) (bfld w 22 2) (bfld w 20 2))
      else none
  | 0x0A => if bits w 0 19 = 0 then some (.mqset (fld w 25 3) (fld w 19 6))
      else none
  | 0x0B => if bits w 0 5 = 0 then some (.mephw (fld w 25 3) (fld w 22 3) (fld w 12 10) (bit w 11) (fld w 5 6))
      else none
  | 0x0C => if bits w 0 21 = 0 then some (.mstat (fld w 22 6) (bit w 21))
      else none
  | _ => none

/-- The C slots (R41). Rows that one encoding shares, told apart by a register, decode to the first of them. -/
def decodeCopy (w : SlotWord) : Option Instr :=
  match bits w 27 5 with
  | 0x01 => some (.cpy (fld w 23 4) (fld w 18 5) (fld w 12 6) (fld w 6 6) (fld w 0 6))
  | 0x02 => some (.cgath (fld w 23 4) (fld w 18 5) (fld w 12 6) (fld w 6 6) (fld w 0 6))
  | 0x03 => some (.cscat (fld w 23 4) (fld w 18 5) (fld w 12 6) (fld w 6 6) (fld w 0 6))
  | 0x04 => some (.cfill (fld w 23 4) (fld w 18 5) (fld w 12 6) (fld w 6 6) (fld w 0 6))
  | 0x05 => some (.cred (fld w 23 4) (fld w 18 5) (fld w 12 6) (fld w 6 6) (fld w 0 6))
  | 0x06 => some (.cbcast (fld w 23 4) (fld w 18 5) (fld w 12 6) (fld w 6 6) (fld w 0 6))
  | 0x07 => some (.cxfm (fld w 23 4) (fld w 18 5) (fld w 12 6) (fld w 6 6) (fld w 0 6))
  | 0x08 => some (.cstashSave (fld w 23 4) (fld w 18 5) (fld w 12 6) (fld w 6 6) (fld w 0 6))
  | 0x09 => decodeCstashGroup w
  | 0x0A => if bits w 6 12 = 0 then some (.cstashDrop (fld w 23 4) (fld w 18 5) (fld w 0 6))
      else none
  | 0x0B => if bits w 0 12 = 0 then some (.cverFork (fld w 23 4) (fld w 18 5) (fld w 12 6))
      else none
  | 0x0C => some (.csend (fld w 23 4) (fld w 18 5) (fld w 12 6) (fld w 6 6) (fld w 0 6))
  | 0x0D => some (.crecv (fld w 23 4) (fld w 18 5) (fld w 12 6) (fld w 6 6) (fld w 0 6))
  | 0x0E => some (.cringReduceScatter (fld w 23 4) (fld w 18 5) (fld w 12 6) (fld w 6 6) (fld w 0 6))
  | 0x0F => some (.cnred (fld w 23 4) (fld w 18 5) (fld w 12 6) (fld w 6 6) (fld w 0 6))
  | 0x10 => some (.cmaintClean (fld w 23 4) (fld w 18 5) (fld w 12 6) (fld w 6 6) (fld w 0 6))
  | 0x11 => some (.cpin (fld w 23 4) (fld w 18 5) (fld w 12 6) (fld w 6 6) (fld w 0 6))
  | 0x12 => if bits w 0 6 = 0 then some (.cmcast (fld w 23 4) (fld w 18 5) (fld w 12 6) (fld w 6 6))
      else none
  | _ => none

/-- The X slot (R42). -/
def decodeTransform (w : SlotWord) : Option Instr :=
  match bits w 27 5 with
  | 0x01 => decodeXcvtGroup w
  | 0x02 => if bits w 4 2 = 0 then some (.xq (bit w 26) (bfld w 22 4) (bfld w 18 4) (fld w 12 6) (fld w 6 6) (fld w 0 4))
      else none
  | 0x03 => if bits w 4 2 = 0 then some (.xdq (bit w 26) (bfld w 22 4) (bfld w 18 4) (fld w 12 6) (fld w 6 6) (fld w 0 4))
      else none
  | 0x04 => if bits w 16 2 = 0 ∧ bits w 10 2 = 0 then some (.xsld (bit w 26) (bfld w 22 4) (bit w 21) (bfld w 18 3) (fld w 12 4) (fld w 6 4) (fld w 0 6))
      else none
  | 0x05 => if bits w 16 2 = 0 ∧ bits w 10 2 = 0 then some (.xsst (bit w 26) (bfld w 22 4) (bit w 21) (bfld w 18 3) (fld w 12 4) (fld w 6 4) (fld w 0 6))
      else none
  | 0x06 => if bits w 20 7 = 0 ∧ bits w 0 6 = 0 then some (.xtr (bfld w 18 2) (fld w 12 6) (fld w 6 6))
      else none
  | 0x07 => if bits w 20 7 = 0 then some (.xperm (bfld w 18 2) (fld w 12 6) (fld w 6 6) (fld w 0 6))
      else none
  | 0x08 => if bits w 18 6 = 0 then some (.xhad (bfld w 25 2) (bit w 24) (fld w 12 6) (fld w 6 6) (fld w 0 6))
      else none
  | 0x09 => if bits w 26 1 = 0 ∧ bits w 18 4 = 0 then some (.xamax (bfld w 22 4) (fld w 12 6) (fld w 6 6) (fld w 0 6))
      else none
  | 0x0A => decodeXpackGroup w
  | 0x0B => if bits w 20 7 = 0 ∧ bits w 4 2 = 0 then some (.xexp (bfld w 18 2) (fld w 12 6) (fld w 6 6) (fld w 0 4))
      else none
  | 0x0C => decodeXtblGroup w
  | _ => none

/-- The gate fields of a G slot (R28). -/
def gateFields (w : SlotWord) : Gate :=
  { ckpt := bit w 31, scope := fld w 28 3, solo := bit w 27, wait := fld w 25 2, bank := fld w 23 2, mask := bfld w 15 8 }

/-- The gate of a bundle without a G slot: every field zero (R28). -/
def Gate.absent : Gate := { ckpt := false, scope := 0, solo := false, wait := 0, bank := 0, mask := 0 }

/-- The gate kinds that act (R30); kind 0 does nothing and HEAD never issues. -/
def decodeGate (w : SlotWord) : Option Instr :=
  match bits w 12 3 with
  | 1 => some (.pause (gateFields w) (bfld w 0 12))
  | 3 => some (.phase (gateFields w) (bfld w 0 12))
  | 4 => some (.mark (gateFields w) (bfld w 0 12))
  | _ => none

/-- A G slot is malformed in the cases of R29. A bundle that is executed is never a well-formed head, so HEAD is one. -/
def gateBad (w : SlotWord) : Bool :=
  bits w 28 3 ≥ 6 || bits w 25 2 == 3 || bits w 12 3 ≥ 5 || bits w 12 3 == 2 ||
  (bits w 25 2 == 0 && (bits w 23 2 != 0 || bits w 15 8 != 0)) ||
  (bits w 25 2 != 0 && bits w 15 8 == 0) || (bits w 12 3 == 0 && bits w 0 12 != 0)

/-- The decoder of the slot at a position (R22). -/
def decodeSlot (p : SlotPos) (w : SlotWord) : Option Instr :=
  match p with
  | .g => decodeGate w
  | .s => decodeScalar w
  | .v0 => decodeVector w
  | .v1 => decodeVector w
  | .m => decodeMatrix w
  | .c0 => decodeCopy w
  | .c1 => decodeCopy w
  | .x => decodeTransform w

/-- The positions a header names, in slot order: bit 7 for G down to bit 0 for X (R22). -/
def headerSlots (h : Byte) : List SlotPos :=
  [(7, SlotPos.g), (6, .s), (5, .v0), (4, .v1), (3, .m), (2, .c0), (1, .c1), (0, .x)].filterMap
    fun (i, p) => if bits h i 1 = 1 then some p else none

/-- The bundle's length in bytes, header included (R22). -/
def bundleLength (h : Byte) : Nat := 1 + 4 * (headerSlots h).length

/-- A little-endian slot word (R13, R22). -/
def slotWordOf (b : List Byte) : SlotWord :=
  BitVec.ofNat 32 ((b.getD 0 0).toNat + (b.getD 1 0).toNat * 2 ^ 8 + (b.getD 2 0).toNat * 2 ^ 16 + (b.getD 3 0).toNat * 2 ^ 24)

/-- The four bytes of a slot word, lowest address first. -/
def slotBytes (w : SlotWord) : List Byte :=
  [BitVec.ofNat 8 (bits w 0 8), BitVec.ofNat 8 (bits w 8 8), BitVec.ofNat 8 (bits w 16 8), BitVec.ofNat 8 (bits w 24 8)]

/-- Why a bundle is not executed as written; the cause recorded is the first in the order of R27. -/
inductive Reject where
  | overrun              -- it would extend past its line (R23)
  | gate                 -- its G slot is malformed (R29)
  | slot (p : SlotPos)   -- that slot's word is no instruction (R35)
deriving DecidableEq, Repr

/-- One bundle as decoded: its header, its gate, and the instructions of its slots in slot order. -/
structure Bundle where
  header : Byte
  gate   : Gate
  ops    : List (SlotPos × Instr)
deriving DecidableEq, Repr

/-- The words of the slots a header names. -/
def slotWords (ps : List SlotPos) (b : List Byte) : List (SlotPos × SlotWord) :=
  match ps with
  | [] => []
  | p :: ps => (p, slotWordOf b) :: slotWords ps (b.drop 4)

/-- The instructions of the slots; a G slot of kind none holds none, and a word that is none is named. -/
def decodeSlots (ws : List (SlotPos × SlotWord)) : Except Reject (List (SlotPos × Instr)) :=
  match ws with
  | [] => .ok []
  | (p, w) :: ws =>
    match decodeSlot p w, p with
    | some i, _ => (decodeSlots ws).map ((p, i) :: ·)
    | none, .g => decodeSlots ws
    | none, _ => .error (.slot p)

/-- The bundle at offset `off` of its line, from the bytes from its header on. A header of 0x00 is no bundle but the
line filler, which the fetch path passes over before it comes here (R23). -/
def decodeBundle (off : Nat) (b : List Byte) : Except Reject Bundle :=
  let h := b.getD 0 0
  let ws := slotWords (headerSlots h) (b.drop 1)
  let gw := (ws.find? (fun x => x.1 == SlotPos.g)).map (·.2)
  if off + bundleLength h > 64 then .error .overrun
  else if (gw.map gateBad).getD false then .error .gate
  else (decodeSlots ws).map fun ops =>
    { header := h, gate := (gw.map gateFields).getD Gate.absent, ops := ops }

/-- The instruction of a bundle of one slot whose word is `w`. A 32-bit word means different rows in different slots
and the table's numbering does not say which slot it stands in: the slots are tried in the order S, V, M, C, X, G. -/
def slotOfWord (w : SlotWord) : Option (SlotPos × Instr) :=
  match decodeScalar w with
  | some i => some (.s, i)
  | none => match decodeVector w with
    | some i => some (.v0, i)
    | none => match decodeMatrix w with
      | some i => some (.m, i)
      | none => match decodeCopy w with
        | some i => some (.c0, i)
        | none => match decodeTransform w with
          | some i => some (.x, i)
          | none => if gateBad w then none else (decodeGate w).map (SlotPos.g, ·)

/-- The header of a bundle that holds one slot at a position (R22). -/
def headerOf (p : SlotPos) : Byte :=
  match p with
  | .g => 0x80 | .s => 0x40 | .v0 => 0x20 | .v1 => 0x10 | .m => 0x08 | .c0 => 0x04 | .c1 => 0x02 | .x => 0x01

/-- What the decoder reads from a table word: the word is laid out as a bundle of one slot, byte for byte as the
hardware stores it, and given to `decodeBundle`. -/
def decodeTableWord (nbits w : Nat) : Option Instr :=
  let sw : SlotWord := BitVec.ofNat 32 (w % 2 ^ nbits)
  match slotOfWord sw with
  | none => none
  | some (p, _) =>
    match decodeBundle 0 (headerOf p :: slotBytes sw) with
    | .ok b => b.ops.head?.map (·.2)
    | .error _ => none

/-- A word's fields, each a value and the place of its lowest bit, put together. -/
def pack (fs : List (Nat × Nat)) : Nat :=
  match fs with
  | [] => 0
  | (v, lo) :: fs => v * 2 ^ lo + pack fs

/-- The G slot's word (R28). -/
def encodeGate (g : Gate) (kind : Nat) (aux : BitVec 12) : Nat :=
  pack [(g.ckpt.toNat, 31), (g.scope.val, 28), (g.solo.toNat, 27), (g.wait.val, 25), (g.bank.val, 23),
    (g.mask.toNat, 15), (kind, 12), (aux.toNat, 0)]

/-- The bits of an instruction's slot word, from the encoding tables of R33, R34 and R36 to R42; an event has none. -/
def encodeNat (i : Instr) : Option Nat :=
  match i with
  | .add d a b => some (pack [(0x01, 26), (d.val, 20), (a.val, 14), (b.val, 8)])
  | .sub d a b => some (pack [(0x01, 26), (d.val, 20), (a.val, 14), (b.val, 8), (0x01, 0)])
  | .and d a b => some (pack [(0x01, 26), (d.val, 20), (a.val, 14), (b.val, 8), (0x02, 0)])
  | .or d a b => some (pack [(0x01, 26), (d.val, 20), (a.val, 14), (b.val, 8), (0x03, 0)])
  | .xor d a b => some (pack [(0x01, 26), (d.val, 20), (a.val, 14), (b.val, 8), (0x04, 0)])
  | .andn d a b => some (pack [(0x01, 26), (d.val, 20), (a.val, 14), (b.val, 8), (0x05, 0)])
  | .shl d a b => some (pack [(0x01, 26), (d.val, 20), (a.val, 14), (b.val, 8), (0x06, 0)])
  | .shr d a b => some (pack [(0x01, 26), (d.val, 20), (a.val, 14), (b.val, 8), (0x07, 0)])
  | .sar d a b => some (pack [(0x01, 26), (d.val, 20), (a.val, 14), (b.val, 8), (0x08, 0)])
  | .rol d a b => some (pack [(0x01, 26), (d.val, 20), (a.val, 14), (b.val, 8), (0x09, 0)])
  | .min d a b => some (pack [(0x01, 26), (d.val, 20), (a.val, 14), (b.val, 8), (0x0A, 0)])
  | .max d a b => some (pack [(0x01, 26), (d.val, 20), (a.val, 14), (b.val, 8), (0x0B, 0)])
  | .minn d a b => some (pack [(0x01, 26), (d.val, 20), (a.val, 14), (b.val, 8), (0x0C, 0)])
  | .maxn d a b => some (pack [(0x01, 26), (d.val, 20), (a.val, 14), (b.val, 8), (0x0D, 0)])
  | .cmpEq d a b => some (pack [(0x01, 26), (d.val, 20), (a.val, 14), (b.val, 8), (0x10, 0)])
  | .cmpNe d a b => some (pack [(0x01, 26), (d.val, 20), (a.val, 14), (b.val, 8), (0x11, 0)])
  | .cmpLt d a b => some (pack [(0x01, 26), (d.val, 20), (a.val, 14), (b.val, 8), (0x12, 0)])
  | .cmpLe d a b => some (pack [(0x01, 26), (d.val, 20), (a.val, 14), (b.val, 8), (0x13, 0)])
  | .cmpLtn d a b => some (pack [(0x01, 26), (d.val, 20), (a.val, 14), (b.val, 8), (0x14, 0)])
  | .cmpLen d a b => some (pack [(0x01, 26), (d.val, 20), (a.val, 14), (b.val, 8), (0x15, 0)])
  | .clz d a => some (pack [(0x01, 26), (d.val, 20), (a.val, 14), (0x18, 0)])
  | .ctz d a => some (pack [(0x01, 26), (d.val, 20), (a.val, 14), (0x19, 0)])
  | .ffs d a => some (pack [(0x01, 26), (d.val, 20), (a.val, 14), (0x1A, 0)])
  | .popc d a => some (pack [(0x01, 26), (d.val, 20), (a.val, 14), (0x1B, 0)])
  | .brev d a => some (pack [(0x01, 26), (d.val, 20), (a.val, 14), (0x1C, 0)])
  | .mul d a b => some (pack [(0x02, 26), (d.val, 20), (a.val, 14), (b.val, 8)])
  | .mulh d a b => some (pack [(0x02, 26), (d.val, 20), (a.val, 14), (b.val, 8), (0x01, 0)])
  | .mulhn d a b => some (pack [(0x02, 26), (d.val, 20), (a.val, 14), (b.val, 8), (0x02, 0)])
  | .div d a b => some (pack [(0x02, 26), (d.val, 20), (a.val, 14), (b.val, 8), (0x03, 0)])
  | .divn d a b => some (pack [(0x02, 26), (d.val, 20), (a.val, 14), (b.val, 8), (0x04, 0)])
  | .rem d a b => some (pack [(0x02, 26), (d.val, 20), (a.val, 14), (b.val, 8), (0x05, 0)])
  | .remn d a b => some (pack [(0x02, 26), (d.val, 20), (a.val, 14), (b.val, 8), (0x06, 0)])
  | .addi d a i => some (pack [(0x03, 26), (d.val, 20), (a.val, 14), (i.toNat, 0)])
  | .andi d a i => some (pack [(0x04, 26), (d.val, 20), (a.val, 14), (i.toNat, 0)])
  | .ori d a i => some (pack [(0x05, 26), (d.val, 20), (a.val, 14), (i.toNat, 0)])
  | .xori d a i => some (pack [(0x06, 26), (d.val, 20), (a.val, 14), (i.toNat, 0)])
  | .shli d a n => some (pack [(0x07, 26), (d.val, 20), (a.val, 14), (n.toNat, 0)])
  | .shri d a n => some (pack [(0x07, 26), (d.val, 20), (a.val, 14), (0x40, 6), (n.toNat, 0)])
  | .sari d a n => some (pack [(0x07, 26), (d.val, 20), (a.val, 14), (0x80, 6), (n.toNat, 0)])
  | .roli d a n => some (pack [(0x07, 26), (d.val, 20), (a.val, 14), (0xC0, 6), (n.toNat, 0)])
  | .cmpiEq d a i => some (pack [(0x08, 26), (d.val, 20), (a.val, 14), (i.toNat, 0)])
  | .cmpiNe d a i => some (pack [(0x08, 26), (d.val, 20), (a.val, 14), (0x01, 11), (i.toNat, 0)])
  | .cmpiLt d a i => some (pack [(0x08, 26), (d.val, 20), (a.val, 14), (0x02, 11), (i.toNat, 0)])
  | .cmpiLe d a i => some (pack [(0x08, 26), (d.val, 20), (a.val, 14), (0x03, 11), (i.toNat, 0)])
  | .cmpiLtn d a i => some (pack [(0x08, 26), (d.val, 20), (a.val, 14), (0x04, 11), (i.toNat, 0)])
  | .cmpiLen d a i => some (pack [(0x08, 26), (d.val, 20), (a.val, 14), (0x05, 11), (i.toNat, 0)])
  | .bfxN d a l p => some (pack [(0x09, 26), (d.val, 20), (a.val, 14), (l.toNat, 6), (p.toNat, 0)])
  | .bfxI d a l p => some (pack [(0x09, 26), (d.val, 20), (a.val, 14), (0x01, 12), (l.toNat, 6), (p.toNat, 0)])
  | .bfi d a l p => some (pack [(0x0A, 26), (d.val, 20), (a.val, 14), (l.toNat, 6), (p.toNat, 0)])
  | .fshl d a b n => some (pack [(0x0B, 26), (d.val, 20), (a.val, 14), (b.val, 8), (n.toNat, 0)])
  | .fshr d a b n => some (pack [(0x0B, 26), (d.val, 20), (a.val, 14), (b.val, 8), (0x01, 6), (n.toNat, 0)])
  | .fshlv d a b c => some (pack [(0x0C, 26), (d.val, 20), (a.val, 14), (b.val, 8), (c.val, 0)])
  | .fshrv d a b c => some (pack [(0x0C, 26), (d.val, 20), (a.val, 14), (b.val, 8), (0x01, 6), (c.val, 0)])
  | .sel d a b c => some (pack [(0x0D, 26), (d.val, 20), (a.val, 14), (b.val, 8), (c.val, 0)])
  | .li d i => some (pack [(0x10, 26), (d.val, 20), (i.toNat, 0)])
  | .liu d i => some (pack [(0x11, 26), (d.val, 20), (i.toNat, 0)])
  | .mfs d n => some (pack [(0x12, 26), (d.val, 20), (n.toNat, 0)])
  | .mts a n => some (pack [(0x13, 26), (a.val, 14), (n.toNat, 0)])
  | .clk d => some (pack [(0x14, 26), (d.val, 20)])
  | .coreidLog d => some (pack [(0x15, 26), (d.val, 20)])
  | .coreidPhys d => some (pack [(0x15, 26), (d.val, 20), (0x01, 0)])
  | .brZ a i => some (pack [(0x18, 26), (a.val, 16), (i.toNat, 0)])
  | .brNz a i => some (pack [(0x18, 26), (0x01, 22), (a.val, 16), (i.toNat, 0)])
  | .brNeg a i => some (pack [(0x18, 26), (0x02, 22), (a.val, 16), (i.toNat, 0)])
  | .brNneg a i => some (pack [(0x18, 26), (0x03, 22), (a.val, 16), (i.toNat, 0)])
  | .brPos a i => some (pack [(0x18, 26), (0x04, 22), (a.val, 16), (i.toNat, 0)])
  | .brNpos a i => some (pack [(0x18, 26), (0x05, 22), (a.val, 16), (i.toNat, 0)])
  | .br i => some (pack [(0x18, 26), (0x06, 22), (i.toNat, 0)])
  | .jmp a => some (pack [(0x19, 26), (a.val, 14)])
  | .call i => some (pack [(0x1A, 26), (i.toNat, 0)])
  | .callr a => some (pack [(0x1B, 26), (a.val, 14)])
  | .chk a i => some (pack [(0x1C, 26), (a.val, 16), (i.toNat, 0)])
  | .ldI8 d b c o => some (pack [(0x20, 26), (d.val, 20), (b.val, 14), (c.val, 10), (o.toNat, 0)])
  | .ldN8 d b c o => some (pack [(0x21, 26), (d.val, 20), (b.val, 14), (c.val, 10), (o.toNat, 0)])
  | .ldI16 d b c o => some (pack [(0x22, 26), (d.val, 20), (b.val, 14), (c.val, 10), (o.toNat, 0)])
  | .ldN16 d b c o => some (pack [(0x23, 26), (d.val, 20), (b.val, 14), (c.val, 10), (o.toNat, 0)])
  | .ldI32 d b c o => some (pack [(0x24, 26), (d.val, 20), (b.val, 14), (c.val, 10), (o.toNat, 0)])
  | .ldN32 d b c o => some (pack [(0x25, 26), (d.val, 20), (b.val, 14), (c.val, 10), (o.toNat, 0)])
  | .ldI64 d b c o => some (pack [(0x26, 26), (d.val, 20), (b.val, 14), (c.val, 10), (o.toNat, 0)])
  | .ldSN32 d b c o => some (pack [(0x27, 26), (d.val, 20), (b.val, 14), (c.val, 10), (o.toNat, 0)])
  | .ldSI64 d b c o => some (pack [(0x28, 26), (d.val, 20), (b.val, 14), (c.val, 10), (o.toNat, 0)])
  | .st8 d b c o => some (pack [(0x29, 26), (d.val, 20), (b.val, 14), (c.val, 10), (o.toNat, 0)])
  | .st16 d b c o => some (pack [(0x2A, 26), (d.val, 20), (b.val, 14), (c.val, 10), (o.toNat, 0)])
  | .st32 d b c o => some (pack [(0x2B, 26), (d.val, 20), (b.val, 14), (c.val, 10), (o.toNat, 0)])
  | .st64 d b c o => some (pack [(0x2C, 26), (d.val, 20), (b.val, 14), (c.val, 10), (o.toNat, 0)])
  | .ldBlk f a b r c => some (pack [(0x2D, 26), (f.val, 20), (a.val, 14), (b.val, 8), (r.toNat, 4), (c.val, 0)])
  | .amo32 d a b p c => some (pack [(0x2E, 26), (d.val, 20), (a.val, 14), (b.val, 8), (p.toNat, 4), (c.val, 0)])
  | .amo64 d a b p c => some (pack [(0x2F, 26), (d.val, 20), (a.val, 14), (b.val, 8), (p.toNat, 4), (c.val, 0)])
  | .rld d a l => some (pack [(0x30, 26), (d.val, 20), (a.val, 14), (l.toNat, 0)])
  | .fenceC m => some (pack [(0x31, 26), (m.toNat, 0)])
  | .fenceP p q => some (pack [(0x32, 26), (p.toNat, 3), (q.toNat, 0)])
  | .sig a => some (pack [(0x33, 26), (a.val, 14)])
  | .clrf a => some (pack [(0x33, 26), (a.val, 14), (0x01, 0)])
  | .clrfErr a => some (pack [(0x33, 26), (0x01, 20), (a.val, 14), (0x01, 0)])
  | .advP h b => some (pack [(0x33, 26), (h.val, 20), (b.val, 8), (0x02, 0)])
  | .advC h b => some (pack [(0x33, 26), (h.val, 20), (b.val, 8), (0x03, 0)])
  | .rfill f h b => some (pack [(0x33, 26), (f.val, 20), (h.val, 14), (b.val, 8), (0x04, 0)])
  | .rfree f h b => some (pack [(0x33, 26), (f.val, 20), (h.val, 14), (b.val, 8), (0x05, 0)])
  | .seqadd a b => some (pack [(0x34, 26), (a.val, 14), (b.val, 8)])
  | .seqwatch f a b => some (pack [(0x35, 26), (f.val, 20), (a.val, 14), (b.val, 8)])
  | .seqwatchTag f a b => some (pack [(0x35, 26), (0x01, 25), (f.val, 20), (a.val, 14), (b.val, 8)])
  | .seqrd d a => some (pack [(0x36, 26), (d.val, 20), (a.val, 14)])
  | .launch d a b => some (pack [(0x37, 26), (d.val, 20), (a.val, 14), (b.val, 8)])
  | .launchQF d b => some (pack [(0x37, 26), (d.val, 20), (b.val, 8), (0x01, 0)])
  | .launchQB d b => some (pack [(0x37, 26), (d.val, 20), (b.val, 8), (0x02, 0)])
  | .launchQW d b => some (pack [(0x37, 26), (d.val, 20), (b.val, 8), (0x03, 0)])
  | .retire => some (pack [(0x38, 26)])
  | .carve d a => some (pack [(0x39, 26), (d.val, 20), (a.val, 14)])
  | .trap n => some (pack [(0x3A, 26), (n.toNat, 0)])
  | .retu => some (pack [(0x3B, 26)])
  | .retl => some (pack [(0x3C, 26)])
  | .qseed a b => some (pack [(0x3D, 26), (a.val, 14), (b.val, 8)])
  | .qldt c a b => some (pack [(0x3D, 26), (c.val, 20), (a.val, 14), (b.val, 8), (0x01, 0)])
  | .qpt d a b => some (pack [(0x3D, 26), (d.val, 20), (a.val, 14), (b.val, 8), (0x02, 0)])
  | .qsave c a b => some (pack [(0x3D, 26), (c.val, 20), (a.val, 14), (b.val, 8), (0x03, 0)])
  | .pause g n => some (encodeGate g 1 n)
  | .phase g n => some (encodeGate g 3 n)
  | .mark g n => some (encodeGate g 4 n)
  | .vadd t d a b k h => some (pack [(0x01, 27), (t.code, 24), (d.val, 18), (a.val, 12), (b.val, 6), (k.val, 4), (h.toNat, 3)])
  | .vaddSat t d a b k h => some (pack [(0x01, 27), (t.code, 24), (d.val, 18), (a.val, 12), (b.val, 6), (k.val, 4), (h.toNat, 3), (0x01, 0)])
  | .vsub t d a b k h => some (pack [(0x02, 27), (t.code, 24), (d.val, 18), (a.val, 12), (b.val, 6), (k.val, 4), (h.toNat, 3)])
  | .vsubSat t d a b k h => some (pack [(0x02, 27), (t.code, 24), (d.val, 18), (a.val, 12), (b.val, 6), (k.val, 4), (h.toNat, 3), (0x01, 0)])
  | .vmul t d a b k h => some (pack [(0x03, 27), (t.code, 24), (d.val, 18), (a.val, 12), (b.val, 6), (k.val, 4), (h.toNat, 3)])
  | .vmulHi t d a b k h => some (pack [(0x03, 27), (t.code, 24), (d.val, 18), (a.val, 12), (b.val, 6), (k.val, 4), (h.toNat, 3), (0x01, 0)])
  | .vmulWide t d a b k h => some (pack [(0x03, 27), (t.code, 24), (d.val, 18), (a.val, 12), (b.val, 6), (k.val, 4), (h.toNat, 3), (0x02, 0)])
  | .vfma t d a b k h => some (pack [(0x04, 27), (t.code, 24), (d.val, 18), (a.val, 12), (b.val, 6), (k.val, 4), (h.toNat, 3)])
  | .vfmaFms t d a b k h => some (pack [(0x04, 27), (t.code, 24), (d.val, 18), (a.val, 12), (b.val, 6), (k.val, 4), (h.toNat, 3), (0x01, 0)])
  | .vfmaFnma t d a b k h => some (pack [(0x04, 27), (t.code, 24), (d.val, 18), (a.val, 12), (b.val, 6), (k.val, 4), (h.toNat, 3), (0x02, 0)])
  | .vmin t d a b k h => some (pack [(0x05, 27), (t.code, 24), (d.val, 18), (a.val, 12), (b.val, 6), (k.val, 4), (h.toNat, 3)])
  | .vmax t d a b k h => some (pack [(0x06, 27), (t.code, 24), (d.val, 18), (a.val, 12), (b.val, 6), (k.val, 4), (h.toNat, 3)])
  | .vabs t d a k => some (pack [(0x07, 27), (t.code, 24), (d.val, 18), (a.val, 12), (k.val, 4)])
  | .vneg t d a k => some (pack [(0x07, 27), (t.code, 24), (d.val, 18), (a.val, 12), (k.val, 4), (0x01, 0)])
  | .vlogAnd t d a b k h => some (pack [(0x08, 27), (t.code, 24), (d.val, 18), (a.val, 12), (b.val, 6), (k.val, 4), (h.toNat, 3)])
  | .vlogOr t d a b k h => some (pack [(0x08, 27), (t.code, 24), (d.val, 18), (a.val, 12), (b.val, 6), (k.val, 4), (h.toNat, 3), (0x01, 0)])
  | .vlogXor t d a b k h => some (pack [(0x08, 27), (t.code, 24), (d.val, 18), (a.val, 12), (b.val, 6), (k.val, 4), (h.toNat, 3), (0x02, 0)])
  | .vlogAndn t d a b k h => some (pack [(0x08, 27), (t.code, 24), (d.val, 18), (a.val, 12), (b.val, 6), (k.val, 4), (h.toNat, 3), (0x03, 0)])
  | .vlogNot t d a k => some (pack [(0x08, 27), (t.code, 24), (d.val, 18), (a.val, 12), (k.val, 4), (0x04, 0)])
  | .vshShl t d a b k h => some (pack [(0x09, 27), (t.code, 24), (d.val, 18), (a.val, 12), (b.val, 6), (k.val, 4), (h.toNat, 3)])
  | .vshShr t d a b k h => some (pack [(0x09, 27), (t.code, 24), (d.val, 18), (a.val, 12), (b.val, 6), (k.val, 4), (h.toNat, 3), (0x01, 0)])
  | .vshSar t d a b k h => some (pack [(0x09, 27), (t.code, 24), (d.val, 18), (a.val, 12), (b.val, 6), (k.val, 4), (h.toNat, 3), (0x02, 0)])
  | .vcmpEq t m a b k h => some (pack [(0x0A, 27), (t.code, 24), (m.val, 18), (a.val, 12), (b.val, 6), (k.val, 4), (h.toNat, 3)])
  | .vcmpNe t m a b k h => some (pack [(0x0A, 27), (t.code, 24), (m.val, 18), (a.val, 12), (b.val, 6), (k.val, 4), (h.toNat, 3), (0x01, 0)])
  | .vcmpLt t m a b k h => some (pack [(0x0A, 27), (t.code, 24), (m.val, 18), (a.val, 12), (b.val, 6), (k.val, 4), (h.toNat, 3), (0x02, 0)])
  | .vcmpLe t m a b k h => some (pack [(0x0A, 27), (t.code, 24), (m.val, 18), (a.val, 12), (b.val, 6), (k.val, 4), (h.toNat, 3), (0x03, 0)])
  | .vcmpGt t m a b k h => some (pack [(0x0A, 27), (t.code, 24), (m.val, 18), (a.val, 12), (b.val, 6), (k.val, 4), (h.toNat, 3), (0x04, 0)])
  | .vcmpGe t m a b k h => some (pack [(0x0A, 27), (t.code, 24), (m.val, 18), (a.val, 12), (b.val, 6), (k.val, 4), (h.toNat, 3), (0x05, 0)])
  | .vcmpUo t m a b k h => some (pack [(0x0A, 27), (t.code, 24), (m.val, 18), (a.val, 12), (b.val, 6), (k.val, 4), (h.toNat, 3), (0x06, 0)])
  | .vsel t d a b k h s => some (pack [(0x0B, 27), (t.code, 24), (d.val, 18), (a.val, 12), (b.val, 6), (k.val, 4), (h.toNat, 3), (s.val, 0)])
  | .vbitClz t d a k => some (pack [(0x0C, 27), (t.code, 24), (d.val, 18), (a.val, 12), (k.val, 4)])
  | .vbitCtz t d a k => some (pack [(0x0C, 27), (t.code, 24), (d.val, 18), (a.val, 12), (k.val, 4), (0x01, 0)])
  | .vbitFfs t d a k => some (pack [(0x0C, 27), (t.code, 24), (d.val, 18), (a.val, 12), (k.val, 4), (0x02, 0)])
  | .vbitPopc t d a k => some (pack [(0x0C, 27), (t.code, 24), (d.val, 18), (a.val, 12), (k.val, 4), (0x03, 0)])
  | .vbfxN32 d a b k h => some (pack [(0x0D, 27), (0x04, 24), (d.val, 18), (a.val, 12), (b.val, 6), (k.val, 4), (h.toNat, 3)])
  | .vbfxI32 d a b k h => some (pack [(0x0D, 27), (0x02, 24), (d.val, 18), (a.val, 12), (b.val, 6), (k.val, 4), (h.toNat, 3), (0x01, 0)])
  | .vfshLeft t d a b k h => some (pack [(0x0E, 27), (t.code, 24), (d.val, 18), (a.val, 12), (b.val, 6), (k.val, 4), (h.toNat, 3)])
  | .vfshRight t d a b k h => some (pack [(0x0E, 27), (t.code, 24), (d.val, 18), (a.val, 12), (b.val, 6), (k.val, 4), (h.toNat, 3), (0x01, 0)])
  | .vspecExp2 d a k => some (pack [(0x0F, 27), (0x07, 24), (d.val, 18), (a.val, 12), (k.val, 4)])
  | .vspecLog2 d a k => some (pack [(0x0F, 27), (0x07, 24), (d.val, 18), (a.val, 12), (k.val, 4), (0x01, 0)])
  | .vspecRcp d a k => some (pack [(0x0F, 27), (0x07, 24), (d.val, 18), (a.val, 12), (k.val, 4), (0x02, 0)])
  | .vspecRsqrt d a k => some (pack [(0x0F, 27), (0x07, 24), (d.val, 18), (a.val, 12), (k.val, 4), (0x03, 0)])
  | .vspecSqrt d a k => some (pack [(0x0F, 27), (0x07, 24), (d.val, 18), (a.val, 12), (k.val, 4), (0x04, 0)])
  | .vredAdd t d a k => some (pack [(0x10, 27), (t.code, 24), (d.val, 18), (a.val, 12), (k.val, 4)])
  | .vredMax t d a k => some (pack [(0x10, 27), (t.code, 24), (d.val, 18), (a.val, 12), (k.val, 4), (0x01, 0)])
  | .vredMin t d a k => some (pack [(0x10, 27), (t.code, 24), (d.val, 18), (a.val, 12), (k.val, 4), (0x02, 0)])
  | .vshuf t d a b k h => some (pack [(0x11, 27), (t.code, 24), (d.val, 18), (a.val, 12), (b.val, 6), (k.val, 4), (h.toNat, 3)])
  | .vrot t d a b k h => some (pack [(0x12, 27), (t.code, 24), (d.val, 18), (a.val, 12), (b.val, 6), (k.val, 4), (h.toNat, 3)])
  | .vxg t d a b k h => some (pack [(0x13, 27), (t.code, 24), (d.val, 18), (a.val, 12), (b.val, 6), (k.val, 4), (h.toNat, 3)])
  | .vbcast t d a k => some (pack [(0x14, 27), (t.code, 24), (d.val, 18), (a.val, 12), (k.val, 4)])
  | .vext t d a b => some (pack [(0x15, 27), (t.code, 24), (d.val, 18), (a.val, 12), (b.val, 6)])
  | .vld t d a b k => some (pack [(0x16, 27), (t.code, 24), (d.val, 18), (a.val, 12), (b.val, 6), (k.val, 4)])
  | .vst t d a b k => some (pack [(0x17, 27), (t.code, 24), (d.val, 18), (a.val, 12), (b.val, 6), (k.val, 4)])
  | .vgath t d a b k => some (pack [(0x18, 27), (t.code, 24), (d.val, 18), (a.val, 12), (b.val, 6), (k.val, 4)])
  | .vscat t d a b k => some (pack [(0x19, 27), (t.code, 24), (d.val, 18), (a.val, 12), (b.val, 6), (k.val, 4)])
  | .vamoAdd t d a b k => some (pack [(0x1A, 27), (t.code, 24), (d.val, 18), (a.val, 12), (b.val, 6), (k.val, 4)])
  | .vamoAddSr d a b k => some (pack [(0x1A, 27), (0x06, 24), (d.val, 18), (a.val, 12), (b.val, 6), (k.val, 4), (0x01, 0)])
  | .vamoMin t d a b k => some (pack [(0x1A, 27), (t.code, 24), (d.val, 18), (a.val, 12), (b.val, 6), (k.val, 4), (0x02, 0)])
  | .vamoMax t d a b k => some (pack [(0x1A, 27), (t.code, 24), (d.val, 18), (a.val, 12), (b.val, 6), (k.val, 4), (0x03, 0)])
  | .vamoFmax t d a b k => some (pack [(0x1A, 27), (t.code, 24), (d.val, 18), (a.val, 12), (b.val, 6), (k.val, 4), (0x04, 0)])
  | .vqpt t d a b k => some (pack [(0x1C, 27), (t.code, 24), (d.val, 18), (a.val, 12), (b.val, 6), (k.val, 4)])
  | .vmaskAnd d a b k => some (pack [(0x1D, 27), (d.val, 18), (a.val, 12), (b.val, 6), (k.val, 4)])
  | .vmaskOr d a b k => some (pack [(0x1D, 27), (d.val, 18), (a.val, 12), (b.val, 6), (k.val, 4), (0x01, 0)])
  | .vmaskXor d a b k => some (pack [(0x1D, 27), (d.val, 18), (a.val, 12), (b.val, 6), (k.val, 4), (0x02, 0)])
  | .vmaskAndn d a b k => some (pack [(0x1D, 27), (d.val, 18), (a.val, 12), (b.val, 6), (k.val, 4), (0x03, 0)])
  | .vmaskNot d a k => some (pack [(0x1D, 27), (d.val, 18), (a.val, 12), (k.val, 4), (0x04, 0)])
  | .vmaskMov d a k => some (pack [(0x1D, 27), (d.val, 18), (a.val, 12), (k.val, 4), (0x05, 0)])
  | .vmov t d a k => some (pack [(0x1E, 27), (t.code, 24), (d.val, 18), (a.val, 12), (k.val, 4)])
  | .mcall e i f => some (pack [(0x01, 28), (e.val, 22), (i.toNat, 6), (f.val, 1)])
  | .mlds a f p q => some (pack [(0x02, 28), (a.val, 24), (f.val, 19), (p.val, 16), (q.val, 13)])
  | .mswap a => some (pack [(0x03, 28), (a.val, 24)])
  | .mstream a t i => some (pack [(0x04, 28), (a.val, 24), (t.val, 17), (i.toNat, 16)])
  | .mstreamEyepiece a e t i => some (pack [(0x04, 28), (a.val, 24), (0x01, 23), (e.val, 20), (t.val, 17), (i.toNat, 16)])
  | .mdrain f t m c => some (pack [(0x05, 28), (f.val, 23), (t.val, 20), (m.val, 16), (c.toNat, 15)])
  | .mzero q => some (pack [(0x06, 28), (q.val, 25)])
  | .mepl e q => some (pack [(0x07, 28), (e.val, 25), (q.val, 22)])
  | .mmode m o b w a => some (pack [(0x08, 28), (m.toNat, 25), (o.toNat, 24), (b.toNat, 23), (w.toNat, 20), (a.toNat, 17)])
  | .mseg f r c => some (pack [(0x09, 28), (f.val, 24), (r.toNat, 22), (c.toNat, 20)])
  | .mqset q a => some (pack [(0x0A, 28), (q.val, 25), (a.val, 19)])
  | .mephw a b f s e => some (pack [(0x0B, 28), (a.val, 25), (b.val, 22), (f.val, 12), (s.toNat, 11), (e.val, 5)])
  | .mstat d c => some (pack [(0x0C, 28), (d.val, 22), (c.toNat, 21)])
  | .mOperationExecute _ => none
  | .mldsCompletion _ => none
  | .mdrainCompletion _ => none
  | .routineCompletion _ => none
  | .cpy n f a b c => some (pack [(0x01, 27), (n.val, 23), (f.val, 18), (a.val, 12), (b.val, 6), (c.val, 0)])
  | .cgath n f a b c => some (pack [(0x02, 27), (n.val, 23), (f.val, 18), (a.val, 12), (b.val, 6), (c.val, 0)])
  | .cscat n f a b c => some (pack [(0x03, 27), (n.val, 23), (f.val, 18), (a.val, 12), (b.val, 6), (c.val, 0)])
  | .cfill n f a b c => some (pack [(0x04, 27), (n.val, 23), (f.val, 18), (a.val, 12), (b.val, 6), (c.val, 0)])
  | .cred n f a b c => some (pack [(0x05, 27), (n.val, 23), (f.val, 18), (a.val, 12), (b.val, 6), (c.val, 0)])
  | .cbcast n f a b c => some (pack [(0x06, 27), (n.val, 23), (f.val, 18), (a.val, 12), (b.val, 6), (c.val, 0)])
  | .cxfm n f a b c => some (pack [(0x07, 27), (n.val, 23), (f.val, 18), (a.val, 12), (b.val, 6), (c.val, 0)])
  | .cstashSave n f a b c => some (pack [(0x08, 27), (n.val, 23), (f.val, 18), (a.val, 12), (b.val, 6), (c.val, 0)])
  | .cstashGet n f a b c => some (pack [(0x09, 27), (n.val, 23), (f.val, 18), (a.val, 12), (b.val, 6), (c.val, 0)])
  | .cstashPf n f c => some (pack [(0x09, 27), (n.val, 23), (f.val, 18), (c.val, 0)])
  | .cstashDrop n f c => some (pack [(0x0A, 27), (n.val, 23), (f.val, 18), (c.val, 0)])
  | .cverFork n f a => some (pack [(0x0B, 27), (n.val, 23), (f.val, 18), (a.val, 12)])
  | .cverRetire n f a => some (pack [(0x0B, 27), (n.val, 23), (f.val, 18), (a.val, 12)])
  | .cverSettle n f a => some (pack [(0x0B, 27), (n.val, 23), (f.val, 18), (a.val, 12)])
  | .csend n f a b c => some (pack [(0x0C, 27), (n.val, 23), (f.val, 18), (a.val, 12), (b.val, 6), (c.val, 0)])
  | .crecv n f a b c => some (pack [(0x0D, 27), (n.val, 23), (f.val, 18), (a.val, 12), (b.val, 6), (c.val, 0)])
  | .cringReduceScatter n f a b c => some (pack [(0x0E, 27), (n.val, 23), (f.val, 18), (a.val, 12), (b.val, 6), (c.val, 0)])
  | .cringAllGather n f a b c => some (pack [(0x0E, 27), (n.val, 23), (f.val, 18), (a.val, 12), (b.val, 6), (c.val, 0)])
  | .cringReduceScatterF32 n f a b c => some (pack [(0x0E, 27), (n.val, 23), (f.val, 18), (a.val, 12), (b.val, 6), (c.val, 0)])
  | .cringAllGatherF32 n f a b c => some (pack [(0x0E, 27), (n.val, 23), (f.val, 18), (a.val, 12), (b.val, 6), (c.val, 0)])
  | .cnred n f a b c => some (pack [(0x0F, 27), (n.val, 23), (f.val, 18), (a.val, 12), (b.val, 6), (c.val, 0)])
  | .cmaintClean n f a b c => some (pack [(0x10, 27), (n.val, 23), (f.val, 18), (a.val, 12), (b.val, 6), (c.val, 0)])
  | .cmaintFlush n f a b c => some (pack [(0x10, 27), (n.val, 23), (f.val, 18), (a.val, 12), (b.val, 6), (c.val, 0)])
  | .cmaintInval n f a b c => some (pack [(0x10, 27), (n.val, 23), (f.val, 18), (a.val, 12), (b.val, 6), (c.val, 0)])
  | .cmaintTlb n f a b c => some (pack [(0x10, 27), (n.val, 23), (f.val, 18), (a.val, 12), (b.val, 6), (c.val, 0)])
  | .cpin n f a b c => some (pack [(0x11, 27), (n.val, 23), (f.val, 18), (a.val, 12), (b.val, 6), (c.val, 0)])
  | .cpinUnpin n f a b c => some (pack [(0x11, 27), (n.val, 23), (f.val, 18), (a.val, 12), (b.val, 6), (c.val, 0)])
  | .cmcast n f a b => some (pack [(0x12, 27), (n.val, 23), (f.val, 18), (a.val, 12), (b.val, 6)])
  | .xcvt f g d a => some (pack [(0x01, 27), (f.toNat, 23), (g.toNat, 19), (d.val, 12), (a.val, 6)])
  | .xcvtSr f g d a b => some (pack [(0x01, 27), (f.toNat, 23), (g.toNat, 19), (0x01, 18), (d.val, 12), (a.val, 6), (b.val, 0)])
  | .xq k s m d a z => some (pack [(0x02, 27), (k.toNat, 26), (s.toNat, 22), (m.toNat, 18), (d.val, 12), (a.val, 6), (z.val, 0)])
  | .xdq k s m d a z => some (pack [(0x03, 27), (k.toNat, 26), (s.toNat, 22), (m.toNat, 18), (d.val, 12), (a.val, 6), (z.val, 0)])
  | .xsld v c k o z h b => some (pack [(0x04, 27), (v.toNat, 26), (c.toNat, 22), (k.toNat, 21), (o.toNat, 18), (z.val, 12), (h.val, 6), (b.val, 0)])
  | .xsst v c k o z h b => some (pack [(0x05, 27), (v.toNat, 26), (c.toNat, 22), (k.toNat, 21), (o.toNat, 18), (z.val, 12), (h.val, 6), (b.val, 0)])
  | .xtr w d a => some (pack [(0x06, 27), (w.toNat, 18), (d.val, 12), (a.val, 6)])
  | .xperm w d a b => some (pack [(0x07, 27), (w.toNat, 18), (d.val, 12), (a.val, 6), (b.val, 0)])
  | .xhad n i d a b => some (pack [(0x08, 27), (n.toNat, 25), (i.toNat, 24), (d.val, 12), (a.val, 6), (b.val, 0)])
  | .xamax f d a b => some (pack [(0x09, 27), (f.toNat, 22), (d.val, 12), (a.val, 6), (b.val, 0)])
  | .xpack m w s g d a => some (pack [(0x0A, 27), (m.toNat, 22), (w.toNat, 20), (s.toNat, 19), (g.toNat, 18), (d.val, 12), (a.val, 6)])
  | .xunpk m w g d a => some (pack [(0x0A, 27), (0x01, 26), (m.toNat, 22), (w.toNat, 20), (g.toNat, 18), (d.val, 12), (a.val, 6)])
  | .xexp w d a m => some (pack [(0x0B, 27), (w.toNat, 18), (d.val, 12), (a.val, 6), (m.val, 0)])
  | .xtblPerm a b => some (pack [(0x0C, 27), (a.val, 6), (b.val, 0)])
  | .xtblKey a => some (pack [(0x0C, 27), (0x4000, 12), (a.val, 6)])
  | .packageReset _ => none
  | .loadDataArrival _ => none
  | .registerFill _ _ => none
  | .pageWalk _ _ => none
  | .releasedStorePerform _ _ => none
  | .storeRefused _ _ _ => none
  | .rqctlRetry _ => none
  | .rqctlDrop _ => none
  | .commandExecute _ _ => none
  | .commandCompletion _ _ _ => none
  | .ldBlkCompletion _ _ => none
  | .watchFire _ _ => none
  | .userInterruptDelivery _ => none
  | .rldDeadline _ => none
  | .rldReply _ _ => none
  | .faultRecordWrite => none
  | .frqWrite _ => none
  | .taskStart _ => none
  | .preemptionDecision _ => none
  | .sliceFloorExpiry _ => none
  | .quantumExpiry _ => none
  | .preemptForcedCheckpoint _ => none
  | .checkpointSwitchOut _ => none
  | .taskResume _ => none
  | .meridianFiring _ => none
  | .channelMessageArrival _ _ _ _ _ _ => none
  | .stashPrefetch => none
  | .releaseFlush => none
  | .nredChunkArrival _ _ _ _ _ _ _ => none
  | .nredDeadlineSpill _ _ _ => none
  | .ringStepArrival _ _ _ _ _ _ => none
  | .keyAgreement _ _ _ => none
  | .epochRotation _ _ _ => none
  | .frameReceive _ _ _ _ => none
  | .roundTripMeasure _ _ _ => none
  | .packetReceive _ _ _ _ => none
  | .e2eResend _ => none
  | .heartbeat _ => none
  | .deadPeerDeclaration _ => none
  | .deadNoticeReceive _ _ => none
  | .fabricRead _ _ => none
  | .fabricOwnership _ _ => none
  | .fabricInvalidation _ _ => none
  | .invalidationAck _ _ => none
  | .fabricWriteBack _ _ _ => none
  | .fabricEviction _ _ => none
  | .hbmRefresh _ _ => none
  | .lpddrRefresh _ => none
  | .linkRetrain _ _ _ => none
  | .scrub _ => none
  | .uncorrectableError _ _ => none
  | .correctedError _ => none
  | .shutterArm _ _ => none
  | .shutterRelease _ => none
  | .shutterFire _ => none
  | .shutterLatch => none
  | .semaphoreAcquire _ _ => none
  | .semaphoreRenew _ _ _ => none
  | .semaphoreRelease _ _ => none
  | .leaseExpiry => none
  | .guardedWrite _ _ => none
  | .managementRequest _ => none
  | .mgevtRead => none
  | .attestationQuote _ => none
  | .counterWrite _ _ _ => none
  | .mgclkWrite _ _ => none
  | .governorInterval _ _ _ _ => none
  | .coolantAlarm _ _ => none
  | .thermalTrip => none
  | .railShutoff => none
  | .fctlResume _ => none
  | .fctlKill _ => none
  | .fctlSwitchOut _ => none
  | .flagsWrite _ _ => none
  | .mquartWrite _ _ => none
  | .carveWrite _ _ => none
  | .hgWrite _ _ _ => none
  | .hsWrite _ _ _ => none
  | .watchEntryWrite _ _ _ _ => none
  | .coreControlWrite _ _ _ _ => none
  | .frposWrite _ => none
  | .vrbWrite _ _ => none
  | .contextCreate _ _ _ => none
  | .counterAdd _ _ => none
  | .forwardedRequest _ _ _ => none
  | .coolantRestored _ _ => none

/-- The slot word of an instruction. -/
def encode (i : Instr) : Option SlotWord := (encodeNat i).map (BitVec.ofNat 32)

end Sys2Proof
end

