-- ==== Sys2Proof/Machine/Bits.lean ====
section
/-! DEFINITION. The helpers of R19 on integers and bit patterns, and byte order (R13). -/

namespace Sys2Proof.Machine

/-- `sext(x, n)`: the signed value of the low n bits (R19). -/
def sext {w : Nat} (x : BitVec w) (n : Nat) : Int :=
  let u := x.toNat % 2 ^ n
  if 2 * u < 2 ^ n then (u : Int) else (u : Int) - 2 ^ n

/-- `zext(x, n)`: the unsigned value of the low n bits (R19). -/
def zext {w : Nat} (x : BitVec w) (n : Nat) : Nat := x.toNat % 2 ^ n

/-- `trunc(x, n)`: the n-bit pattern of x modulo 2^n (R19). -/
def trunc (x : Int) (n : Nat) : BitVec n := BitVec.ofInt n x

/-- `clamp(x, lo, hi)` (R19). -/
def clamp (x lo hi : Int) : Int := if x < lo then lo else if hi < x then hi else x

/-- A field of a word, as a smaller word. -/
def field {w : Nat} (x : BitVec w) (lo n : Nat) : BitVec n := BitVec.ofNat n (x.toNat / 2 ^ lo)

/-- One bit of a word. -/
def flag {w : Nat} (x : BitVec w) (i : Nat) : Bool := x.toNat / 2 ^ i % 2 == 1

/-- A word with the n bits from lo up replaced. -/
def putField {w : Nat} (x : BitVec w) (lo n v : Nat) : BitVec w :=
  let u := x.toNat
  BitVec.ofNat w (u / 2 ^ (lo + n) * 2 ^ (lo + n) + (v % 2 ^ n) * 2 ^ lo + u % 2 ^ lo)

/-- The little-endian bytes of a value, lowest address first (R13). -/
def bytesOf (n : Nat) (x : Nat) : List Byte :=
  match n with
  | 0 => []
  | n + 1 => BitVec.ofNat 8 x :: bytesOf n (x / 256)

/-- The value of little-endian bytes (R13). -/
def ofBytes (b : List Byte) : Nat :=
  match b with
  | [] => 0
  | x :: b => x.toNat + 256 * ofBytes b

/-- Element k of width w of a vector value, counted from the lowest bit (R86). -/
def elem {n : Nat} (x : BitVec n) (w k : Nat) : BitVec w := BitVec.ofNat w (x.toNat / 2 ^ (w * k))

/-- The value whose element k of width w is `f k`, for k below n; the first element is lowest. -/
def ofElems (w : Nat) (xs : List (BitVec w)) : Nat :=
  match xs with
  | [] => 0
  | x :: xs => x.toNat + 2 ^ w * ofElems w xs

/-- A vector value from its elements of width w. -/
def packElems (n w : Nat) (f : Nat → BitVec w) : BitVec n :=
  BitVec.ofNat n (ofElems w ((List.range (n / w)).map f))

/-- Bytes padded with zeros or cut to a length. -/
def padTo (n : Nat) (b : List Byte) : List Byte := b.take n ++ List.replicate (n - b.length) 0

/-- Rounding up to a multiple. -/
def roundUp (x m : Nat) : Nat := (x + m - 1) / m * m

/-- `maxtag`: the largest of two tags by their codes (R19). -/
def maxTag (a b : Tag) : Tag :=
  match a, b with
  | .clean, b => b
  | .deferred, .clean => .deferred
  | .deferred, b => b
  | .late, .lost => .lost
  | .late, _ => .late
  | .lost, _ => .lost

/-- `maxtag` of a list; clean for none (R83). -/
def maxTags (ts : List Tag) : Tag := ts.foldl maxTag .clean

/-- The code of a tag (R19). -/
def tagCode (t : Tag) : Nat :=
  match t with
  | .clean => 0 | .deferred => 1 | .late => 2 | .lost => 3

/-- The code of a cause (R327). -/
def causeCode (c : Cause) : Nat :=
  match c with
  | .badbundle => 0x01 | .badtarget => 0x02 | .headtarget => 0x03 | .badop => 0x04 | .priv => 0x05 | .align => 0x06
  | .xlate => 0x07 | .prot => 0x08 | .phase => 0x09 | .poisonuse => 0x0A | .contain => 0x0B | .late => 0x0C
  | .scalecount => 0x0D | .seqback => 0x0E | .carve => 0x0F | .engine => 0x10 | .regfill => 0x11 | .slice => 0x12
  | .trap => 0x13 | .logbook => 0x14

/-- The cause of a code; a code that is none stands for ENGINE, which a wait raises for it (R269). -/
def causeOf (n : Nat) : Cause :=
  match n with
  | 0x01 => .badbundle | 0x02 => .badtarget | 0x03 => .headtarget | 0x04 => .badop | 0x05 => .priv | 0x06 => .align
  | 0x07 => .xlate | 0x08 => .prot | 0x09 => .phase | 0x0A => .poisonuse | 0x0B => .contain | 0x0C => .late
  | 0x0D => .scalecount | 0x0E => .seqback | 0x0F => .carve | 0x11 => .regfill | 0x12 => .slice | 0x13 => .trap
  | 0x14 => .logbook | _ => .engine

/-- The code of a notice (R327). -/
def noticeCode (n : Notice) : Nat :=
  match n with
  | .replay => 0x40 | .meridian => 0x41 | .controlw => 0x42

/-- An element of a family of registers, by a number modulo its size. -/
def nth {α : Type} {n : Nat} (v : Vector α (n + 1)) (i : Nat) : α := v.get ⟨i % (n + 1), Nat.mod_lt _ (Nat.succ_pos n)⟩
def setNth {α : Type} {n : Nat} (v : Vector α (n + 1)) (i : Nat) (x : α) : Vector α (n + 1) :=
  v.set (i % (n + 1)) x (Nat.mod_lt _ (Nat.succ_pos n))

end Sys2Proof.Machine
end

