-- ==== Sys2Proof/Config.lean ====
section
/-! DEFINITION. What an installation fixes, and the free values: constants without a body, of which nothing is known. -/

namespace Sys2Proof.Config

/-- A value nothing constrains, drawn at a number that the state counts up (notes/assumptions/4.md). -/
opaque freeBit : Nat → Bool

/-- As `freeBit`, a natural number. -/
opaque freeNat : Nat → Nat

/-- As `freeBit`, a byte: what a lost sector reads as (R345). -/
opaque freeByte : Nat → Byte

/-- Which of the table writes that have not performed at package scope a page walk of a core sees at a count of its clock:
those numbered up to this (R353). -/
opaque walkSees : Fin 1792 → Nat → Nat

/-- A byte of a line that another package owns, or that this package holds no copy of, as a page walk or a device of this
package reads it: by the core at work and its clock, and by the byte's key (R383). -/
opaque ownedByte : Nat → Nat → Byte

/-- The value an approximation of `vspec` offers for an operation code and an operand; it is taken only where it lies
within the bound of R137. -/
opaque vspecRaw : Nat → BitVec 32 → BitVec 32

/-- SHAKE256 of a byte string, taken to a number of bytes (R394, R463, R464). The standard is not restated by the spec. -/
opaque shake256 : List Byte → Nat → List Byte

/-- The Ed448 signature of a message under a private key (R464). -/
opaque ed448Sign : List Byte → List Byte → List Byte

/-- The Ed448 public key of a private key (R464). -/
opaque ed448Public : List Byte → List Byte

/-- Whether a signature verifies under an Ed448 public key over a message (R394, R463). -/
opaque ed448Verify : List Byte → List Byte → List Byte → Bool

/-- A package's half of an X448 exchange, by the number of the exchange (R394). -/
opaque x448Half : Nat → List Byte

/-- The Ed448 identity public key of the package at the other end of a ring port, as certified at manufacture, by its domain
and coordinate (R394, R464). -/
opaque peerIdentity : Nat → Nat → List Byte

/-- The fused 64-byte device secret (R464). -/
opaque deviceSecret : List Byte

/-- The size the grinder compresses an object to, in bytes (R357): not architectural. -/
opaque compressedSize : List Byte → Nat

/-- The stream number of the packets that a command queue of a core sends through a ring port (R396). -/
opaque streamOf : Fin 1792 → Fin 2 → Fin 64

/-- Which cores of the package are absent: none on a DVX-1792, the harvest pattern on a DVX-1728 (R1, R3). -/
def absentAtReset : List (Fin 1792) := []

/-- The domain, the number of domains on the ring, the logical coordinate and the physical position of the package at
reset, which the installation fixes (R372, R374). -/
def domainAtReset : Fin 8 := 0
def domainsAtReset : Fin 9 := 1
def coordAtReset : BitVec 11 := 0
def holdsCoordAtReset : Bool := true
def pxAtReset : BitVec 6 := 0
def pyAtReset : BitVec 6 := 0

/-- The anti-rollback count at reset: the number of blown fuses (R463). -/
def antiRollbackAtReset : Nat := 0

end Sys2Proof.Config
end

