-- ==== Sys2Proof/Machine/State.lean ====
section
/-! DEFINITION. Everything the spec gives the machine, as plain data, and the machine after package reset. -/

namespace Sys2Proof.Machine

/-! ## Stops -/

/-- The faults that end a run. -/
inductive Fault where
  /-- Raised by the step when the core whose cycle comes next is absent from the part (R3): no such core exists to act.
  Safe: a run of the hardware never gives an absent core a cycle. -/
  | absentCore
deriving DecidableEq, Repr

/-- The refusals. -/
inductive Refusal where
  /-- Raised by the dispatch for an instruction without a meaning yet. Safe. -/
  | notModelled (mnemonic : String)
deriving DecidableEq, Repr

/-! ## Registers -/

/-- A value with its poison tag (R19, R83). -/
structure Tagged (w : Nat) where
  val : BitVec w
  tag : Tag
deriving DecidableEq, Repr

/-- One tag per lane group or 16-bit group (R65). -/
abbrev Tags := Vector Tag 8

/-- A vector register or hold latch: 128 lanes of 32 bits, one tag per lane group (R65). -/
structure VReg where
  val  : VecWord
  tags : Tags
deriving DecidableEq, Repr

/-- A mask register: 128 bits, one tag per 16-bit group (R65). -/
structure MReg where
  val  : Quad
  tags : Tags
deriving DecidableEq, Repr

/-- The registers a checkpoint keeps and a rollback puts back (R65, R79). -/
structure Regs where
  s       : Vector (Tagged 64) 64
  v       : Vector VReg 64
  m       : Vector MReg 16
  z       : Vector (Tagged 128) 16
  q       : Vector (Tagged 64) 8
  hg      : Vector Word 16
  hs      : Vector Word 16
  hold    : Vector VReg 2
  dims    : Vector (BitVec 1088) 64     -- dimension records: dir in [1023:0], seed in [1087:1024] (R145, R147)
  round   : Word
  fpflags : Word
  vcls    : Word
  stencil : Vector Word 8
  lvec    : Word
  phase   : Option (BitVec 12)          -- the open phase (R335)
deriving DecidableEq, Repr

def Tags.clean : Tags := Vector.replicate 8 .clean
def VReg.reset : VReg := { val := 0, tags := Tags.clean }
def MReg.reset : MReg := { val := 0, tags := Tags.clean }

/-- The reset values of R65: all 0 and clean, `m0` all ones. -/
def Regs.reset : Regs where
  s := Vector.replicate 64 { val := 0, tag := .clean }
  v := Vector.replicate 64 VReg.reset
  m := (Vector.replicate 16 MReg.reset).set 0 { val := BitVec.allOnes 128, tags := Tags.clean }
  z := Vector.replicate 16 { val := 0, tag := .clean }
  q := Vector.replicate 8 { val := 0, tag := .clean }
  hg := Vector.replicate 16 0
  hs := Vector.replicate 16 0
  hold := Vector.replicate 2 VReg.reset
  dims := Vector.replicate 64 0
  round := 0
  fpflags := 0
  vcls := 0
  stencil := Vector.replicate 8 0
  lvec := 0
  phase := none

/-! ## Results in flight -/

/-- Where and how a result lands (R48, R54). -/
inductive Landing where
  | s (d : Fin 64) (x : Tagged 64)
  | v (d : Fin 64) (x : VReg) (lanes : Quad)       -- bit i: lane i is written
  | m (d : Fin 16) (x : MReg) (bits : Quad)        -- bit i: bit i is written
  | z (d : Fin 16) (x : Tagged 128)
  | q (d : Fin 8) (x : Tagged 64)
  | hold (p : Fin 2) (x : VReg)
  | ctl (n : BitVec 14) (x : Word)                 -- a value written by `mts` (R71, R95)
  | fp (x : BitVec 6)                              -- flags ORed into %fpflags (R95)
  | sig (x : BitVec 32)                            -- set bits (R272)
  | clr (x : BitVec 32)                            -- clears set and error bits, frees watches
  | clrErr (x : BitVec 32)
  | ring (h : Fin 16) (hs : Word)                  -- a new %hs value (R285)
  | bind (h : Fin 16) (hs : Word) (f : Option (Fin 32))  -- a binding; the flag loses its other bindings (R286)
  | watch (j : Fin 4) (wn wt : Word)               -- a watch entry taken (R282)
  | dim (n : Fin 64) (x : BitVec 1088)             -- a dimension entry (R154, R155)
  | seed (n : Fin 64) (x : Word)                   -- the seed of a dimension entry (R154)
  | table (n : Nat) (id : BitVec 16) (l : List (BitVec 13))  -- the core's permutation table (R174)
  | key (x : Word)                                 -- the core's Hadamard key (R174)
  | pathA (n : Nat)                                -- writes on path A numbered below n are complete (R259)
deriving DecidableEq, Repr

/-- One result in flight: how many boundaries of context time are still to come (it lands when none is), and whether
its data has arrived; `rld` marks the result of an `rld`, which never freezes its context (R52, R381). -/
structure InFlight where
  left    : Nat
  landing : Landing
  arrived : Bool
  rld     : Bool
  peer    : Option (Fin 8 × BitVec 11)   -- the package its data comes from, if it is awaited (R398)
deriving DecidableEq, Repr

/-- The pending transfer (R115). The target is kept with all 64 bits, since `jmp` may name one that no translation has. -/
structure Transfer where
  taken  : Bool
  target : Word
  due    : Nat
  src    : BitVec 56       -- the branch bundle's address (R58)
deriving DecidableEq, Repr

/-- An `rld` whose reply is due after its deadline (R381). -/
structure Overdue where
  id : Nat
  d  : Fin 64
  x  : Tagged 64
  peer : Option (Fin 8 × BitVec 11)
  shadow : Bool            -- d is a shadow register of the running handler (R81)
  live : Bool              -- no other result has landed in d since it became late
deriving DecidableEq, Repr

/-- What a checkpoint keeps beside the registers (R79, R281, R320). -/
structure Keep where
  regs     : Regs
  delay    : List InFlight
  overdue  : List Overdue
  transfer : Option Transfer
  ended    : Bool          -- the checkpoint bundle was the third delay bundle of a transfer (R115)
  set      : BitVec 32     -- the flags' set bits at the checkpoint
  wn       : Vector Word 4
  wt       : Vector Word 4
  pc       : BitVec 56     -- where the context resumes
  high     : Byte
  pos      : Nat
  cursor   : Nat
  cameFrom : Option (BitVec 56)   -- a transfer to `pc` whose target is not checked yet (R57)
  pause    : Nat           -- pause cycles still to pass before `pc` issues (R51)
deriving DecidableEq, Repr

/-! ## Flags (R266 to R271) -/

structure Flags where
  set    : BitVec 32
  err    : BitVec 32
  cause  : Vector Byte 32
  errAt  : Vector Nat 32   -- the core cycle each cause was recorded in (R268)
  own    : BitVec 32       -- set bits the context itself changed since the checkpoint (R79)
  engine : BitVec 32       -- flags an engine or a watch set since the checkpoint (R79)
deriving DecidableEq, Repr

def Flags.reset : Flags :=
  { set := 0, err := 0, cause := Vector.replicate 32 0, errAt := Vector.replicate 32 0, own := 0, engine := 0 }

/-! ## Memory operations and commands in progress -/

/-- The six paths (R245). -/
inductive Path where
  | l | c | a | x | n | k
deriving DecidableEq, Repr

/-- A place in memory: a home package, a physical address there, and the weight version it is reached through, if the
leaf is deduplicated (R344, R350, R367). -/
structure Loc where
  home : BitVec 11
  pa   : BitVec 52
  ver  : Option (Fin 8)
deriving DecidableEq, Repr

/-- A piece of a span of memory: where it is and how long. -/
structure Piece where
  va  : BitVec 56
  loc : Loc
  len : Nat
deriving DecidableEq, Repr

/-- One single-copy atomic piece of a store: where, which bytes from the lowest address up, and whether they are lost. -/
structure Lane where
  va    : BitVec 56
  loc   : Loc
  bytes : List Byte
  lost  : Bool
deriving DecidableEq, Repr

/-- What a withheld or released store does when it performs. -/
inductive StoreKind where
  | plain
  | span                   -- `qsave` and `xsst`: each byte is a unit of its own (R249)
  | vamo (fn : Fin 8) (t : VFmt) (step : Byte) (seed : Word)    -- R234, R235
  | counter (far : Bool) (dom : Fin 8) (pkg : BitVec 11) (num : Fin 4096) (add : Word)   -- R279
deriving DecidableEq, Repr

/-- A store of a context on path L or X, from its issue until it performs or is dropped (R252, R261). -/
structure StoreOp where
  id     : Nat             -- program order
  kind   : StoreKind
  lanes  : List Lane
  cls    : Fin 16
  scope  : Fin 8
  path   : Path
  parked : Option Cause    -- the refusal that parked it in the replay queue
  resent : Option Cause    -- the refusal that had parked it, while a retry has it in transit (R262)
  phase  : Option (BitVec 12)   -- the phase it was issued under (R335)
deriving DecidableEq, Repr

/-- Whose an operation is: the slot it was issued from and the task's serial number there (R266). -/
structure Owner where
  ctx    : CtxId
  serial : Nat
deriving DecidableEq, Repr

/-- A C-slot command with the registers it read at issue (R237). -/
structure Command where
  id     : Nat
  instr  : Instr
  queue  : Fin 2
  owner  : Owner
  a      : Word
  b      : Word
  c      : Word
  c1     : Word
  scope  : Fin 8
  sup    : Bool
  ptroot : Word
  team   : Word
  seed   : Word            -- `seed[63]` at issue (R239)
  phase  : Option (BitVec 12)
  det    : Bool            -- deterministic mode was in force (R333)
deriving DecidableEq, Repr

/-- A stash object (R357). `place` is 0 near, 1 far, 2 lossy, 3 drop. -/
structure StashObj where
  stage : Fin 8
  layer : BitVec 16
  tag   : BitVec 32
  place : Fin 4
  size  : Nat
  far   : Nat                            -- the size it has, or would have, in the far pool
  near  : Nat                            -- and in the near pool
  header : BitVec 256                    -- the record it was put with
  lossy : Option (Nat × Nat)             -- mantissa bits and block length of a lossy object (R360)
  data  : List Byte                      -- the bytes put; of a lossy object the encoded rows
  lost  : List Nat                       -- lost 32-byte sectors of the data
deriving DecidableEq, Repr

/-- A command that has moved its bytes and waits for its completion, with its error status (R260, R269). It stays in its
queue until it completes, but for a `crecv`, which leaves it when its window is posted (R377). -/
structure Done where
  cmd     : Command
  err     : Option Cause
  lost    : Bool           -- it made a sector lost (R332)
  outside : Bool           -- its completion, and its status if it has no error yet, come from another package
  dst     : Option (Fin 8 × BitVec 11)   -- the package it waits for
  late    : Option Bool    -- a `cnred`: some chunk of its result passed through a spill (R388)
  began   : Nat            -- what it does was done before the numbers from this on were drawn
  obj     : Option StashObj  -- a put: the object it enters as it completes (R363)
deriving DecidableEq, Repr

/-- A byte an access writes: where, what, and whether it comes from lost data. -/
structure ByteWrite where
  key  : Nat
  val  : Byte
  lost : Bool
deriving DecidableEq, Repr

/-- A row with its pages pinned: its first destination address, its places and those of its source. -/
structure Row where
  va  : BitVec 56
  dst : List Piece
  src : List Piece
  len : Nat
deriving DecidableEq, Repr

/-- What a transformation found as it began: its two tensor records, whether they were lost, and the table entries that it
permutes a row by (R242). -/
structure Xfm where
  src   : BitVec 256
  dst   : BitVec 256
  bad   : Bool
  table : List Nat
deriving DecidableEq, Repr

/-- A copy that moves its rows one after another: those to come, and what it has written (R237, R239, R243). -/
structure Moving where
  cmd  : Command
  rows : List Row
  ws   : List ByteWrite
  xfm  : Option Xfm
deriving DecidableEq, Repr

/-- A write of a byte that some observers need not see yet (R248, R250, R258). The views stand in coherence order. -/
structure View where
  n      : Nat             -- the access that made it: the bytes of one single-copy atomic access share it (R249)
  key    : Nat
  old    : Byte            -- what the byte was before it
  oldLost : Bool           -- and whether its sector was lost then
  owner  : Owner
  path   : Option Path     -- none: a register spill, which belongs to no path (R245)
  cmd    : Option Nat      -- the engine command that made it; none for the context's own stores
  cls    : Fin 16
  scope  : Fin 8           -- observers within this scope of the writer see it, but as R250 excepts
  reach  : List (Fin 1792 × Fin 8)   -- the releases that took it further: the releaser's core and their scope (R254)
  lost   : Bool            -- it came from lost data
  done   : Bool            -- complete to the context (R259)
  seen   : List (Nat × Path)     -- observers, by serial number, that have seen it and so may not go back
deriving DecidableEq, Repr

/-- The walk position of a routine (R215). -/
structure Routine where
  pc   : Nat
  val  : Vector Nat 4
  idle : Vector Bool 4
  first : Nat              -- the numbers of its operations are drawn from this on
deriving DecidableEq, Repr

/-- An operation of the mirror queue (R197), with what it read at issue: q registers, ring handles, and the places of its
memory operand, translated and pinned (R203). -/
structure MirrorOp where
  instr   : Instr
  q       : Vector Word 8
  hg      : Vector Word 16
  hs      : Vector Word 16
  places  : List Piece
  scope   : Fin 8
  sup     : Bool
  ptroot  : Word
  owner   : Owner
  phase   : Option (BitVec 12)
  routine : Option Routine
  row     : Nat            -- the rows done of the operation, or of the routine's step (R312)
  id      : Nat            -- numbers its writes once it has begun
deriving DecidableEq, Repr

/-- What a flag completion that has not been applied yet completes. -/
inductive DueKind where
  | load (a : Fin 16)      -- an `mlds` of an array
  | drain
  | routine
  | block                  -- a load block
deriving DecidableEq, Repr

/-- A flag completion of the mirror or of a load block that has not been applied yet; `id` is the last number of the
operation's writes. -/
structure FlagDue where
  owner : Owner
  flag  : Fin 32
  err   : Option Cause
  what  : DueKind
  first : Nat              -- the lowest of these numbers: the operations of a routine have several
  id    : Nat
deriving DecidableEq, Repr

/-! ## Contexts -/

/-- A register that the register window names (R227). -/
inductive WinReg where
  | v (n : Fin 64) | s (n : Fin 64) | m (n : Fin 16) | z (n : Fin 16) | q (n : Fin 8) | none
deriving DecidableEq, Repr

/-- Bytes that a copy has written into a register through the window, from an offset in it on, each with whether its
source was lost: they take effect at the context's next boundary (R49, R227). -/
structure WinWrite where
  cmd  : Nat             -- the copy
  reg  : WinReg
  off  : Nat
  data : List (Byte × Bool)
deriving DecidableEq, Repr

/-- A failed translation: its cause and the underlying one a record's sub names (R325, R351). -/
structure XFail where
  cause : Cause
  sub   : Byte
deriving DecidableEq, Repr

/-- The page walk that a context's next bundle is held for, and how it has failed, if it has (R352). -/
structure Walk where
  va      : BitVec 56
  ptroot  : Word
  spec    : Option (Bool × Nat)  -- a speculative load's: its privilege and size; one that forbids it installs nothing (R116)
  n       : Nat            -- a number drawn as it started
  running : Bool           -- it has one of the 64 places of its die's walker
  failed  : Option XFail
deriving DecidableEq, Repr

/-- Why a checkpoint is forced (R323). -/
inductive Forced where
  | full | sync | pre
deriving DecidableEq, Repr

/-- A checkpoint whose release waits for room (R320): that of a bundle, which may have been the third delay bundle of a
transfer, or a forced one; that of a `trap`, whose record follows it (R328). -/
inductive Releasing where
  | bundle (ended : Bool)
  | trap (ended : Bool) (n : BitVec 14) (src : BitVec 56)
  | forced (f : Forced)
deriving DecidableEq, Repr

/-- What a slot holds and what it is doing (R44, R321, R326). -/
inductive Status where
  | empty                  -- no context resident
  | running
  | faulting               -- rolled back; its fault record is not written yet
  | halted
  | retiring               -- its `retire` has committed and it drains (R304)
deriving DecidableEq, Repr

/-- The key of a tile task: its instance, node and tile (R295, R298). -/
structure TaskKey where
  inst : Nat
  node : Fin 16
  x    : Byte
  y    : Byte
deriving DecidableEq, Repr

/-- A checkpoint switch that has been decided (R313): the core cycle of the decision, and whether the context has come to a
checkpoint since. -/
structure Evict where
  since   : Nat
  reached : Bool
deriving DecidableEq, Repr

/-- The resident task (R293, R295, R296). -/
structure Task where
  key     : TaskKey
  tag     : BitVec 32
  prio    : Fin 128
  head    : BitVec 56
  cycles  : BitVec 32
  pol     : Fin 4
  quart   : BitVec 4
  elapsed : Nat
  counted : Bool           -- counted in %tstat.over already
  det     : Fin 4          -- deterministic mode in force (R333)
  start   : Nat            -- logbook index of its START entry (R337)
deriving DecidableEq, Repr

/-- The supervisor-written registers of a slot (R270, R290, R322, R347). -/
structure SlotRegs where
  regbase  : Word
  regspill : Word
  regfill  : Word
  swcost   : Word
  mquart   : Word
  uictl    : Word
  uistat   : Word
  seqwin   : Word
  team     : Word
  tpool    : Word
  tstat    : Word
  ckstat   : Word          -- full, sync and pre counters; cmd and held are computed
  lostw    : Bool          -- %fctl.lostw (R332)
  lstat    : Word
  detctl   : Word
  phbase   : Word
  lbbase   : Word
  lbpos    : Word
  trctl    : Word
  trpos    : Word
  ptroot   : Word
  tlbstat  : Word
  refused  : BitVec 32     -- %rqstat.refused (R262)
  nrlr     : Word          -- %nrlr: saved with the task, not kept (R79)
deriving DecidableEq, Repr

def SlotRegs.reset : SlotRegs :=
  { regbase := 0, regspill := 0, regfill := 0, swcost := 0, mquart := 0, uictl := 0, uistat := 0, seqwin := 0, team := 0,
    tpool := 0, tstat := 0, ckstat := 0, lostw := false, lstat := 0, detctl := 0, phbase := 0, lbbase := 0, lbpos := 0,
    trctl := 0, trpos := 0, ptroot := 0, tlbstat := 0, refused := 0, nrlr := 0 }

/-- The debug trace's pending words (R341). -/
structure TraceState where
  outcomes : List Bool     -- pending branch outcomes, oldest first
  stall    : Nat           -- core cycles lost since the last issue
  reason   : Fin 4         -- reason of the first of them
deriving DecidableEq, Repr

/-- A context slot and the context in it. -/
structure Ctx where
  status   : Status
  serial   : Nat           -- which context this is, for completions (R266)
  sup      : Bool
  pc       : BitVec 56
  high     : Byte          -- bits [63:56] of a transfer's target: an address that no translation has (R112)
  checked  : Bool          -- the target check of `pc` has passed or is not due (R57)
  cameFrom : Option (BitVec 56)   -- a transfer made to `pc` whose target is not checked yet: the branch bundle
  regs     : Regs
  delay    : List InFlight
  transfer : Option Transfer
  flags    : Flags
  wn       : Vector Word 4
  wt       : Vector Word 4
  keep     : Keep
  wrote    : BitVec 104    -- the scalar, mask, scale and matrix registers written since the checkpoint (R79)
  winWrites : List WinWrite
  releasing : Option Releasing   -- held at the boundary until its release is done (R320)
  walk     : Option Walk
  refusal  : Option Cause  -- the home's refusal of the atomic that the context is to issue (R255)
  atCkpt   : Bool          -- the bundle before was a checkpoint bundle, or the context has just started (R319)
  pause    : Nat
  cycles   : Nat           -- context cycle count (R48)
  pos      : Nat           -- position (R320)
  slice    : Nat           -- core cycles since the start or resumption (R311)
  withheld : List StoreOp
  commands : List Command
  released : List StoreOp  -- in transit or parked, program order (R261)
  ordered  : Vector Nat 16 -- by class: its later path-L loads perform after the writes numbered below this (R251, R254)
  overdue  : List Overdue
  mqueue   : List MirrorOp
  mmode    : BitVec 11     -- the `mmode` slot bits [27:17] (R187, R200)
  mflags   : Byte          -- mirror flags in the positions of `mstat` (R211)
  mpasses  : Nat
  pend     : List (Fin 8 × Nat)  -- pending interrupts in the order they were set, with the core cycle (R275)
  served   : BitVec 8      -- interrupts whose handlers started after the checkpoint (R276)
  cursor   : Nat           -- logbook cursor (R337)
  carveWord : Option (Word × Bool)  -- the word of the `carve` it is held at; true for an `mts` to %carve (R221)
  carveOld : Option Word   -- a `carve` whose barrier has passed: the old word (R221)
  lateHeld : Option Bool   -- held by a late operand, its trap counted; true where a handler may run for it (R329, R337)
  evict    : Option Evict  -- chosen for a checkpoint switch (R313)
  deferTo  : Option Nat    -- its switch deferred until its slice reaches this (R311)
  task     : Option Task
  reg      : SlotRegs
  trace    : TraceState
  resume   : Option (BitVec 512)   -- the record that halted it
  reloadErr : Option (Cause × Nat) -- a reload that failed at resumption (R200)
  rephase  : Bool          -- the open phase is registered again before the next bundle (R335)
deriving DecidableEq, Repr

def Keep.reset : Keep :=
  { regs := Regs.reset, delay := [], overdue := [], transfer := none, ended := false, set := 0, wn := Vector.replicate 4 0, wt := Vector.replicate 4 0,
    pc := 0, high := 0, pos := 0, cursor := 1, cameFrom := none, pause := 0 }

/-- A slot without a context (R65, R72). -/
def Ctx.reset : Ctx :=
  { status := .empty, serial := 0, sup := false, pc := 0, high := 0, checked := true, cameFrom := none, regs := Regs.reset, delay := [],
    transfer := none, flags := Flags.reset, wn := Vector.replicate 4 0, wt := Vector.replicate 4 0, keep := Keep.reset,
    wrote := 0, winWrites := [], releasing := none, walk := none, refusal := none, atCkpt := true, pause := 0, cycles := 0, pos := 0, slice := 0, withheld := [], commands := [], released := [], ordered := Vector.replicate 16 0,
    overdue := [], mqueue := [], mmode := 0, mflags := 0, mpasses := 0, pend := [], served := 0, cursor := 1,
    carveWord := none, carveOld := none, lateHeld := none, evict := none, deferTo := none, task := none, reg := SlotRegs.reset,
    trace := { outcomes := [], stall := 0, reason := 0 }, resume := none, reloadErr := none,
    rephase := false }

/-! ## Cores -/

/-- A running handler on the handler bank (R81, R275, R329). -/
structure Bank where
  slot     : Fin 2
  late     : Bool          -- the late handler rather than a user interrupt's
  shadow   : Vector (Tagged 64) 16
  pc       : BitVec 56
  high     : Byte
  checked  : Bool
  cameFrom : Option (BitVec 56)
  delay    : List InFlight
  transfer : Option Transfer
  pause    : Nat
deriving DecidableEq, Repr

/-- A vector register or keep copy that holds a slot of the register share, or is spilled (R73 to R77). -/
structure VSlot where
  slot : Fin 2
  reg  : Fin 64
  keep : Bool
  back : Bool              -- a spilled register put back by a rollback: its content is the spilled keep copy (R76, R80)
deriving DecidableEq, Repr

/-- What writes have replaced: bytes by key, and the lost tags of their sectors by key / 32. -/
structure Undo where
  bytes : List (Nat × Byte)
  tags  : List (Nat × Bool)
deriving DecidableEq, Repr

def Undo.none : Undo := { bytes := [], tags := [] }

/-- A line of the L1 (R229). `undo` holds what the home has of the line's dirty bytes. -/
structure L1Line where
  line  : Nat              -- memory key / 128
  way   : Fin 16
  rrpv  : Nat
  block : Option Nat
  dirty : Bool
  undo  : Undo
deriving DecidableEq, Repr

/-- A load block (R230). -/
structure Block where
  id    : Nat
  due   : Option FlagDue   -- its completion, until applied
  lines : List Nat         -- none once it has been evicted
deriving DecidableEq, Repr

/-- A TLB entry: one leaf and the asid of its walk (R352), with its pin count in the cluster TLB (R355). -/
structure TlbEntry where
  asid  : BitVec 16
  page  : Nat              -- virtual address / 2^16 of the page's first byte
  level : Fin 3
  leaf  : Word
  pins  : Nat
deriving DecidableEq, Repr

/-- A plane of a segment, beside its cells (R183, R194, R200). -/
structure Plane where
  mode   : Option (BitVec 11)      -- the mode it was loaded under
  record : BitVec 128              -- source record
  status : List (Nat × Byte)       -- status byte of (column · 64 + block), in the bit positions of R194
deriving DecidableEq, Repr

/-- A segment: its place in its array, its planes and its last load (R185, R206). -/
structure Segment where
  first  : Fin 16
  grc    : Fin 4
  gcc    : Fin 4
  sel    : Bool                    -- which physical plane is live
  live   : Plane
  shadow : Plane
  err    : Option Cause            -- the last load's error status
deriving DecidableEq, Repr

/-- An eyepiece: its record's bytes, and the source record (R183, R207). -/
structure Eyepiece where
  data   : List Byte
  lost   : Bool
  record : BitVec 128
deriving DecidableEq, Repr

/-- The registers the shutter latches for a slot (R467). -/
structure SnapSlot where
  pc       : BitVec 56
  pos      : Nat
  cycles   : Nat
  flags    : Word
  s        : Vector (Tagged 64) 64
  transfer : Option Transfer
deriving DecidableEq, Repr

structure Core where
  ctx      : Vector Ctx 2
  streak   : Nat
  clock    : Word
  bank     : Option Bank
  queue    : Vector (List Command) 2
  moving   : List Moving
  done     : List Done
  flagsDue : List FlagDue
  cqdone   : Word
  carve    : Vector Word 2         -- the carve word of the logical core that owns each slot (R219, R220)
  ldhint   : Word
  l1acc    : Word
  l1miss   : Word
  l1wb     : Word
  blkev    : Word
  l1       : List L1Line
  blocks   : List Block
  claims   : Vector (List Nat) 2   -- claimed STARTs of the logbook stream reached through each slot (R337)
  vslots   : List VSlot            -- least recently named first
  spilled  : List VSlot
  seg      : Vector Segment 16
  eye      : Vector Eyepiece 8
  tblLen   : Nat                   -- table store (R173)
  tblId    : BitVec 16
  tbl      : List (BitVec 13)
  key      : Word
  tlb      : List TlbEntry
  corrected : BitVec 32
  snapClock : Word
  snap     : Option (Vector SnapSlot 2)
deriving DecidableEq, Repr

def Plane.reset : Plane := { mode := none, record := 0, status := [] }
def Segment.reset (n : Fin 16) : Segment :=
  { first := n, grc := 0, gcc := 0, sel := false, live := Plane.reset, shadow := Plane.reset, err := none }
def Eyepiece.reset : Eyepiece := { data := [], lost := false, record := 0 }

/-- The carve word at reset: 4 register, 20 cache and 8 scratchpad granules (R217, R218). -/
def carveReset : Word := BitVec.ofNat 64 (8 * 2 ^ 16 + 20 * 2 ^ 8 + 4)

/-- Every vector register of both contexts stands in a slot at reset: the share has room for all 128. -/
def vslotsReset : List VSlot :=
  ((List.finRange 64).map fun r => { slot := 0, reg := r, keep := false, back := false }) ++
    (List.finRange 64).map fun r => { slot := 1, reg := r, keep := false, back := false }

/-- A core after package reset (R72, R173, R184, R217). -/
def Core.reset : Core where
  ctx := Vector.replicate 2 Ctx.reset
  streak := 0
  clock := 0
  bank := none
  queue := Vector.replicate 2 []
  moving := []
  done := []
  flagsDue := []
  cqdone := 0
  carve := Vector.replicate 2 carveReset
  ldhint := 0
  l1acc := 0
  l1miss := 0
  l1wb := 0
  blkev := 0
  l1 := []
  blocks := []
  claims := Vector.replicate 2 []
  vslots := vslotsReset
  spilled := []
  seg := Vector.ofFn Segment.reset
  eye := Vector.replicate 8 Eyepiece.reset
  tblLen := 0
  tblId := 0xFFFF
  tbl := []
  key := 0
  tlb := []
  corrected := 0
  snapClock := 0
  snap := none

/-! ## Tasks, graphs, meridians (R288 to R315) -/

/-- A node of a graph with the descriptor values `launch` copied (R293, R300). -/
structure Node where
  head    : BitVec 56
  after   : Bool
  w       : Nat
  h       : Nat
  cycles  : BitVec 32
  quart   : BitVec 4
  pol     : Fin 4
  sup     : Bool
  stencil : BitVec 24
  needs   : List (Bool × Nat × Word)     -- tag-relative, absolute counter, threshold
deriving DecidableEq, Repr

/-- An engine command or mirror operation whose flag has completed and that no wait of its context has named (R259). -/
structure Finished where
  owner : Owner
  flag  : Fin 32
  first : Nat              -- the numbers of its writes: from this on
  id    : Nat              -- to this
deriving DecidableEq, Repr

/-- A graph instance in flight (R298, R302). -/
structure Inst where
  id      : Nat
  team    : Word
  seqwin  : Word
  tag     : BitVec 32
  prio    : Fin 128
  tokens  : Nat
  arg     : Word
  ccnt    : Nat
  nodes   : List Node
  retired : List (Fin 16 × Byte × Byte)  -- scoreboards: node, x, y
  started : List (Fin 16 × Byte × Byte)  -- tiles started and not returned to the ready set
  killed  : List ((Fin 16 × Byte × Byte) × Nat)   -- killed tiles, with the serial number of the killed run (R312)
  met     : List (Fin 16 × Nat)          -- needs met before a counter was rewound: node and entry (R460)
  origin  : Option (Fin 8 × Fin 3)       -- the meridian and queue that launched it
deriving DecidableEq, Repr

/-- A task switched out: its whole context, its accumulators, and the completions held for it (R266, R313). -/
structure Saved where
  key    : TaskKey
  ctx    : Ctx
  acc    : List (Nat × Byte)             -- owned accumulator bytes, record areas included
  segs   : List (Fin 16 × Segment)
  eyes   : List (Fin 8 × Eyepiece)
  frame  : Nat
  pool   : Word
  halted : Bool
  due    : List (Fin 32 × Option Cause)
  log    : Fin 1792                      -- its logical core
  place  : CtxId                         -- the slot it left
  image  : List Host.Cell                -- what memory held in its frame when it was saved (R314)
deriving DecidableEq, Repr

structure Meridian where
  pol    : Vector Word 32
  gr     : Vector Word 16
  ctl    : Word
  queue  : Vector (List (BitVec 32 × Word)) 3
  wauto  : List (BitVec 32 × Word)       -- automatic W entries that wait for room
  infl   : Nat
  owner  : Option CtxId                  -- the slot that last wrote %mctl
deriving DecidableEq, Repr

def Meridian.reset : Meridian :=
  { pol := Vector.replicate 32 0, gr := Vector.replicate 16 0, ctl := 0, queue := Vector.replicate 3 [], wauto := [],
    infl := 0, owner := none }

/-- A range registered by an opened phase (R335). -/
structure Registered where
  owner : Owner
  id    : BitVec 12
  path  : Path
  write : Bool
  range : Word
deriving DecidableEq, Repr

/-- A record waiting to be written to the record queue; `ctx` is the context it halts, if any, and while that context's
mirror queue is not empty the record has not arisen yet (R321, R324). -/
structure WaitingRecord where
  record : BitVec 512
  ctx    : Option CtxId
deriving DecidableEq, Repr

/-! ## Ports (R371 to R400) -/

/-- A posted receive window (R377). -/
structure Window where
  cmd    : Command
  places : List Piece
  len    : Nat
  fill   : Nat
  lost   : Bool                          -- it has received lost bytes
deriving DecidableEq, Repr

/-- A message that waits for a window of its channel (R377). -/
structure HeldMsg where
  ch   : Fin 256
  tag  : BitVec 32
  data : List (Byte × Bool)
deriving DecidableEq, Repr

/-- An arrival held at a full queue of a meridian (R306), with the command of this package that waits for it (R378). -/
structure HeldEntry where
  stage : Fin 8
  queue : Fin 3
  tag   : BitVec 32
  arg   : Word
  cmd   : Option Nat
deriving DecidableEq, Repr

structure Port where
  lanes    : BitVec 8                    -- lanes running
  isolated : Bool
  epoch    : Nat
  keys     : List (Nat × List Byte)      -- the keys it holds, by epoch, newest first
  counter  : Nat                         -- next frame counter
  rxEpoch  : Nat
  rxNext   : Nat                         -- next frame counter expected
  bound    : BitVec 16
  badtag   : BitVec 16
  replay   : BitVec 16
  longHaul : Bool
  half     : List Byte                   -- its last half of an exchange, and its signature (R394)
  halfSig  : List Byte
deriving DecidableEq, Repr

def Port.reset : Port :=
  { lanes := 0xFF, isolated := false, epoch := 0, keys := [], counter := 0, rxEpoch := 0,
    rxNext := 0, bound := 0, badtag := 0, replay := 0, longHaul := false, half := [], halfSig := [] }

/-- A packet sent and not acknowledged (R396). -/
structure Packet where
  dst    : BitVec 14
  stream : Fin 64
  seq    : BitVec 32
  data   : Payload
  sends  : Nat
  cmd    : Option Nat                    -- the command that sent it
deriving DecidableEq, Repr

/-- A watch on a counter of this package that a package of another domain has asked for (R282, R396). -/
structure Asked where
  src    : BitVec 14
  stream : Fin 64
  num    : Fin 4096
  thr    : Word
deriving DecidableEq, Repr

/-- A deduplication window (R396): the base and the applied numbers above it. -/
structure Dedup where
  src    : BitVec 14
  stream : Fin 64
  base   : BitVec 32
  above  : List (BitVec 32)
deriving DecidableEq, Repr

/-- The states of a fabric directory entry (R382). -/
inductive DirState where
  | i | s | e | m | o
deriving DecidableEq, Repr

structure DirEntry where
  line   : Nat
  state  : DirState
  owner  : BitVec 11
  exact  : BitVec 16
  coarse : BitVec 64
  waitAck : List (BitVec 11)             -- acknowledgments due for an ownership request
  newOwner : Option (BitVec 11)
  told   : Bool                          -- memory here holds an O owner's bytes
deriving DecidableEq, Repr

/-- A copy of a remote line that this package holds (R379, R383). -/
structure RemoteCopy where
  home  : BitVec 11
  line  : Nat
  state : DirState
deriving DecidableEq, Repr

/-- A 4 KiB chunk of a contribution to a reduction that has arrived (R388). -/
structure Contribution where
  chunk : Nat
  rank  : Fin 32
  fits  : Bool                           -- it gives the same n, fmt, root and group version (R389)
  lost  : Bool
  data  : List Byte
deriving DecidableEq, Repr

/-- An in-network reduction this package takes part in (R386 to R388), with the places of its result where this package
receives it. -/
structure Reduction where
  cmd     : Command
  members : List (BitVec 11)
  places  : Option (List Piece)
  chunks  : List Contribution
  spilled : List Nat                     -- chunks that passed through a spill
deriving DecidableEq, Repr

/-- A ring step whose send has been made and whose receive has not been applied (R391, R392): the pieces of its data and
of its wire area. -/
structure RingStep where
  cmd  : Command
  data : List Piece
  wire : List Piece
  lost : Bool                            -- it has made a sector lost
deriving DecidableEq, Repr

/-- An arrival held at the port for a step that has not begun (R392). -/
structure RingArrival where
  id   : BitVec 16
  kind : Fin 4
  step : Fin 8
  n    : BitVec 27
  lost : Bool
  data : List Byte
deriving DecidableEq, Repr

structure Fabric where
  dom      : Fin 8
  ndom     : Fin 9
  coord    : BitVec 11
  lv       : Bool
  px       : BitVec 6
  py       : BitVec 6
  chbase   : Word
  peer     : Vector Word 4
  nrdl     : Word
  e2et     : Word
  dup      : BitVec 32
  decl     : BitVec 16
  dp       : List (Fin 8 × BitVec 11)    -- newest first
  dead     : List (Fin 8 × BitVec 11)
  port     : Vector Port 6               -- X+, X−, Y+, Y−, D+, D−
  windows  : List (Fin 256 × Window)     -- oldest first
  heldMsgs : List HeldMsg
  heldEntries : List HeldEntry
  dir      : List DirEntry
  copies   : List RemoteCopy
  groups   : List (Nat × BitVec 512)     -- group table entries that are not zero
  relabel  : List ((Fin 64 × Fin 32) × Fin 33)   -- entries that differ from the identity
  spares   : List (Fin 64 × Fin 32)      -- coordinates moved to their row's spare
  reductions : List Reduction
  early    : List (BitVec 10 × BitVec 16 × Contribution)  -- contributions to a reduction not begun here: group, number
  earlySpills : List (BitVec 10 × BitVec 16 × Nat)         -- and chunks of one that have passed through a spill
  begun    : List ((BitVec 10 × BitVec 16 × Nat) × Nat)   -- chunks by the governor interval in which a first contribution came
  ticks    : Nat                         -- the governor's 10 µs intervals (R469)
  rings    : List RingStep
  arrivals : List RingArrival
  inbox    : List RingArrival            -- ring records in packets that have been applied (R396)
  sent     : List Packet
  nextSeq  : List (BitVec 14 × Fin 64 × BitVec 32)
  dedup    : List Dedup
  asked    : List Asked
deriving DecidableEq, Repr

def Fabric.reset : Fabric where
  dom := Config.domainAtReset
  ndom := Config.domainsAtReset
  coord := Config.coordAtReset
  lv := Config.holdsCoordAtReset
  px := Config.pxAtReset
  py := Config.pyAtReset
  chbase := 0
  peer := Vector.replicate 4 0
  nrdl := 50
  e2et := 0
  dup := 0
  decl := 0
  dp := []
  dead := []
  port := Vector.replicate 6 Port.reset
  windows := []
  heldMsgs := []
  heldEntries := []
  dir := []
  copies := []
  groups := []
  relabel := []
  spares := []
  reductions := []
  early := []
  earlySpills := []
  begun := []
  ticks := 0
  rings := []
  arrivals := []
  inbox := []
  sent := []
  nextSeq := []
  dedup := []
  asked := []

/-! ## Management (R457 to R470) -/

/-- A corrected-error window (R465): the errors counted in it, and its threshold. -/
structure EccWindow where
  window    : Nat                        -- seconds
  threshold : Nat
deriving DecidableEq, Repr

/-- A shutter that has fired: the core that was at work, its clock at the latch, 64 cycles on, and the halt that the firing
arming asked for (R466). -/
structure Firing where
  core : Fin 1792
  due  : Nat
  halt : Bool
deriving DecidableEq, Repr

/-- The shutter (R466). -/
structure Shutter where
  word  : Word
  armed : Bool
  fired : List Firing                    -- firings whose latch is still to come, oldest first
  halt  : Bool                           -- a halt in force
deriving DecidableEq, Repr

structure Mgmt where
  boot     : Word
  nonce    : Word
  lease    : BitVec 32
  epoch    : BitVec 16
  refused  : BitVec 14
  owner    : Option Master
  lastOwner : Option Master
  shutter  : Shutter
  plim     : Word
  limit    : Nat                         -- limit in force
  coolant  : Bool                        -- the coolant condition of R470 holds
  clk      : Word
  step     : Nat                         -- clock step in force (R469)
  watts    : Nat
  mwatts   : Nat
  junction : Nat
  inlet    : Nat
  flow     : Nat
  duty     : BitVec 7
  evt      : Word
  mgErrors : Nat                         -- refused management requests (R457)
  lostReads : Nat
  meas     : Vector (BitVec 512) 8
  rollback : Nat
  rootKey  : BitVec 512                  -- the fused digest of the root key (R463)
  cert     : List Byte                   -- the certificate of the attestation key (R464)
  opKey    : BitVec 512
  opSeq    : Option Word                 -- highest sequence number accepted since boot
  open_    : Bool                        -- the management space accepts writes (R462)
  reserve  : List (Nat × Nat)            -- memory the control complex has carved out for itself: base, size (R344)
  windows  : List (EccKind × EccWindow)
  counts   : List (EccUnit × Nat)
  harvest  : List (Fin 1792)
  disabled : List EccUnit
  trip     : Bool
  railsOff : Bool
  quotes   : List (List Byte)            -- quotes answered, newest first
  replies  : List Word                   -- values read through the management port, newest first
deriving DecidableEq, Repr

def eccDefaults : List (EccKind × EccWindow) :=
  [(.hbm, { window := 86400, threshold := 16 }), (.lpddr, { window := 86400, threshold := 16 }),
   (.l2, { window := 3600, threshold := 4 }), (.local, { window := 3600, threshold := 4 }),
   (.lane, { window := 1, threshold := 64 })]

def Mgmt.reset : Mgmt where
  boot := 0
  nonce := 0
  lease := 0
  epoch := 0
  refused := 0
  owner := none
  lastOwner := none
  shutter := { word := 0, armed := false, fired := [], halt := false }
  plim := 2400
  limit := 2400
  coolant := false
  clk := 12
  step := 12
  watts := 0
  mwatts := 0
  junction := 0
  inlet := 0
  flow := 0
  duty := 64
  evt := 0
  mgErrors := 0
  lostReads := 0
  meas := Vector.replicate 8 0
  rollback := Config.antiRollbackAtReset
  rootKey := 0
  cert := []
  opKey := 0
  opSeq := none
  open_ := false
  reserve := []
  windows := eccDefaults
  counts := []
  harvest := []
  disabled := []
  trip := false
  railsOff := false
  quotes := []
  replies := []

/-! ## The package -/

/-- Why an instruction did not commit, with what the fault record says of it (R325). -/
structure Info where
  addr   : BitVec 56
  flag   : Option (Fin 32)
  sub    : Byte
  detail : BitVec 14
  src    : Option (BitVec 56)            -- the address recorded, where it is not the bundle's
  looked : List (BitVec 56)              -- addresses it looked up, whose misses %tlbstat counts all the same (R352)
deriving DecidableEq, Repr

/-- What keeps a bundle from committing (R18, R50, R85, R117). -/
inductive Stop where
  | raise (c : Cause) (i : Info)
  | late (cls : Fin 4) (grp : Fin 8) (reg : Fin 64)   -- in-place trap, with the first late operand (R329)
  | redirect (target : BitVec 56)                     -- `chk` (R117)
  | hold                                              -- held before issue, nothing changed
  | walk (va : BitVec 56) (spec : Option Nat)         -- held before issue until a page walk ends, of a speculative load of a size or none (R352)
  | barrier (w : Word) (alone : Bool)                 -- held at a `carve` barrier with a word (R221)
  | claim (line : Nat)                                -- held before issue until this package owns a line (R232, R383)
  | faults (l : List (CtxId × Cause × Info))          -- a barrier that fails raises in every member (R221)
deriving DecidableEq, Repr

/-- A store that has performed on core control and acts at the next boundary there (R228). -/
structure CtlWrite where
  core   : Fin 1792
  off    : BitVec 22
  val    : Word
  writer : Writer
deriving DecidableEq, Repr

/-- Which context an instruction acts for, in which slot of its bundle, and the bundle's scope and address (the model's
own field: notes/assumptions/3.md). -/
structure Cursor where
  core  : Fin 1792
  slot  : Fin 2
  pos   : SlotPos
  scope : Fin 8
  addr  : BitVec 56
deriving DecidableEq, Repr

/-- The core whose cycle comes, whether its idle units do a piece of work in it, and the addresses of the package's memory that
the control complex reads before it (the model's own: notes/assumptions/3.md). -/
structure Turn where
  core  : Fin 1792
  work  : Bool
  reads : List (BitVec 52)
deriving DecidableEq, Repr

structure State where
  cores     : List (Fin 1792 × Core)     -- cores that differ from `Core.reset`
  absent    : List (Fin 1792)            -- physical cores the part lacks (R3)
  leftOut   : List (Fin 1792)            -- harvested cores left out of the remap table at boot (R465)
  remap     : List (Fin 1792 × Byte)     -- remap entries the control complex wrote (R288)
  mem       : List Host.Cell
  lost      : List Nat                   -- lost sectors, by memory key / 32, rising
  damaged   : List Nat                   -- lost sectors whose bytes are not known (R345)
  views     : List View
  l2        : List (Nat × Undo)          -- lines dirty in the home's L2, with what the memory cells have of them (R356)
  ctlb      : List (Fin 28 × TlbEntry)   -- cluster TLBs, newest first
  phases    : List (Fin 28 × Registered)
  counters  : List (Fin 4096 × Word)     -- sequence counters that are not 0
  frq       : Word
  frTail    : BitVec 32
  frHead    : BitVec 32
  waiting   : List WaitingRecord
  insts     : List Inst
  saved     : List Saved
  meridian  : Vector Meridian 8
  stbud     : Vector Word 8
  stpf      : Vector Word 8
  stash     : List StashObj
  prefetch  : List (Fin 8 × BitVec 16 × BitVec 32)   -- prefetches entered at the engine (R365)
  vrb       : Vector Word 8
  vpool     : Word
  priv      : List (Fin 8 × Fin 8 × Nat) -- private lines: stage, version, line (memory key / 128)
  finished  : List Finished
  ctlWrites : List CtlWrite
  flush     : List Nat                   -- counters whose increments wait for a release flush (R264)
  fabric    : Fabric
  mgmt      : Mgmt
  nextId    : Nat                        -- numbers given to operations and contexts
  -- the model's own
  cur       : Cursor
  agenda    : List Instr
  turns     : List Turn
  free      : Nat
  raised    : Option Stop
deriving DecidableEq, Repr

/-- The machine after package reset (R65, R72), its memory with nothing listed; what the spec states no value for is
in notes/assumptions/2.md. -/
def State.reset : State where
  cores := []
  absent := Config.absentAtReset
  leftOut := []
  remap := []
  mem := []
  lost := []
  damaged := []
  views := []
  l2 := []
  ctlb := []
  phases := []
  counters := []
  frq := 0
  frTail := 0
  frHead := 0
  waiting := []
  insts := []
  saved := []
  meridian := Vector.replicate 8 Meridian.reset
  stbud := Vector.replicate 8 0
  stpf := Vector.replicate 8 0
  stash := []
  prefetch := []
  vrb := Vector.replicate 8 0
  vpool := 0
  priv := []
  finished := []
  ctlWrites := []
  flush := []
  fabric := Fabric.reset
  mgmt := Mgmt.reset
  nextId := 1
  cur := { core := 0, slot := 0, pos := .s, scope := 0, addr := 0 }
  agenda := []
  turns := []
  free := 0
  raised := none

end Sys2Proof.Machine
end

