-- ==== Sys2Proof/Machine/Access.lean ====
section
/-! DEFINITION. The named reads and writes of cores, contexts and registers: the one place where a hard-wired register
reads as the spec says and a discarded write is discarded (R66), and where a handler's shadow registers stand in (R81). -/

namespace Sys2Proof.Machine

/-! ## Cores and contexts -/

/-- The cores that differ from a core after reset, with one more. -/
def putCore (l : List (Fin 1792 × Core)) (c : Fin 1792) (k : Core) : List (Fin 1792 × Core) :=
  match l with
  | [] => [(c, k)]
  | (d, x) :: l => if d = c then (c, k) :: l else if c < d then (c, k) :: (d, x) :: l else (d, x) :: putCore l c k

def getCore (l : List (Fin 1792 × Core)) (c : Fin 1792) : Core :=
  match l with
  | [] => Core.reset
  | (d, x) :: l => if d = c then x else getCore l c

def State.core (s : State) (c : Fin 1792) : Core := getCore s.cores c
def State.setCore (s : State) (c : Fin 1792) (k : Core) : State := { s with cores := putCore s.cores c k }
def State.modCore (s : State) (c : Fin 1792) (f : Core → Core) : State := s.setCore c (f (s.core c))

def State.ctx (s : State) (x : CtxId) : Ctx := (s.core x.core).ctx.get x.slot
def State.setCtx (s : State) (x : CtxId) (c : Ctx) : State :=
  s.modCore x.core fun k => { k with ctx := k.ctx.set x.slot c }
def State.modCtx (s : State) (x : CtxId) (f : Ctx → Ctx) : State := s.setCtx x (f (s.ctx x))

/-- The context an instruction acts for. -/
def Cursor.ctx (c : Cursor) : CtxId := { core := c.core, slot := c.slot }
def State.cx (s : State) : Ctx := s.ctx s.cur.ctx
def State.modCx (s : State) (f : Ctx → Ctx) : State := s.modCtx s.cur.ctx f
def State.kr (s : State) : Core := s.core s.cur.core
def State.modKr (s : State) (f : Core → Core) : State := s.modCore s.cur.core f

/-- The slots of every core that differs from reset: every other slot holds no context. -/
def State.allCtx (s : State) : List CtxId :=
  s.cores.flatMap fun (c, _) => [{ core := c, slot := 0 }, { core := c, slot := 1 }]

/-- A context is resident in the slot (R44). -/
def Ctx.resident (c : Ctx) : Bool := c.status != .empty

/-- The handler that runs in the place of the current context, if one does (R81). -/
def State.bank? (s : State) : Option Bank :=
  match s.kr.bank with
  | some b => if b.slot = s.cur.slot then some b else none
  | none => none

def State.modBank (s : State) (f : Bank → Bank) : State :=
  s.modKr fun k => { k with bank := k.bank.map f }

/-- The privilege, the pending transfer and the delay line a bundle of the current context issues with. -/
def State.supervisor (s : State) : Bool := s.cx.sup
def State.pendingTransfer (s : State) : Option Transfer :=
  match s.bank? with
  | some b => b.transfer
  | none => s.cx.transfer

/-! ## Registers -/

/-- A scalar register as a bundle reads it: `s0` reads 0 with a clean tag (R66); in a handler `s48` to `s63` are the
shadow registers (R81). -/
def State.readS (s : State) (r : Fin 64) : Tagged 64 :=
  if r = 0 then { val := 0, tag := .clean }
  else match s.bank? with
    | some b => if h : 48 ≤ r.val then b.shadow.get ⟨r.val - 48, by omega⟩ else s.cx.regs.s.get r
    | none => s.cx.regs.s.get r

/-- A vector register. -/
def State.readV (s : State) (r : Fin 64) : VReg := s.cx.regs.v.get r

/-- A mask register; `m0` reads all ones with a clean tag (R66). -/
def State.readM (s : State) (r : Fin 16) : MReg :=
  if r = 0 then { val := BitVec.allOnes 128, tags := Tags.clean } else s.cx.regs.m.get r

def State.readZ (s : State) (r : Fin 16) : Tagged 128 := s.cx.regs.z.get r
def State.readQ (s : State) (r : Fin 8) : Tagged 64 := s.cx.regs.q.get r

/-- Which of V0 and V1 the current slot is, for the hold latch (R82). -/
def State.vIndex (s : State) : Fin 2 := if s.cur.pos = .v1 then 1 else 0

/-- Operand b of a V slot in a form where it names a vector register: 63 reads the slot's hold latch (R34, R82). -/
def State.readB (s : State) (r : Fin 64) : VReg :=
  if r = 63 then s.cx.regs.hold.get s.vIndex else s.readV r

/-! ## Results in flight -/

/-- A result enters the delay line it counts on: the handler bank's in a handler, the context's otherwise (R48, R50). -/
def State.enter (s : State) (e : InFlight) : State :=
  match s.bank? with
  | some _ => s.modBank fun b => { b with delay := b.delay ++ [e] }
  | none => s.modCx fun c => { c with delay := c.delay ++ [e] }

/-- A result of latency `l`. -/
def State.push (s : State) (l : Nat) (x : Landing) : State :=
  s.enter { left := l, landing := x, arrived := true, rld := false, peer := none }

/-- A result for a scalar register; one aimed at `s0` is discarded (R66). -/
def State.pushS (s : State) (l : Nat) (d : Fin 64) (v : Word) (t : Tag) : State :=
  if d = 0 then s else s.push l (.s d { val := v, tag := t })

/-- A loaded result, whose data arrives later from a package (R52, R398). -/
def State.pushLoad (s : State) (l : Nat) (d : Fin 64) (v : Word) (t : Tag) (peer : Fin 8 × BitVec 11) : State :=
  if d = 0 then s
  else s.enter { left := l, landing := .s d { val := v, tag := t }, arrived := false, rld := false, peer := some peer }

/-- A result for a mask register; one aimed at `m0` is discarded (R66). -/
def State.pushM (s : State) (l : Nat) (d : Fin 16) (x : MReg) (bits : Quad) : State :=
  if d = 0 then s else s.push l (.m d x bits)

/-! ## Free values and numbers -/

/-- A free bit and the state with the counter advanced. -/
def State.freeBit (s : State) : Bool × State := (Config.freeBit s.free, { s with free := s.free + 1 })

/-- A fresh number for an operation or a context. -/
def State.fresh (s : State) : Nat × State := (s.nextId, { s with nextId := s.nextId + 1 })

/-! ## Stops -/

/-- Nothing to say beyond the cause. -/
def Info.none : Info := { addr := 0, flag := Option.none, sub := 0, detail := 0, src := Option.none, looked := [] }

/-- `raise NAME` (R18). -/
def raise {α : Type} (c : Cause) : Except Stop α := .error (.raise c Info.none)

/-- `raise NAME` with the failing address (R325). -/
def raiseAt {α : Type} (c : Cause) (a : BitVec 56) : Except Stop α := .error (.raise c { Info.none with addr := a })

/-- A stop tells what its access has looked up (R352). -/
def Stop.lookedUp (e : Stop) (l : List (BitVec 56)) : Stop :=
  match e with
  | .raise c i => .raise c { i with looked := l ++ i.looked }
  | e => e

/-- The first condition that holds raises its cause. -/
def check (bad : Bool) (c : Cause) : Except Stop Unit := if bad then raise c else .ok ()

end Sys2Proof.Machine
end

