-- ==== Sys2Proof/Machine/Flags.lean ====
section
/-! DEFINITION. Flags, ring levels, interrupts' pending bits (R266 to R275, R283 to R286), and the sticky flags of
`%fpflags` (R95). -/

namespace Sys2Proof.Machine

/-! ## Sticky flags -/

/-- The sticky flags a result raises (R95). -/
structure FpFlags where
  sat : Bool
  nv  : Bool
  dz  : Bool
  of  : Bool
  uf  : Bool
  nx  : Bool
deriving DecidableEq, Repr

def FpFlags.none : FpFlags := { sat := false, nv := false, dz := false, of := false, uf := false, nx := false }

def FpFlags.or (a b : FpFlags) : FpFlags :=
  { sat := a.sat || b.sat, nv := a.nv || b.nv, dz := a.dz || b.dz, of := a.of || b.of, uf := a.uf || b.uf, nx := a.nx || b.nx }

/-- The bits of `%fpflags` (R95). -/
def FpFlags.bits (f : FpFlags) : BitVec 6 :=
  BitVec.ofNat 6 (f.sat.toNat * 32 + f.nv.toNat * 16 + f.dz.toNat * 8 + f.of.toNat * 4 + f.uf.toNat * 2 + f.nx.toNat)

/-! ## Rings (R283, R284) -/

def hgValid (hg : Word) : Bool := flag hg 63
def hgCore (hg : Word) : Nat := bits hg 57 6
def hgBase (hg : Word) : Nat := bits hg 40 17
def hgSlots (hg : Word) : Nat := bits hg 28 12 + 1
def hgBytes (hg : Word) : Nat := (bits hg 17 11 + 1) * 32
def hsP (hs : Word) : Nat := bits hs 0 12
def hsC (hs : Word) : Nat := bits hs 13 12

/-- Filled slots (R284): the formula's value, which a write of `%hs` can make negative. -/
def ringFilled (hg hs : Word) : Int :=
  if flag hs 12 = flag hs 25 then (hsP hs : Int) - hsC hs else (hgSlots hg : Int) - hsC hs + hsP hs

/-- Free slots (R284). -/
def ringFree (hg hs : Word) : Int := hgSlots hg - ringFilled hg hs

/-- A pointer moved forward by n, with its wrap bit (R285). -/
def ringMove (slots x : Nat) (w : Bool) (n : Nat) : Nat × Bool :=
  if x + n ≥ slots then (x + n - slots, !w) else (x + n, w)

/-! ## Levels (R267, R286) -/

/-- The conditions of the bindings of a handle: flag and level. -/
def handleLevels (hg hs : Word) : List (Fin 32 × Bool) :=
  (if flag hs 63 then [(⟨bits hs 58 5, Nat.mod_lt _ (by decide)⟩, decide ((bits hs 46 12 : Int) + 1 ≤ ringFilled hg hs))] else []) ++
  (if flag hs 45 then [(⟨bits hs 40 5, Nat.mod_lt _ (by decide)⟩, decide ((bits hs 28 12 : Int) + 1 ≤ ringFree hg hs))] else [])

def Ctx.levels (c : Ctx) : List (Fin 32 × Bool) :=
  (List.finRange 16).flatMap fun h => handleLevels (c.regs.hg.get h) (c.regs.hs.get h)

/-- The flag follows a ring level (R267). -/
def Ctx.bound (c : Ctx) (f : Fin 32) : Bool := c.levels.any (·.1 == f)

def mask32 (f : Fin 32) : BitVec 32 := BitVec.ofNat 32 (2 ^ f.val)

/-- The flags bound to levels, as a mask. -/
def Ctx.boundMask (c : Ctx) : BitVec 32 := c.levels.foldl (fun m p => m ||| mask32 p.1) 0

/-! ## Pending bits (R273, R275) -/

/-- A pending bit is set; its place in the order is kept, with the core cycle. -/
def Ctx.setPending (c : Ctx) (f : Fin 32) (t : Nat) : Ctx :=
  if f.val < 24 then c
  else
    let j : Fin 8 := ⟨f.val % 8, Nat.mod_lt _ (by decide)⟩
    { c with
      reg := { c.reg with uistat := c.reg.uistat ||| BitVec.ofNat 64 (2 ^ j.val) }
      pend := if c.pend.any (·.1 == j) then c.pend else c.pend ++ [(j, t)] }

/-! ## Set and error bits -/

/-- A set bit is raised by an engine, a watch or a level, with the interrupt of a clear-to-set change (R267). -/
def Ctx.raiseFlag (c : Ctx) (f : Fin 32) (t : Nat) : Ctx :=
  let was := flag c.flags.set f.val
  let c := { c with flags := { c.flags with set := c.flags.set ||| mask32 f } }
  if was then c else c.setPending f t

/-- An error's cause is recorded: the first since the flag's error was cleared, and of those of one core cycle the smallest
code (R268, R269). -/
def Flags.recordError (f : Flags) (n : Fin 32) (e : Cause) (t : Nat) : Flags :=
  let code := BitVec.ofNat 8 (causeCode e)
  let keeps := flag f.err n.val && (f.errAt.get n != t || decide ((f.cause.get n).toNat ≤ code.toNat))
  if keeps then f
  else { f with err := f.err ||| mask32 n, cause := f.cause.set n code, errAt := f.errAt.set n t }

/-- A completion that names a flag (R267, R269): without error it sets the flag; with one it also sets the error bit,
records the first cause, and always interrupts. A flag bound to a level keeps its level. -/
def Ctx.completeFlag (c : Ctx) (f : Fin 32) (err : Option Cause) (t : Nat) : Ctx :=
  let c := { c with flags := { c.flags with engine := c.flags.engine ||| mask32 f } }
  let c := if c.bound f then c else c.raiseFlag f t
  match err with
  | none => c
  | some e =>
    ({ c with flags := c.flags.recordError f e t } : Ctx).setPending f t

/-- Every level binding sets or clears its flag at a boundary (R267). -/
def Ctx.applyLevels (c : Ctx) (t : Nat) : Ctx :=
  c.levels.foldl (fun c p =>
    if p.2 then c.raiseFlag p.1 t
    else { c with flags := { c.flags with set := c.flags.set &&& ~~~(mask32 p.1) } }) c

/-- `sig` (R272): flags bound to a level keep it; no interrupt. -/
def Ctx.sigFlags (c : Ctx) (m : BitVec 32) : Ctx :=
  let m := m &&& ~~~c.boundMask
  { c with flags := { c.flags with set := c.flags.set ||| m, own := c.flags.own ||| m } }

/-- Watch entries of the named flags become free (R281). -/
def freeWatches (wn : Vector Word 4) (m : BitVec 32) : Vector Word 4 :=
  wn.map fun w => if flag w 63 && flag m (bits w 57 5) then 0 else w

def clearCauses (cause : Vector Byte 32) (m : BitVec 32) : Vector Byte 32 :=
  Vector.ofFn fun i => if flag m i.val then 0 else cause.get i

/-- A consume by a wait (R31, R267): set bits cleared but for levels, watches freed, error bits kept. -/
def Ctx.consume (c : Ctx) (m : BitVec 32) : Ctx :=
  let k := m &&& ~~~c.boundMask
  { c with flags := { c.flags with set := c.flags.set &&& ~~~k, own := c.flags.own ||| k }, wn := freeWatches c.wn m }

/-- `clrf` (R272). -/
def Ctx.clrFlags (c : Ctx) (m : BitVec 32) : Ctx :=
  let c := c.consume m
  { c with flags := { c.flags with err := c.flags.err &&& ~~~m, cause := clearCauses c.flags.cause m } }

/-- `clrf.err` (R272). -/
def Ctx.clrErrors (c : Ctx) (m : BitVec 32) : Ctx :=
  { c with flags := { c.flags with err := c.flags.err &&& ~~~m, cause := clearCauses c.flags.cause m } }

/-- `%flags` (R271). -/
def Flags.word (f : Flags) : Word := f.err ++ f.set

/-- A supervisor write to `%flags` (R267, R271): set bits but for levels, error bits, and the causes of cleared ones. -/
def Ctx.writeFlags (c : Ctx) (v : Word) : Ctx :=
  let b := c.boundMask
  let err : BitVec 32 := field v 32 32
  { c with flags := { c.flags with
      set := (field v 0 32 &&& ~~~b) ||| (c.flags.set &&& b)
      err := err
      cause := clearCauses c.flags.cause (~~~err) } }

/-- Every binding of a flag is removed: ring bindings and its watch (R282, R283, R286). -/
def dropBindings (f : Fin 32) (hs : Word) : Word :=
  let hs := if flag hs 63 && bits hs 58 5 == f.val then putField hs 46 18 0 else hs
  if flag hs 45 && bits hs 40 5 == f.val then putField hs 28 18 0 else hs

def Ctx.unbindRings (c : Ctx) (f : Fin 32) : Ctx :=
  { c with regs := { c.regs with hs := c.regs.hs.map (dropBindings f) } }

def Ctx.unbind (c : Ctx) (f : Fin 32) : Ctx :=
  let c := c.unbindRings f
  { c with wn := freeWatches c.wn (mask32 f) }

/-- The flags a gate names (R28). -/
def gateFlags (g : Gate) : BitVec 32 := BitVec.ofNat 32 (g.mask.toNat * 2 ^ (8 * g.bank.val))

/-- The lowest-numbered named flag whose error bit is set, and its cause (R269). -/
def Ctx.flagError (c : Ctx) (m : BitVec 32) : Option (Fin 32 × Cause) :=
  ((List.finRange 32).find? fun f => flag m f.val && flag c.flags.err f.val).map fun f =>
    (f, causeOf (c.flags.cause.get f).toNat)

/-- Every named flag is set (R31). -/
def Ctx.flagsSet (c : Ctx) (m : BitVec 32) : Bool := c.flags.set &&& m == m

/-- Flags after a rollback (R80). The record of what engines and watches have set stands: the checkpoint does too (R79). -/
def Flags.rollback (f : Flags) (kept : BitVec 32) : Flags :=
  { f with set := ((f.set &&& ~~~f.own) ||| (kept &&& f.own)) ||| (f.engine &&& f.own), own := 0 }

end Sys2Proof.Machine
end

