-- ==== Sys2Proof/Machine/Memory.lean ====
section
/-! DEFINITION. Memory: the bytes, the lost tags of their sectors (R265), and who may still see an older byte (R248,
R250, R258). A byte's key is its home package's coordinate times 2^52 plus its physical address; a private line of a
weight version has keys of its own from 2^63 on (R367). -/

namespace Sys2Proof.Machine

/-! ## Cells -/

/-- What a byte nothing has written reads as (notes/assumptions/1.md). -/
def unlisted : Byte := 0

def memGet (m : List Host.Cell) (a : Nat) : Byte :=
  match m with
  | [] => unlisted
  | (b, x) :: m => if a = b then x else if a < b then unlisted else memGet m a

/-- A write keeps the cells in rising order and lists no byte that reads the same unlisted. -/
def memPut (m : List Host.Cell) (a : Nat) (v : Byte) : List Host.Cell :=
  match m with
  | [] => if v = unlisted then [] else [(a, v)]
  | (b, x) :: m =>
    if a = b then (if v = unlisted then m else (a, v) :: m)
    else if a < b then (if v = unlisted then (b, x) :: m else (a, v) :: (b, x) :: m)
    else (b, x) :: memPut m a v

/-- Bytes at consecutive addresses as cells: those that read the same unlisted are left out. -/
def cellsOf (a : Nat) (b : List Byte) : List Host.Cell :=
  match b with
  | [] => []
  | x :: b => if x = unlisted then cellsOf (a + 1) b else (a, x) :: cellsOf (a + 1) b

/-- Many bytes at consecutive addresses are written at once. -/
def putRange (m : List Host.Cell) (a : Nat) (b : List Byte) : List Host.Cell :=
  (m.filter fun p => decide (p.1 < a)) ++ cellsOf a b ++ m.filter fun p => decide (a + b.length ≤ p.1)

/-- Every listed address is above `lo`, addresses rise, and no listed byte reads as an unlisted one does. -/
def cellsAbove (lo : Option Nat) (m : List Host.Cell) : Bool :=
  match m with
  | [] => true
  | (a, x) :: m => (match lo with | none => true | some l => decide (l < a)) && x != unlisted && cellsAbove (some a) m

/-- The canonical form of memory. -/
def Memory.wf (m : List Host.Cell) : Bool := cellsAbove none m

/-- Lost sectors are listed once each, rising. -/
def lostInsert (l : List Nat) (k : Nat) : List Nat :=
  match l with
  | [] => [k]
  | x :: l => if k = x then x :: l else if k < x then k :: x :: l else x :: lostInsert l k

def lostRemove (l : List Nat) (k : Nat) : List Nat := l.filter (· != k)

/-- The list with a sector out of it, or in it. -/
def setLost (out : Bool) (l : List Nat) (k : Nat) : List Nat := if out then lostRemove l k else lostInsert l k

def State.byteAt (s : State) (k : Nat) : Byte := memGet s.mem k

/-- The coordinates whose package is a spare that took a dead package's place. -/
def State.spareHomes (s : State) : List (BitVec 11) := s.fabric.spares.map fun p => BitVec.ofNat 11 (32 * p.1.val + p.2.val)

/-- A sector of a spare's memory: it reads as lost until it is written, so the list of lost sectors names those of its
sectors that are clean (R400). -/
def State.blank (s : State) (k : Nat) : Bool :=
  decide (32 * k < 2 ^ 63) && !(decide (0xF * 2 ^ 48 ≤ 32 * k % 2 ^ 52)) && s.spareHomes.contains (BitVec.ofNat 11 (32 * k / 2 ^ 52))

/-- The sector of a byte is lost (R265). -/
def State.lostAt (s : State) (k : Nat) : Bool := s.lost.contains (k / 32) != s.blank (k / 32)

/-- Its bytes are not known either: an error took them, or nothing has been written there since it was lost (R345). -/
def State.damagedAt (s : State) (k : Nat) : Bool := s.lostAt k && (s.damaged.contains (k / 32) || s.blank (k / 32))

def State.bytesAt (s : State) (k n : Nat) : List Byte := (List.range n).map fun i => s.byteAt (k + i)

def State.putByte (s : State) (k : Nat) (b : Byte) : State := { s with mem := memPut s.mem k b }

/-- A plain write of bytes, with no tag or view of its own: device structures that live in memory. -/
def State.putBytes (s : State) (k : Nat) (b : List Byte) : State :=
  match b with
  | [] => s
  | x :: b => (s.putByte k x).putBytes (k + 1) b

/-! ## Keys -/

/-- The region of the weight versions that holds a frame, by stage (R366). -/
def State.regionOf (s : State) (pa : Nat) : Option (Fin 8) :=
  (List.finRange 8).find? fun k =>
    let w := s.vrb.get k
    flag w 63 && decide (zext (field w 21 31) 31 * 2 ^ 21 ≤ pa) &&
      decide (pa < (zext (field w 21 31) 31 + zext w 21) * 2 ^ 21)

/-- A version of a stage is live (R366). -/
def State.versionLive (s : State) (k v : Fin 8) : Bool := flag (s.vrb.get k) (52 + v.val)

def homeKey (home : BitVec 11) (pa : Nat) : Nat := home.toNat * 2 ^ 52 + pa

/-- A private line is a copy of one line of one home (R367). -/
def privKey (k v : Fin 8) (home : BitVec 11) (pa : Nat) : Nat := 2 ^ 63 + (k.val * 8 + v.val) * 2 ^ 63 + homeKey home pa

/-- The key of an on-chip window address of this package's core: base 0xF, die, cluster, core, space, offset (R223). -/
def windowPa (core : Fin 1792) (space off : Nat) : Nat :=
  0xF * 2 ^ 48 + core.val / 64 / 7 * 2 ^ 34 + core.val / 64 % 7 * 2 ^ 31 + core.val % 64 * 2 ^ 25 + space * 2 ^ 22 + off

/-- The core of a window address (R223), as a number that may be out of range. -/
def windowCore (pa : Nat) : Nat := 64 * (7 * (pa / 2 ^ 34 % 4) + pa / 2 ^ 31 % 8) + pa / 2 ^ 25 % 64
def windowSpace (pa : Nat) : Nat := pa / 2 ^ 22 % 8
def windowOff (pa : Nat) : Nat := pa % 2 ^ 22
def isWindow (pa : Nat) : Bool := pa / 2 ^ 48 == 0xF

/-- Where the bytes of a live or shadow plane stand: a swap exchanges the two (R201, R206). -/
def State.planePa (s : State) (pa : Nat) : Nat :=
  if h : windowCore pa < 1792 then
    let seg := (s.core ⟨windowCore pa, h⟩).seg.get ⟨windowOff pa / 2 ^ 16 % 16, Nat.mod_lt _ (by decide)⟩
    if isWindow pa && windowSpace pa == 4 && seg.sel then
      (if pa / 2 ^ 15 % 2 == 1 then pa - 2 ^ 15 else pa + 2 ^ 15)
    else pa
  else pa

/-- The key of the byte at a place, as reads find it: a version's private line if there is one, else the shared line
(R367). -/
def State.keyOf (s : State) (l : Loc) : Nat :=
  let pa := l.pa.toNat
  match l.ver with
  | none => homeKey l.home (s.planePa pa)
  | some v =>
    match s.regionOf pa with
    | none => homeKey l.home pa
    | some k =>
      if s.versionLive k v && s.priv.contains (k, v, homeKey l.home pa / 128) then privKey k v l.home pa else homeKey l.home pa

/-! ## Whose a line is (R379, R382, R383) -/

/-- The line of a package's memory, as the caches number it. -/
def globalLine (home : BitVec 11) (line : Nat) : Nat := homeKey home (line * 128) / 128

/-- The directory entry of a line of this package; none where the line is another's or nobody else holds it. -/
def State.lineEntry (s : State) (line : Nat) : Option DirEntry :=
  s.fabric.dir.find? fun e => globalLine s.fabric.coord e.line == line

/-- The package that a line of another package belongs to, and its number there. -/
def State.remoteHome (s : State) (line : Nat) : Option (BitVec 11 × Nat) :=
  let k := 128 * line
  if k < 2 ^ 63 ∧ BitVec.ofNat 11 (k / 2 ^ 52) ≠ s.fabric.coord then some (BitVec.ofNat 11 (k / 2 ^ 52), k % 2 ^ 52 / 128) else none

/-- The copy of a line of another package that this package holds. -/
def State.copyOf (s : State) (home : BitVec 11) (line : Nat) : Option RemoteCopy :=
  s.fabric.copies.find? fun c => c.home == home && c.line == line

/-- The bytes of a line are with another package: it owns the line or is about to, or its home is another's and no copy is
held here. -/
def State.elsewhere (s : State) (line : Nat) : Bool :=
  (match s.remoteHome line with
   | some (h, l) => (s.copyOf h l).isNone
   | none => false) ||
  (match s.lineEntry line with
   | some e => (match e.newOwner with
      | some w => w != s.fabric.coord
      | none => e.state == .m || (e.state == .o && !e.told))
   | none => false)

/-- A byte as a core reads it for itself or its devices, without taking part in the order of observers. -/
def State.plainByte (s : State) (c : Fin 1792) (k : Nat) : Byte :=
  if s.elsewhere (k / 128) then Config.ownedByte ((s.core c).clock.toNat * 1792 + c.val) k else s.byteAt k

/-- The place n bytes on. -/
def Loc.add (l : Loc) (n : Nat) : Loc := { l with pa := l.pa + BitVec.ofNat 52 n }

/-! ## Observers (R246 to R250) -/

/-- The narrowest scope that takes in both cores (R246). -/
def scopeBetween (a b : Fin 1792) : Nat :=
  if a = b then 0
  else if a.val / 64 = b.val / 64 then 1
  else if a.val / 448 = b.val / 448 then 2
  else 3

/-- Who a context is to the memory: its slot's core, and the serial number that it keeps when it moves (R246, R266). -/
def State.me (s : State) (x : CtxId) : Owner := { ctx := x, serial := (s.ctx x).serial }

/-- The observer sees the write for certain: it made it on that path; or it lies within the write's scope, an engine's
write counting only for its own path; or a release has taken the write to it (R250, R254). -/
def View.sure (v : View) (o : Owner) (p : Path) : Bool :=
  if v.owner.serial = o.serial then v.path == some p
  else (decide (scopeBetween v.owner.ctx.core o.ctx.core ≤ v.scope.val) && (v.cmd.isNone || v.path == some p)) ||
    v.reach.any fun r => decide (scopeBetween r.1 o.ctx.core ≤ r.2.val)

/-- The observer need not see the write yet. -/
def View.maybeOld (v : View) (o : Owner) (p : Path) : Bool := !(v.sure o p) && !(v.seen.contains (o.serial, p))

/-- A context's own accesses never observe its spills (R75). -/
def View.hidden (v : View) (o : Owner) : Bool := v.owner.serial == o.serial && v.path.isNone

/-- The writes numbered from `since` on may come after a load has performed, though the load stands later in its
context's run: those of others, which it has not seen (R247, R251). -/
def View.early (v : View) (o : Owner) (p : Path) (since : Nat) : Bool :=
  v.owner.serial != o.serial && decide (since ≤ v.n) && !(v.seen.contains (o.serial, p))

/-- A read may or may not return the write. -/
def View.open_ (v : View) (o : Owner) (p : Path) (since : Nat) : Bool := v.maybeOld o p || v.early o p since

/-- The observer sees the write, where of those not yet visible to it everywhere it sees the ones numbered up to `t`, and
its load performs after those numbered up to `u`. -/
def View.shows (v : View) (o : Owner) (p : Path) (since t u : Nat) : Bool :=
  !(v.hidden o) && (!(v.maybeOld o p) || decide (v.n ≤ t)) && (!(v.early o p since) || decide (v.n ≤ u))

/-- What stands at a key for who sees some of the writes, in their coherence order: what the last of these has left, or
what stood there before the first of the others (R248, R250). `b` is the byte in memory. -/
def readView (vs : List View) (shows : View → Bool) (k : Nat) (b : Byte) : Byte :=
  match vs with
  | [] => b
  | v :: vs =>
    if v.key == k && !(shows v) && !(vs.any fun u => u.key == k && shows u) then v.old else readView vs shows k b

/-- Whether the sector of a key is lost, for who sees some of the writes: its tag travels with the byte (R265). `l` is the
tag in memory. -/
def readTag (vs : List View) (shows : View → Bool) (k : Nat) (l : Bool) : Bool :=
  match vs with
  | [] => l
  | v :: vs =>
    if v.key == k && !(shows v) && !(vs.any fun u => u.key == k && shows u) then v.oldLost else readTag vs shows k l

/-- An observer has seen a write: it does not go back (R248). -/
def View.markSeen (v : View) (who : Nat × Path) : View := if v.seen.contains who then v else { v with seen := who :: v.seen }

/-- Writes by number that an observer has seen; of a single-copy atomic write it has seen all (R249). -/
def State.markSeen (s : State) (o : Owner) (p : Path) (ns : List Nat) : State :=
  { s with views := s.views.map fun v => if ns.contains v.n then v.markSeen (o.serial, p) else v }

/-- Path-L loads of the classes in a mask perform from now on after the writes numbered below n. -/
def Ctx.orderLoads (c : Ctx) (mask : BitVec 16) (n : Nat) : Ctx :=
  { c with ordered := Vector.ofFn fun i => if mask.getLsbD i.val then max (c.ordered.get i) n else c.ordered.get i }

/-- The classes of the loads that perform after a path-L access of a class: its own, and after one of class 15 all (R251,
R254). -/
def laterClasses (c : Fin 16) : BitVec 16 := if c = 15 then BitVec.allOnes 16 else BitVec.ofNat 16 (2 ^ c.val)

/-- Every later path-L load of the context, of the classes in a mask, performs after the writes that have been made. -/
def State.orderLoads (s : State) (x : CtxId) (mask : BitVec 16) : State := s.modCtx x (·.orderLoads mask s.nextId)

/-- The write from which on a read of a class may be too early; only path-L loads are. -/
def State.since (s : State) (o : Owner) (p : Path) (c : Fin 16) : Nat :=
  if p = .l then (s.ctx o.ctx).ordered.get c else s.nextId

/-- Bytes as an observer reads them with an access of a class, each with its tag. Where some of them may be older, free
numbers say which writes it sees; they serve the whole access, so that no single-copy atomic write is seen in part (R249).
A load that returns a write performs after it, and with it the later loads of its class (R251, R254). -/
def State.observe (s : State) (o : Owner) (p : Path) (c : Fin 16) (ks : List Nat) : List (Byte × Bool) × State :=
  let since := s.since o p c
  let mine (v : View) : Bool := ks.contains v.key && v.open_ o p since
  if s.views.any mine then
    let shows (v : View) : Bool := v.shows o p since (Config.freeNat s.free) (Config.freeNat (s.free + 1))
    let ns := (s.views.filter fun v => mine v && shows v).map (·.n)
    let t := { s with free := s.free + 2 }.markSeen o p ns
    let n := ns.foldl (fun m n => max m (n + 1)) 0
    (ks.map fun k => (readView s.views shows k (s.byteAt k), readTag s.views shows k (s.lostAt k)),
      if p = .l then t.modCtx o.ctx (·.orderLoads (laterClasses c) n) else t)
  else (ks.map fun k => (s.byteAt k, s.lostAt k), s)

/-- A wait that finds a flag set by a watch is an acquire: the context's later accesses perform after the writes that
releases have taken to it (R282). -/
def State.acquireReached (s : State) (x : CtxId) : State :=
  { s with views := s.views.map fun v =>
      if v.reach.any fun r => decide (scopeBetween r.1 x.core ≤ r.2.val) then v.markSeen ((s.ctx x).serial, .l) else v }

/-- A write has performed at package scope (R247, R254). -/
def View.atPackage (v : View) : Bool :=
  (decide (3 ≤ v.scope.val) && v.cmd.isNone) || v.reach.any fun r => decide (3 ≤ r.2.val)

/-- A byte as a page walk of a core reads it: every write that has performed at package scope, and of the others those that
a free number says (R353). -/
def State.walkByte (s : State) (c : Fin 1792) (k : Nat) : Byte :=
  let t := Config.walkSees c (s.core c).clock.toNat
  if s.elsewhere (k / 128) then s.plainByte c k
  else readView s.views (fun v => v.atPackage || decide (v.n ≤ t)) k (s.byteAt k)

/-! ## Writing with tags and views (R265) -/

/-- Who writes: for the views of other observers. -/
structure Author where
  owner : Owner
  path  : Option Path
  cmd   : Option Nat
  cls   : Fin 16
  scope : Fin 8
deriving DecidableEq, Repr

/-- A later command of the author, on its path, made the write: it stays later in coherence order whenever the author's
own write comes (R248). -/
def View.follows (v : View) (a : Author) : Bool :=
  v.owner.serial == a.owner.serial && v.path == a.path &&
  (match v.cmd, a.cmd with
   | some i, some j => decide (j < i)
   | _, _ => false)

/-- The views with a new write before the first later one of its author there; none if there is none. -/
def insertView (a : Author) (nv : View) (b : Byte) (vs : List View) : Option (List View) :=
  match vs with
  | [] => none
  | v :: vs =>
    if v.key == nv.key && v.follows a then
      some ({ nv with old := v.old, oldLost := v.oldLost } :: { v with old := b, oldLost := v.oldLost || nv.lost } :: vs)
    else (insertView a nv b vs).map (v :: ·)

/-- One byte of an access numbered n is written, in its place in coherence order (R248). -/
def State.writeByte (s : State) (a : Author) (n : Nat) (w : ByteWrite) : State :=
  let v : View := {
    n := n, key := w.key, old := s.byteAt w.key, oldLost := s.lostAt w.key, owner := a.owner, path := a.path, cmd := a.cmd, cls := a.cls, scope := a.scope
    reach := [], lost := w.lost, done := a.cmd.isNone, seen := [] }
  match insertView a v w.val s.views with
  | some vs => { s with views := vs }
  | none => { s with mem := memPut s.mem w.key w.val, views := s.views ++ [v] }

def State.writeBytes (s : State) (a : Author) (n : Nat) (ws : List ByteWrite) : State :=
  match ws with
  | [] => s
  | w :: ws => (s.writeByte a n w).writeBytes a n ws

/-- One single-copy atomic write (R249). -/
def State.writeUnit (s : State) (a : Author) (ws : List ByteWrite) : State :=
  { s with nextId := s.nextId + 1 }.writeBytes a s.nextId ws

/-- Writes whose unit is the byte (R249). -/
def State.writeEach (s : State) (a : Author) (ws : List ByteWrite) : State :=
  match ws with
  | [] => s
  | w :: ws => (s.writeUnit a [w]).writeEach a ws

/-- The sectors a list of writes touches, once each. -/
def sectorsOf (ws : List ByteWrite) : List Nat := (ws.map fun w => w.key / 32).eraseDups

/-- The writes take in every byte of a sector. -/
def covers (ws : List ByteWrite) (k : Nat) : Bool := (List.range 32).all fun i => ws.any fun w => w.key == 32 * k + i

/-- A sector's tag after an access or command: lost from lost data; clean if all its bytes are written from clean data;
else as it was (R265). `later` holds what later commands of the author wrote there before. -/
def retag (blank : Nat → Bool) (later : List ByteWrite) (lost : List Nat) (ws : List ByteWrite) (k : Nat) : List Nat :=
  let mine := ws.filter fun w => w.key / 32 == k
  if covers later k then lost
  else if mine.any (·.lost) then setLost (blank k) lost k
  else if covers mine k && !(later.any fun w => w.key / 32 == k && w.lost) then setLost (!(blank k)) lost k
  else lost

def retagAll (blank : Nat → Bool) (later : List ByteWrite) (lost : List Nat) (ws : List ByteWrite) (ks : List Nat) : List Nat :=
  match ks with
  | [] => lost
  | k :: ks => retagAll blank later (retag blank later lost ws k) ws ks

/-- What later commands of an author have written. -/
def State.after (s : State) (a : Author) : List ByteWrite :=
  (s.views.filter (·.follows a)).map fun v => { key := v.key, val := v.old, lost := v.lost }

/-- The tags of the sectors that an access or a command has written. -/
def State.tagAll (s : State) (a : Author) (ws : List ByteWrite) : State :=
  let t := { s with lost := retagAll s.blank (s.after a) s.lost ws (sectorsOf ws) }
  if s.damaged.isEmpty then t else { t with damaged := s.damaged.filter fun k => t.lostAt (32 * k) }

/-- A sector is lost, or is not. -/
def State.setTag (s : State) (k : Nat) (lost : Bool) : State := { s with lost := setLost (lost == s.blank k) s.lost k }

/-- Lost tags for sectors, by key. -/
def State.loseSectors (s : State) (ks : List Nat) : State :=
  { s with lost := ks.foldl (fun l k => setLost (s.blank k) l k) s.lost }

/-- Sectors become lost, and their bytes are not known. -/
def State.damage (s : State) (ks : List Nat) : State :=
  let t := s.loseSectors ks
  { t with damaged := (ks ++ s.damaged).eraseDups }

/-! ## Publication (R254, R258) -/

/-- A release takes a write to the observers within a scope of its core. -/
def View.release (v : View) (c : Fin 1792) (scope : Fin 8) : View :=
  if v.reach.contains (c, scope) then v else { v with reach := (c, scope) :: v.reach }

/-- What has become visible to the context's path L is visible at a scope to everyone there (R254). -/
def State.publish (s : State) (x : CtxId) (scope : Fin 8) : State :=
  { s with views := s.views.map fun v => if v.maybeOld (s.me x) .l then v else v.release x.core scope }

/-- Writes of the context on path p that are complete to it become visible to its reads on path q (R258). -/
def State.bridge (s : State) (x : CtxId) (p q : Path) : State :=
  let n := (s.ctx x).serial
  { s with views := s.views.map fun v =>
      if v.owner.serial = n ∧ v.path = some p ∧ v.done then v.markSeen (n, q) else v }

/-- Writes of the context on a path, of the classes in a mask, have performed at a scope (R257). -/
def State.widen (s : State) (x : CtxId) (paths : List Path) (mask : BitVec 16) (scope : Fin 8) : State :=
  { s with views := s.views.map fun v =>
      if v.owner.serial = (s.ctx x).serial ∧ v.path.any paths.contains ∧ v.done ∧ mask.getLsbD v.cls.val ∧
          v.scope.val < scope.val then { v with scope := scope } else v }

/-- The paths. -/
def allPaths : List Path := [.l, .c, .a, .x, .n, .k]

/-- A write has performed at domain scope (R247, R264). -/
def View.atDomain (v : View) : Bool :=
  (decide (4 ≤ v.scope.val) && v.cmd.isNone) || v.reach.any fun r => decide (4 ≤ r.2.val)

/-- The start of a task is an acquire at domain scope (R264, R296): the task sees what has performed at that scope. -/
def State.startAcquire (s : State) (x : CtxId) : State :=
  { s with views := s.views.map fun v =>
      if v.atDomain then allPaths.foldl (fun v p => v.markSeen ((s.ctx x).serial, p)) v else v }

/-- The writes a command has made have performed at domain scope (R378). -/
def State.performAtDomain (s : State) (cmd : Nat) : State :=
  { s with views := s.views.map fun v => if v.cmd = some cmd then v.release v.owner.ctx.core 4 else v }

/-- The writes of a command, or of the mirror's operations in a row, are complete to their context (R259). -/
def State.complete (s : State) (f : Finished) : State :=
  { s with views := s.views.map fun v =>
      if v.owner.serial == f.owner.serial && (f.first == f.id || v.path == some .a) &&
          v.cmd.any fun n => decide (f.first ≤ n) && decide (n ≤ f.id) then { v with done := true } else v }

end Sys2Proof.Machine
end

