-- ==== Sys2Proof/Machine/Translate.lean ====
section
/-! DEFINITION. From virtual addresses to places: the cluster alias (R225), the page walk (R349 to R351), the TLBs
(R352), the on-chip window (R223, R224), the address classes (R226), and the phase checks (R335). -/

namespace Sys2Proof.Machine

/-! ## Logical and physical cores (R5, R288) -/

/-- The physical cores that the remap tables place no logical core on: the absent, and those on the harvest list at boot
(R288, R465). -/
def State.unplaced (s : State) : List (Fin 1792) := s.absent ++ s.leftOut

/-- The absent and the present physical cores of a cluster, rising (R288). -/
def State.absentIn (s : State) (c : Nat) : List Nat :=
  if s.unplaced.isEmpty then [] else (List.range 64).filter fun i => s.unplaced.any fun a => a.val == 64 * c + i
def State.presentIn (s : State) (c : Nat) : List Nat :=
  (List.range 64).filter fun i => !(s.unplaced.any fun a => a.val == 64 * c + i)

/-- A logical core's remap entry as the part gives it: the j-th absent core stands on the j-th present one in slot 1,
which keeps its own in slot 0; every other has its own core whole (R288). -/
def State.remapDefault (s : State) (l : Fin 1792) : Byte :=
  let c := l.val / 64
  let i := l.val % 64
  let gone := s.absentIn c
  let here := if gone.isEmpty then [] else s.presentIn c
  if gone.contains i then BitVec.ofNat 8 (0xC0 + here.getD (gone.idxOf i) 0)
  else if (here.take gone.length).contains i then BitVec.ofNat 8 (0x80 + i)
  else BitVec.ofNat 8 i

/-- A logical core's remap entry (R288). -/
def State.remapEntry (s : State) (l : Fin 1792) : Byte :=
  match s.remap.find? (·.1 == l) with
  | some (_, b) => b
  | none => s.remapDefault l

/-- The physical core of a logical core. -/
def State.physOf (s : State) (l : Fin 1792) : Fin 1792 :=
  ⟨l.val / 64 * 64 + bits (s.remapEntry l) 0 6, by have := l.isLt; unfold bits; omega⟩

/-- The logical core owns a slot of its physical core. -/
def State.ownsSlot (s : State) (l : Fin 1792) (slot : Fin 2) : Bool :=
  !(flag (s.remapEntry l) 7) || bits (s.remapEntry l) 6 1 == slot.val

/-- The slots a logical core owns (R289). -/
def State.slotsOf (s : State) (l : Fin 1792) : List CtxId :=
  ([0, 1] : List (Fin 2)).filterMap fun i => if s.ownsSlot l i then some { core := s.physOf l, slot := i } else none

/-- The logical core that owns a slot: one of the same cluster (R288). -/
def State.logicalOf (s : State) (x : CtxId) : Fin 1792 :=
  let base := x.core.val / 64 * 64
  match (List.range 64).find? fun i =>
    if h : base + i < 1792 then
      (s.physOf ⟨base + i, h⟩ == x.core) && s.ownsSlot ⟨base + i, h⟩ x.slot
    else false with
  | some i => if h : base + i < 1792 then ⟨base + i, h⟩ else x.core
  | none => x.core

/-- The core hosts two logical cores (R220). -/
def State.hostsTwo (s : State) (c : Fin 1792) : Bool :=
  flag (s.remapEntry (s.logicalOf { core := c, slot := 0 })) 7

/-- The scratchpad granules of the logical core in a slot (R218, R220). -/
def State.spOf (s : State) (x : CtxId) : Nat := bits ((s.core x.core).carve.get x.slot) 16 6

/-! ## Control register numbers (R69) -/

/-- Who may: everyone, the supervisor, or (for a write) everyone but without effect. -/
inductive Who where
  | all | sup | ignored
deriving DecidableEq, Repr

/-- The Access column of a register, read and write; none for a number that is not assigned. -/
def ctlAccess (n : Nat) : Option (Who × Who) :=
  if n = 0x000 then some (.all, .ignored)
  else if n ≤ 0x003 then some (.all, .all)
  else if n = 0x004 then some (.sup, .sup)
  else if n ≤ 0x006 then some (.all, .sup)
  else if n < 0x010 then none
  else if n ≤ 0x017 then some (.all, .all)
  else if n = 0x018 then some (.all, .sup)
  else if n < 0x020 then none
  else if n = 0x020 then some (.all, .sup)
  else if n = 0x021 then some (.all, .all)
  else if n ≤ 0x026 then some (.all, .sup)
  else if n < 0x040 then none
  else if n = 0x040 then some (.all, .sup)
  else if n < 0x060 then none
  else if n = 0x060 then some (.all, .ignored)
  else if n = 0x061 then some (.all, .sup)
  else if n = 0x062 then some (.sup, .ignored)
  else if n < 0x070 then none
  else if n ≤ 0x074 then some (.all, .sup)
  else if n < 0x080 then none
  else if n ≤ 0x09F then some (.all, .all)
  else if n ≤ 0x0A2 then some (.all, .sup)
  else if n < 0x0A8 then none
  else if n ≤ 0x0AF then some (.all, .sup)
  else if n < 0x0C0 then none
  else if n = 0x0C1 then some (.sup, .sup)
  else if n ≤ 0x0C2 then some (.all, .sup)
  else if n < 0x0C8 then none
  else if n ≤ 0x0CF then some (.all, .ignored)
  else if n < 0x100 then none
  else if n ≤ 0x12F then some (.all, .sup)
  else if n = 0x130 then some (.all, .ignored)
  else if n = 0x131 then some (.all, .sup)
  else if n < 0x140 then none
  else if n = 0x140 then some (.all, .sup)
  else if n ≤ 0x142 then some (.sup, .sup)
  else if n = 0x143 then some (.all, .sup)
  else if n = 0x144 then some (.all, .all)
  else if n ≤ 0x14B then some (.all, .sup)
  else if n < 0x160 then none
  else if n ≤ 0x16F then some (.all, .sup)
  else if n = 0x170 then some (.sup, .sup)
  else if n ≤ 0x179 then some (.all, .sup)
  else if n = 0x17A then some (.sup, .sup)
  else if n < 0x180 then none
  else if n = 0x180 then some (.all, .ignored)
  else if n = 0x181 then some (.sup, .sup)
  else if n ≤ 0x185 then some (.all, .sup)
  else if n = 0x186 then some (.all, .all)
  else if n ≤ 0x188 then some (.all, .sup)
  else if n ≤ 0x18F then some (.all, .ignored)
  else none

/-- Core control has a register at an offset: a slot's, by number, or a core-wide one (R228, R467). -/
def coreCtlHas (off : Nat) : Bool :=
  if off < 0x40000 then (ctlAccess (off % 0x20000 / 8)).isSome
  else decide (off < 0x40020) || (decide (0x41000 ≤ off) && decide (off < 0x42000) && decide (off % 0x800 < 0x238))

/-! ## The on-chip window (R223, R224) -/

/-- What an access to memory does there. -/
inductive Acc where
  | read | write | atomic | fetch
deriving DecidableEq, Repr

def Acc.writes (a : Acc) : Bool := a == .write || a == .atomic
def Acc.reads (a : Acc) : Bool := a == .read || a == .atomic

/-- Who makes an access: a context's S slot, V slot, the mirror or X unit, or an engine command. -/
inductive Agent where
  | scalar | vector | unit | engine
deriving DecidableEq, Repr

/-- The bytes at a scratchpad offset of a core exist: below the size of the logical core in slot 0, or in the slot-1
part of a host core (R224). -/
def State.scratchHolds (s : State) (c : Fin 1792) (off n : Nat) : Bool :=
  if off < 2 ^ 21 then decide (off + n ≤ 2 ^ 16 * s.spOf { core := c, slot := 0 })
  else s.hostsTwo c && decide (off - 2 ^ 21 + n ≤ 2 ^ 16 * s.spOf { core := c, slot := 1 })

/-- An accumulator offset lies in a record area (R183). -/
def inRecordArea (off : Nat) : Bool := decide (0xFF00 ≤ off % 2 ^ 16)

/-- Some of n bytes from an accumulator offset on lie in a record area. -/
def meetsRecordArea (off n : Nat) : Bool := decide (0xFF00 < off % 2 ^ 16 + n)

/-- The window refuses an access of n bytes (R223, R224, R227, R228). -/
def State.windowRefuses (s : State) (pa n : Nat) (a : Acc) (g : Agent) (sup : Bool) : Bool :=
  let off := windowOff pa
  if h : pa / 2 ^ 36 % 2 ^ 12 = 0 ∧ pa / 2 ^ 31 % 8 ≠ 7 ∧ windowCore pa < 1792 then
    let c : Fin 1792 := ⟨windowCore pa, h.2.2⟩
    s.absent.contains c || a == .fetch ||
    (match windowSpace pa with
     | 0 => !(s.scratchHolds c off n)
     | 1 => g != .engine || !sup || decide (2 ^ 18 < off + n) || (a.writes && meetsRecordArea off n)
     | 2 => g != .engine || a.writes || decide (0x1200 < off + n)
     | 3 => g != .engine || decide (2 ^ 19 < off + n) || decide (0x8440 < off % 2 ^ 18 + n)
     | 4 => g != .engine || a.writes || decide (2 ^ 20 < off + n) || decide (0x4400 < off % 0x8000 + n)
     | 5 => g == .vector || g == .unit || !sup || a == .atomic || n != 8 || off % 8 != 0 || !(coreCtlHas off)
     | _ => true)
  else true

/-- A physical address names something its home package holds (R344). -/
def physExists (pa : Nat) : Bool :=
  decide (pa < 0xC0_0000_0000) || (decide (0x100_0000_0000 ≤ pa) && decide (pa < 0x200_0000_0000)) || isWindow pa

/-! ## Address classes (R226) -/

inductive AddrClass where
  | scratch | window | cacheable
deriving DecidableEq, Repr

def classOf (core : Fin 1792) (pa : Nat) : AddrClass :=
  if isWindow pa then
    (if windowSpace pa == 0 && windowCore pa / 64 == core.val / 64 then .scratch else .window)
  else .cacheable

/-- The latency of an S load (R226). -/
def AddrClass.latency (c : AddrClass) : Nat :=
  match c with
  | .scratch => 4 | .window => 8 | .cacheable => 8

/-! ## The cluster alias (R225) -/

def isAlias (va : BitVec 56) : Bool := bits va 48 8 == 0xFF

/-- The place an alias address names, or PROT for nonzero bits in [47:31] or [24:22]. -/
def State.aliasLoc (s : State) (core : Fin 1792) (va : BitVec 56) : Except Cause Loc :=
  if bits va 31 17 ≠ 0 ∨ bits va 22 3 ≠ 0 then .error .prot
  else
    let l : Fin 1792 := ⟨core.val / 64 * 64 + bits va 25 6, by have := core.isLt; unfold bits; omega⟩
    let part := if flag (s.remapEntry l) 7 && flag (s.remapEntry l) 6 then 2 ^ 21 else 0
    .ok { home := s.fabric.coord, pa := BitVec.ofNat 52 (windowPa (s.physOf l) 0 0 + part + bits va 0 22), ver := none }

/-- An alias offset past the named logical core's scratchpad is refused at the range step (R225). -/
def State.aliasRange (s : State) (core : Fin 1792) (va : BitVec 56) (n : Nat) : Bool :=
  let l : Fin 1792 := ⟨core.val / 64 * 64 + bits va 25 6, by have := core.isLt; unfold bits; omega⟩
  let slot : Fin 2 := if flag (s.remapEntry l) 7 && flag (s.remapEntry l) 6 then 1 else 0
  decide (bits va 0 22 + n ≤ 2 ^ 16 * s.spOf { core := s.physOf l, slot := slot })

/-! ## Table entries (R350, R351) -/

/-- The levels of a walk below level 4: number, lowest index bit, index bits. -/
def levels : List (Nat × Nat × Nat) := [(4, 48, 8), (3, 39, 9), (2, 30, 9), (1, 21, 9), (0, 16, 5)]

/-- The page size of a leaf, as a power of 2 (R349). -/
def pageBits (level : Nat) : Nat :=
  match level with
  | 0 => 16 | 1 => 21 | _ => 30

/-- The alignment of the table a pointer at this level names (R349). -/
def tableBytes (level : Nat) : Nat := if level = 1 then 2 ^ 8 else 2 ^ 12

def leafFrame (e : Word) : Nat := bits e 16 36 * 2 ^ 16
def leafHome (e : Word) : BitVec 11 := field e 0 11
def leafVer (e : Word) : Option (Fin 8) :=
  if flag e 59 then some ⟨bits e 52 3, Nat.mod_lt _ (by decide)⟩ else none

/-- A leaf is malformed (R351). -/
def leafMalformed (e : Word) (level : Nat) : Bool :=
  decide (3 ≤ level) || bits e 11 5 != 0 || leafFrame e % 2 ^ pageBits level != 0 || decide (2 ≤ bits e 60 2) ||
  (bits e 60 2 == 1 && decide (0xC0_0000_0000 ≤ leafFrame e)) || (!(flag e 59) && bits e 52 3 != 0)

/-- A pointer is malformed (R351). -/
def pointerMalformed (e : Word) (level : Nat) : Bool :=
  level == 0 || bits e 52 10 != 0 || bits e 0 8 != 0 || (bits e 8 44 * 2 ^ 8) % tableBytes level != 0

/-- A walk from a table: the leaf and its level, or XLATE (R351). -/
def State.walk (s : State) (core : Fin 1792) (va : BitVec 56) (lv : List (Nat × Nat × Nat)) (table : Nat) : Except XFail (Word × Nat) :=
  match lv with
  | [] => .error { cause := .xlate, sub := 0 }
  | (level, lo, n) :: lv =>
    let k := homeKey s.fabric.coord (table + 8 * bits va lo n)
    let e : Word := BitVec.ofNat 64 (ofBytes ((List.range 8).map fun i => s.walkByte core (k + i)))
    if s.lostAt k then .error { cause := .xlate, sub := BitVec.ofNat 8 (causeCode .contain) }
    else if !(flag e 63) then .error { cause := .xlate, sub := 0 }
    else if flag e 62 then
      if leafMalformed e level then .error { cause := .xlate, sub := 0 }
      else if flag e 59 && (s.regionOf (leafFrame e)).isNone then .error { cause := .xlate, sub := 0 }
      else .ok (e, level)
    else if pointerMalformed e level then .error { cause := .xlate, sub := 0 }
    else s.walk core va lv (bits e 8 44 * 2 ^ 8)

/-! ## TLBs (R352, R353) -/

def ptAsid (ptroot : Word) : BitVec 16 := field ptroot 48 16
def ptTable (ptroot : Word) : Nat := bits ptroot 0 41 * 2 ^ 11

/-- An entry translates an address of its asid. -/
def TlbEntry.hits (e : TlbEntry) (asid : BitVec 16) (va : BitVec 56) : Bool :=
  e.asid == asid && va.toNat / 2 ^ pageBits e.level.val == e.page * 2 ^ 16 / 2 ^ pageBits e.level.val

def State.lookup (s : State) (core : Fin 1792) (ptroot : Word) (va : BitVec 56) : Option TlbEntry :=
  match (s.core core).tlb.find? (·.hits (ptAsid ptroot) va) with
  | some e => some e
  | none => (s.ctlb.find? fun p => p.1.val == core.val / 64 && p.2.hits (ptAsid ptroot) va).map (·.2)

/-- The leaf an address is reached through: a TLB's, or a walk's (R352). -/
def State.leafFor (s : State) (core : Fin 1792) (ptroot : Word) (va : BitVec 56) : Except XFail (Word × Nat) :=
  match s.lookup core ptroot va with
  | some e => .ok (e.leaf, e.level.val)
  | none => s.walk core va levels (ptTable ptroot)

/-- Drop unlocked entries past a capacity, the oldest first. -/
def trim (n : Nat) (l : List TlbEntry) : List TlbEntry :=
  if l.length ≤ n then l else
    match l.reverse.find? (·.pins == 0) with
    | some e => l.reverse.erase e |>.reverse
    | none => l

def State.install (s : State) (core : Fin 1792) (e : TlbEntry) : State :=
  let s := s.modCore core fun k => { k with tlb := trim 64 (e :: k.tlb.filter (· != e)) }
  let cl : Fin 28 := ⟨core.val / 64, by have := core.isLt; omega⟩
  if s.ctlb.any fun p => p.1 == cl && p.2.hits e.asid (BitVec.ofNat 56 (e.page * 2 ^ 16)) then s
  else
    let mine := trim 4096 (e :: (s.ctlb.filterMap fun p => if p.1 == cl then some p.2 else none))
    { s with ctlb := mine.map (cl, ·) ++ s.ctlb.filter fun p => p.1 != cl }

/-- Count a miss of a slot and a walk it started in `%tlbstat` (R352). -/
def countTlb (w : Word) (misses walks : Nat) : Word :=
  putField (putField w 32 32 (bits w 32 32 + misses)) 0 32 (bits w 0 32 + walks)

/-- The TLB entry of a leaf that an address is reached through. -/
def entryFor (ptroot : Word) (va : BitVec 56) (leaf : Word) (level : Nat) : TlbEntry :=
  { asid := ptAsid ptroot, page := va.toNat / 2 ^ pageBits level * 2 ^ pageBits level / 2 ^ 16,
    level := ⟨level % 3, Nat.mod_lt _ (by decide)⟩, leaf := leaf, pins := 0 }

/-- An access through the tables leaves its translation in the TLBs, and its misses are counted (R352). -/
def State.touch (s : State) (x : CtxId) (ptroot : Word) (va : BitVec 56) : State :=
  if isAlias va then s
  else if (s.core x.core).tlb.any (·.hits (ptAsid ptroot) va) then s
  else
    match s.leafFor x.core ptroot va with
    | .error _ => s
    | .ok (leaf, level) =>
      let walks := if (s.lookup x.core ptroot va).isSome then 0 else 1
      (s.install x.core (entryFor ptroot va leaf level)).modCtx x fun c => { c with reg := { c.reg with
        tlbstat := countTlb c.reg.tlbstat 1 walks } }

/-- The lookup of a command or a device that walks by itself, counted also where its walk fails (R352). -/
def State.lookUp (s : State) (x : CtxId) (ptroot : Word) (va : BitVec 56) : State :=
  if isAlias va || (s.core x.core).tlb.any (·.hits (ptAsid ptroot) va) then s
  else match s.leafFor x.core ptroot va with
    | .error _ => s.modCtx x fun c => { c with reg := { c.reg with tlbstat := countTlb c.reg.tlbstat 1 1 } }
    | .ok _ => s.touch x ptroot va

/-- What an access that then failed looked up in the cluster's TLB. -/
def State.touchHit (s : State) (x : CtxId) (ptroot : Word) (va : BitVec 56) : State :=
  if (s.lookup x.core ptroot va).isSome then s.touch x ptroot va else s

/-- The privilege and permission checks of a leaf, in order (R351). -/
def leafForbids (leaf : Word) (a : Acc) (sup : Bool) : Bool :=
  (!sup && !(flag leaf 55)) ||
  (match a with
   | .read => !(flag leaf 58)
   | .write => !(flag leaf 57)
   | .atomic => !(flag leaf 58) || !(flag leaf 57)
   | .fetch => !(flag leaf 56))

/-! ## Walks that a context waits for (R352) -/

/-- The walk is for an address: one of the same page and translation. -/
def Walk.isFor (w : Walk) (ptroot : Word) (va : BitVec 56) (spec : Option (Bool × Nat)) : Bool :=
  w.ptroot == ptroot && w.va.toNat / 2 ^ 16 == va.toNat / 2 ^ 16 && w.spec == spec

/-- How the walk for an address has failed, if it has. -/
def State.walkFailed (s : State) (x : CtxId) (ptroot : Word) (va : BitVec 56) (spec : Option (Bool × Nat)) : Option XFail :=
  match (s.ctx x).walk with
  | some w => if w.isFor ptroot va spec && !(isAlias va) then w.failed else none
  | none => none

/-- A lookup of the address misses both TLBs and no walk for it has failed: the context's bundle is held for one. -/
def State.mustWalk (s : State) (x : CtxId) (ptroot : Word) (va : BitVec 56) (spec : Option (Bool × Nat)) : Bool :=
  !(isAlias va) && (s.lookup x.core ptroot va).isNone && (s.walkFailed x ptroot va spec).isNone

/-- The contexts of a die whose walks take, or wait for, a place of its walker. -/
def State.walking (s : State) (c : Fin 1792) (running : Bool) : List CtxId :=
  s.allCtx.filter fun x => x.core.val / 448 == c.val / 448 && (match (s.ctx x).walk with
    | some w => w.running == running && w.failed.isNone
    | none => false)

/-- All 64 places of a die's walker are taken. -/
def State.walkerFull (s : State) (c : Fin 1792) : Bool := decide (64 ≤ (s.walking c true).length)

/-- A walk starts, or waits for one of the 64 places of its die; one that is under way goes on. -/
def State.startWalk (s : State) (x : CtxId) (ptroot : Word) (va : BitVec 56) (spec : Option (Bool × Nat)) : State :=
  if (s.ctx x).walk.any fun w => w.isFor ptroot va spec && w.failed.isNone then s
  else
    let go := !(s.walkerFull x.core)
    let (n, s) := s.fresh
    s.modCtx x fun c => { c with
      walk := some { va := va, ptroot := ptroot, spec := spec, n := n, running := go, failed := none }
      reg := { c.reg with tlbstat := countTlb c.reg.tlbstat 1 1 } }

/-! ## Translation with its checks (R351) -/

/-- The translation of an address, alias addresses included; the range and window checks come after it. -/
def State.translate (s : State) (core : Fin 1792) (ptroot : Word) (sup : Bool) (a : Acc) (va : BitVec 56) : Except XFail Loc :=
  if isAlias va then
    if a == .fetch then .error { cause := .prot, sub := 0 }
    else match s.aliasLoc core va with
      | .ok l => .ok l
      | .error c => .error { cause := c, sub := 0 }
  else
    match s.leafFor core ptroot va with
    | .error e => .error e
    | .ok (leaf, level) =>
      if leafForbids leaf a sup then .error { cause := .prot, sub := 0 }
      else
        let pa := leafFrame leaf + va.toNat % 2 ^ pageBits level
        if isWindow pa && leafHome leaf != s.fabric.coord then .error { cause := .prot, sub := 0 }
        else .ok { home := leafHome leaf, pa := BitVec.ofNat 52 pa, ver := leafVer leaf }

/-- The translation an access of a bundle has at issue: the bundle is held where it must be walked for, and a walk that has
failed raises its fault (R231, R352). -/
def State.xlate (s : State) (x : CtxId) (ptroot : Word) (sup : Bool) (a : Acc) (va : BitVec 56) : Except Stop Loc :=
  if s.mustWalk x ptroot va none then .error (.walk va none)
  else match s.walkFailed x ptroot va none with
    | some e => .error (.raise e.cause { Info.none with addr := va, sub := e.sub })
    | none => match s.translate x.core ptroot sup a va with
      | .error e => .error (.raise e.cause { Info.none with addr := va, sub := e.sub, looked := [va] })
      | .ok l => .ok l

/-- The place refuses an access of n bytes at issue: beyond a scratchpad, or outside a space's layout (R223 to R225). -/
def State.refusesHere (s : State) (core : Fin 1792) (va : BitVec 56) (l : Loc) (n : Nat) (a : Acc) (g : Agent) (sup : Bool) : Bool :=
  if isAlias va then !(s.aliasRange core va n)
  else if isWindow l.pa.toNat then s.windowRefuses l.pa.toNat n a g sup
  else false

/-- As `refusesHere`, and also where the home holds nothing at the address: for every access but a store, which its home
refuses when it arrives (R344, R351). -/
def State.refuses (s : State) (core : Fin 1792) (va : BitVec 56) (l : Loc) (n : Nat) (a : Acc) (g : Agent) (sup : Bool) : Bool :=
  s.refusesHere core va l n a g sup || !(physExists l.pa.toNat)

/-- A load of n bytes at an address would raise PROT through a leaf (R116, R231, R351). -/
def State.leafRefuses (s : State) (x : CtxId) (va : BitVec 56) (leaf : Word) (level : Nat) (sup : Bool) (n : Nat) : Bool :=
  let pa := leafFrame leaf + va.toNat % 2 ^ pageBits level
  leafForbids leaf .read sup || (isWindow pa && leafHome leaf != s.fabric.coord) ||
    s.refuses x.core va { home := leafHome leaf, pa := BitVec.ofNat 52 pa, ver := leafVer leaf } n .read .scalar sup

/-- A running walk ends: its leaf stands in the TLBs, or its failure waits for the bundle; of the walks of the die that wait
the first gets its place. -/
def State.endWalk (s : State) (x : CtxId) : State :=
  match (s.ctx x).walk with
  | none => s
  | some w =>
    if !w.running || w.failed.isSome then s
    else
      let s := match s.walk x.core w.va levels (ptTable w.ptroot) with
        | .ok (leaf, level) =>
          if w.spec.any fun (p : Bool × Nat) => s.leafRefuses x w.va leaf level p.1 p.2 then
            s.modCtx x fun c => { c with walk := some { w with failed := some { cause := .prot, sub := 0 } } }
          else (s.install x.core (entryFor w.ptroot w.va leaf level)).modCtx x fun c => { c with walk := none }
        | .error e => s.modCtx x fun c => { c with walk := some { w with failed := some e } }
      match s.walking x.core false with
      | y :: _ => s.modCtx y fun c => { c with walk := c.walk.map fun w => { w with running := true } }
      | [] => s

/-- A package that no port of this one reaches any more: every torus port is isolated, for one of its domain, or both ring
ports, for one of another (R397). -/
def State.cutOff (s : State) (p : Fin 8 × BitVec 11) : Bool :=
  p != (s.fabric.dom, s.fabric.coord) &&
  (List.finRange 6).all fun n => (s.fabric.port.get n).isolated || (p.1 == s.fabric.dom) != decide (n.val < 4)

/-- Requests to a package are answered for it: it has been declared dead, as this package sees it, or is out of reach (R397,
R398). -/
def State.deadPeer (s : State) (p : Fin 8 × BitVec 11) : Bool := s.fabric.dead.contains p || s.cutOff p

/-- As `deadPeer`, a package of this domain. -/
def State.homeDead (s : State) (home : BitVec 11) : Bool := s.deadPeer (s.fabric.dom, home)

/-! ## Phase checks (R335) -/

/-- The context has deterministic mode in force (R333). -/
def Ctx.deterministic (c : Ctx) : Bool :=
  match c.task with
  | some t => t.det == 1 || t.det == 2
  | none => false

/-- A range holds n bytes at an offset of a logical core's scratchpad (R334). -/
def rangeHolds (r : Word) (logical off n : Nat) : Bool :=
  flag r 63 && (flag r 62 || bits r 56 6 == logical % 64) && decide (bits r 39 17 * 32 ≤ off) &&
  decide (off + n ≤ bits r 39 17 * 32 + (bits r 22 17 + 1) * 32)

/-- Paths N and K are checked against the ranges of path C (R334). -/
def phasePath (p : Path) : Path :=
  match p with
  | .n => .c | .k => .c | p => p

/-- The logical core and the offset of a scratchpad address. -/
def State.scratchAt (s : State) (pa : Nat) : Nat × Nat :=
  let c : Fin 1792 := ⟨windowCore pa % 1792, Nat.mod_lt _ (by decide)⟩
  let part : Fin 2 := if windowOff pa < 2 ^ 21 then 0 else 1
  ((s.logicalOf { core := c, slot := part }).val, windowOff pa % 2 ^ 21)

/-- A scratchpad access of a path lies outside (a range names the scratchpads of its issuer's cluster, R334) the ranges of an open phase that some owner registered, or none is open
(R335). -/
def State.phaseMisses (s : State) (own : Owner → Bool) (phase : Option (BitVec 12)) (p : Path) (a : Acc) (l : Loc) (n : Nat) : Bool :=
  let pa := l.pa.toNat
  if !(isWindow pa && windowSpace pa == 0) then false
  else match phase with
    | none => true
    | some ph =>
      let (lc, off) := s.scratchAt pa
      let ok (w : Bool) : Bool := s.phases.any fun r =>
        r.1.val == windowCore pa / 64 && l.home == s.fabric.coord && own r.2.owner && r.2.id == ph && r.2.path == phasePath p && r.2.write == w && rangeHolds r.2.range lc off n
      (a.reads && !(ok false)) || (a.writes && !(ok true))

/-- A scratchpad access breaks the phase its context has open (R335). -/
def State.phaseBreaks (s : State) (x : CtxId) (phase : Option (BitVec 12)) (p : Path) (a : Acc) (l : Loc) (n : Nat) : Bool :=
  (s.ctx x).deterministic && s.phaseMisses (fun o => o.ctx == x) phase p a l n

end Sys2Proof.Machine
end

