-- ==== Sys2Proof/Machine/Records.lean ====
section
/-! DEFINITION. Fault records and notices (R324, R325), the debug trace (R341, R342), sequence counters and watches
(R278 to R282), flag completions that find their task (R266), and management events (R461). -/

namespace Sys2Proof.Machine

/-! ## Management events -/

def State.event (s : State) (bit : Nat) : State :=
  { s with mgmt := { s.mgmt with evt := s.mgmt.evt ||| BitVec.ofNat 64 (2 ^ bit) } }

/-- The shutter's sources (R466). -/
def shutterEnabled (w : Word) (src : ShutterSource) : Bool :=
  match src with
  | .record c => flag w 60 && bits w 32 8 == causeCode c
  | .mark m => flag w 59 && bits w 0 12 == m.toNat
  | .dead => flag w 58
  | .trip => flag w 57
  | .now => flag w 56

/-- An enabled source fires the armed shutter, once per arming; the latch follows 64 core cycles later (R466). -/
def State.fireShutter (s : State) (src : ShutterSource) : State :=
  let sh := s.mgmt.shutter
  if sh.armed && shutterEnabled sh.word src then
    { s with mgmt := { s.mgmt with shutter := {
      sh with
        armed := false, word := putField sh.word 63 1 0
        fired := sh.fired ++ [({ core := s.cur.core, due := (getCore s.cores s.cur.core).clock.toNat + 64, halt := flag sh.word 62 } : Firing)] } } }.event 6
  else s

/-! ## Trace (R341, R342) -/

def traceSize (trctl : Word) : Nat := 4096 * 2 ^ bits trctl 8 4

/-- One 32-bit word into the trace buffer: when it is full, `wrap` overwrites from the start and otherwise it stops; both
set ovf. -/
def State.traceRaw (s : State) (x : CtxId) (w : BitVec 32) : State :=
  let r := (s.ctx x).reg
  let size := traceSize r.trctl
  let p := bits r.trpos 0 32
  if !(flag r.trctl 63) then s
  else if size ≤ p && !(flag r.trctl 62) then
    s.modCtx x fun c => { c with reg := { c.reg with trctl := putField c.reg.trctl 61 1 1 } }
  else
    let s := s.putBytes (homeKey s.fabric.coord (bits r.trctl 12 40 * 4096 + p % size)) (bytesOf 4 w.toNat)
    s.modCtx x fun c => { c with reg := { c.reg with
      trctl := if size ≤ p then putField c.reg.trctl 61 1 1 else c.reg.trctl
      trpos := BitVec.ofNat 64 ((p + 4) % 2 ^ 32) } }

/-- The pending branch outcomes as a BRANCH word. -/
def branchWord (o : List Bool) : BitVec 32 :=
  BitVec.ofNat 32 (2 * 2 ^ 28 + o.length * 2 ^ 23 + (o.mapIdx fun i b => b.toNat * 2 ^ i).sum)

def State.flushBranches (s : State) (x : CtxId) : State :=
  let o := (s.ctx x).trace.outcomes
  if o.isEmpty then s
  else (s.traceRaw x (branchWord o)).modCtx x fun c => { c with trace := { c.trace with outcomes := [] } }

/-- A word of another kind, after the pending BRANCH word. -/
def State.traceWord (s : State) (x : CtxId) (w : BitVec 32) : State :=
  if flag (s.ctx x).reg.trctl 63 then (s.flushBranches x).traceRaw x w else s

/-- The outcome of a `br` or `chk`; a BRANCH word is written when 23 are pending. -/
def State.traceOutcome (s : State) (x : CtxId) (taken : Bool) : State :=
  if flag (s.ctx x).reg.trctl 63 then
    let s := s.modCtx x fun c => { c with trace := { c.trace with outcomes := c.trace.outcomes ++ [taken] } }
    if 23 ≤ (s.ctx x).trace.outcomes.length then s.flushBranches x else s
  else s

def State.traceEvent (s : State) (x : CtxId) (code : Nat) : State :=
  s.traceWord x (BitVec.ofNat 32 (4 * 2 ^ 28 + code * 2 ^ 20 + (s.ctx x).pos % 2 ^ 20))

/-- A STALL word before an issue that follows lost cycles. -/
def State.traceStall (s : State) (x : CtxId) : State :=
  let t := (s.ctx x).trace
  if t.stall = 0 then s
  else (s.traceWord x (BitVec.ofNat 32 (1 * 2 ^ 28 + t.reason.val * 2 ^ 26 + min t.stall (2 ^ 26 - 1)))).modCtx x
    fun c => { c with trace := { c.trace with stall := 0 } }

/-! ## Records (R325) -/

/-- The slot field: G, S, V0, V1, M, C0, C1, X from 0; 8 is the bundle as a whole. -/
def slotCode (p : SlotPos) : Nat :=
  match p with
  | .g => 0 | .s => 1 | .v0 => 2 | .v1 => 3 | .m => 4 | .c0 => 5 | .c1 => 6 | .x => 7

/-- The 64 bytes of a record for a context, from its eight doublewords. -/
def recordOf (w : List Word) : BitVec 512 := BitVec.ofNat 512 (ofElems 64 w)

/-- The identification words of a record: the task's fields, the cores, the clock (bytes 40 to 63). -/
def State.recordTail (s : State) (x : CtxId) : List Word :=
  let c := s.ctx x
  let ids : Nat := match c.task with
    | some t => t.tag.toNat * 2 ^ 32 + t.key.y.toNat * 2 ^ 16 + t.key.x.toNat * 2 ^ 8 + x.slot.val * 2 ^ 4 + t.key.node.val
    | none => x.slot.val * 2 ^ 4
  [BitVec.ofNat 64 ids, BitVec.ofNat 64 (x.core.val * 2 ^ 16 + (s.logicalOf x).val), (s.core x.core).clock]

/-- A record of a context that is rolled back or trapped: kind 0 or 1 (R325). -/
def State.faultRecord (s : State) (x : CtxId) (kind cause slot : Nat) (i : Info) (src resume : BitVec 56) (pt : Bool)
    (pos : Nat) : BitVec 512 :=
  let fl := match i.flag with
    | some f => 2 ^ 49 + f.val * 2 ^ 44
    | none => 0
  recordOf ([BitVec.ofNat 64 (cause * 2 ^ 56 + kind * 2 ^ 54 + slot * 2 ^ 50 + fl + i.sub.toNat * 2 ^ 36 + i.detail.toNat),
    BitVec.ofNat 64 src.toNat, BitVec.ofNat 64 (pt.toNat * 2 ^ 63 + resume.toNat), BitVec.ofNat 64 i.addr.toNat,
    BitVec.ofNat 64 pos] ++ s.recordTail x)

/-- A record has arisen: a fault's, once its context's mirror queue is empty (R321). -/
def State.arisen (s : State) (w : WaitingRecord) : Bool :=
  match w.ctx with
  | some x => (s.ctx x).mqueue.isEmpty
  | none => true

/-- Before the queue is configured the control complex learns at once of a record that has arisen (R324). -/
def State.tellRecord (s : State) : State := if flag s.frq 7 then s else s.event 0

/-- A record joins those waiting to be written (R324). -/
def State.queueRecord (s : State) (r : BitVec 512) (x : Option CtxId) : State :=
  let w : WaitingRecord := { record := r, ctx := x }
  let s := { s with waiting := s.waiting ++ [w] }
  if s.arisen w then s.tellRecord else s

/-- The mirror queue of a context has become empty: its record, if it has one, arises now, after those before it (R321,
R324). -/
def State.recordArises (s : State) (x : CtxId) : State :=
  let mine (w : WaitingRecord) : Bool := w.ctx == some x
  if (s.ctx x).mqueue.isEmpty && s.waiting.any mine then
    { s with waiting := (s.waiting.filter fun w => !(mine w)) ++ s.waiting.filter mine }.tellRecord
  else s

/-- The slot a notice names: the S slot of the store for CONTROLW, the bundle as a whole for REPLAY, 0 for a meridian
(R325, R327). -/
def noticeSlot (n : Notice) : Nat :=
  match n with
  | .replay => 8
  | .controlw => 1
  | .meridian => 0

/-- A notice about a context (R327). -/
def State.notice (s : State) (n : Notice) (x : CtxId) (addr : BitVec 56) (sub : Nat) : State :=
  s.queueRecord (recordOf ([BitVec.ofNat 64 (noticeCode n * 2 ^ 56 + 2 * 2 ^ 54 + noticeSlot n * 2 ^ 50 + sub * 2 ^ 36), 0, 0,
    BitVec.ofNat 64 addr.toNat, BitVec.ofNat 64 (s.ctx x).keep.pos] ++ s.recordTail x)) none

/-- A meridian's notice carries no context: its clock is that of the core that holds the team's first logical core. -/
def State.meridianNotice (s : State) (first : Fin 1792) (addr : BitVec 56) (sub : Nat) : State :=
  s.queueRecord (recordOf [BitVec.ofNat 64 (noticeCode .meridian * 2 ^ 56 + 2 * 2 ^ 54 + noticeSlot .meridian * 2 ^ 50 + sub * 2 ^ 36), 0, 0,
    BitVec.ofNat 64 addr.toNat, 0, 0, 0, (s.core (s.physOf first)).clock]) none

/-! ## Completions (R266) -/

/-- Where the context with a serial number stands now, if it is resident. -/
def State.findSerial (s : State) (o : Owner) : Option CtxId :=
  if (s.ctx o.ctx).serial == o.serial && (s.ctx o.ctx).resident then some o.ctx
  else s.allCtx.find? fun x => (s.ctx x).serial == o.serial && (s.ctx x).resident

/-- A completion sets the flag of the task that issued the operation: at once if it is resident, held with it while it is
switched out, discarded if it has retired or been killed (R266). -/
def State.completeFlag (s : State) (o : Owner) (f : Fin 32) (err : Option Cause) : State :=
  match s.findSerial o with
  | some x => s.modCtx x fun c => c.completeFlag f err (s.core x.core).clock.toNat
  | none => { s with saved := s.saved.map fun v =>
      if v.ctx.serial == o.serial then { v with due := v.due ++ [(f, err)] } else v }

/-- Marks that a memory sector became lost on a context's behalf (R332). -/
def State.setLostw (s : State) (o : Owner) : State :=
  match s.findSerial o with
  | some x => s.modCtx x fun c => { c with reg := { c.reg with lostw := true } }
  | none => { s with saved := s.saved.map fun v =>
      if v.ctx.serial == o.serial then { v with ctx := { v.ctx with reg := { v.ctx.reg with lostw := true } } } else v }

/-! ## Sequence counters (R278 to R282) -/

def State.counter (s : State) (n : Fin 4096) : Word := ((s.counters.find? (·.1 == n)).map (·.2)).getD 0

def putCounter (l : List (Fin 4096 × Word)) (n : Fin 4096) (v : Word) : List (Fin 4096 × Word) :=
  match l with
  | [] => if v = 0 then [] else [(n, v)]
  | (m, x) :: l =>
    if m = n then (if v = 0 then l else (n, v) :: l)
    else if n < m then (if v = 0 then (m, x) :: l else (n, v) :: (m, x) :: l)
    else (m, x) :: putCounter l n v

def State.setCounter (s : State) (n : Fin 4096) (v : Word) : State := { s with counters := putCounter s.counters n v }

/-- An add that saturates at 2^64 − 1 (R279). -/
def satAdd (a b : Word) : Word := if a.toNat + b.toNat < 2 ^ 64 then a + b else BitVec.allOnes 64

def State.addCounter (s : State) (n : Fin 4096) (v : Word) : State := s.setCounter n (satAdd (s.counter n) v)

/-- A counter name's far bit, domain, package and number (R278). -/
def nameFar (n : Word) : Bool := flag n 30
def nameDom (n : Word) : Fin 8 := ⟨bits n 27 3, Nat.mod_lt _ (by decide)⟩
def namePkg (n : Word) : BitVec 11 := field n 16 11
def nameNum (n : Word) : Nat := bits n 0 12

/-- A window names the counter: its number, or PROT (R278). -/
def counterOf (seqwin name : Word) : Except Cause (Fin 4096) :=
  if nameNum name > bits seqwin 16 12 ∨ (nameFar name ∧ !(flag seqwin 63)) then .error .prot
  else if h : bits seqwin 0 12 + nameNum name < 4096 then .ok ⟨bits seqwin 0 12 + nameNum name, h⟩
  else .error .prot

/-- A far name that names this package after all. -/
def State.nameHere (s : State) (name : Word) : Bool :=
  !(nameFar name) || (nameDom name == s.fabric.dom && namePkg name == s.fabric.coord)

/-- The package of a counter's name. -/
def State.namePeer (s : State) (name : Word) : Fin 8 × BitVec 11 :=
  if s.nameHere name then (s.fabric.dom, s.fabric.coord) else (nameDom name, namePkg name)

def State.nameDead (s : State) (name : Word) : Bool :=
  nameFar name && s.deadPeer (nameDom name, namePkg name)

/-- The value of another package's counter is not this machine's: a free value (notes/assumptions/5.md). -/
def State.counterValue (s : State) (name : Word) (n : Fin 4096) : Word × State :=
  if s.nameHere name then (s.counter n, s)
  else (BitVec.ofNat 64 (Config.freeNat s.free), { s with free := s.free + 1 })

/-! ## Watches (R281, R282) -/

/-- The counter name of a watch entry is this package's. -/
def watchName (wn : Word) : Word := BitVec.ofNat 64 (bits wn 0 31)

/-- Entry j stands armed. -/
def armed (wn : Word) : Bool := flag wn 63 && !(flag wn 62)

/-- A watch fires: its flag is set, and fired (R282). -/
def Ctx.fire (c : Ctx) (j : Fin 4) (t : Nat) : Ctx :=
  let w := c.wn.get j
  let f : Fin 32 := ⟨bits w 57 5, Nat.mod_lt _ (by decide)⟩
  let c := { c with wn := c.wn.set j (putField w 62 1 1), flags := { c.flags with engine := c.flags.engine ||| mask32 f } }
  if c.bound f then c else c.raiseFlag f t

/-- A watch's counter has reached its threshold; the value of another package's counter is free. -/
def State.watchMet (s : State) (x : CtxId) (j : Fin 4) : Bool :=
  let w := (s.ctx x).wn.get j
  armed w && s.nameHere (watchName w) &&
  decide (((s.ctx x).wt.get j).toNat ≤ (s.counter ⟨nameNum w % 4096, Nat.mod_lt _ (by decide)⟩).toNat)

/-- The watch's counter belongs to a dead package: the flag completes with CONTAIN (R282). -/
def State.watchDead (s : State) (x : CtxId) (j : Fin 4) : Bool :=
  let w := (s.ctx x).wn.get j
  armed w && s.nameDead (watchName w)

def State.fireWatch (s : State) (x : CtxId) (j : Fin 4) : State :=
  let t := (s.core x.core).clock.toNat
  if s.watchDead x j then
    s.modCtx x fun c =>
      let w := c.wn.get j
      { c with wn := c.wn.set j (putField w 62 1 1) }.completeFlag ⟨bits w 57 5, Nat.mod_lt _ (by decide)⟩ (some .contain) t
  else if s.watchMet x j then s.modCtx x fun c => c.fire j t
  else s

/-- Every watch that may fire at this boundary does. -/
def State.fireWatches (s : State) (x : CtxId) : State :=
  (((s.fireWatch x 0).fireWatch x 1).fireWatch x 2).fireWatch x 3

/-! ## Writing records (R324) -/

def frqCapacity (frq : Word) : Nat := 64 * 2 ^ bits frq 8 4

/-- Room in a configured record queue. -/
def State.recordRoom (s : State) : Bool :=
  flag s.frq 7 && decide ((s.frHead.toNat + 2 ^ 32 - s.frTail.toNat) % 2 ^ 32 < frqCapacity s.frq)

/-- The oldest record that has arisen is written, head and the counter rise, the control complex is told, and the context
it concerns is halted from then on (R324, R326). -/
def State.writeRecord (s : State) : State :=
  match s.waiting.find? s.arisen with
  | none => s
  | some w =>
    let ws := s.waiting.erase w
    if s.recordRoom then
      let s := s.putBytes (homeKey s.fabric.coord (bits s.frq 12 40 * 4096 + 64 * (s.frHead.toNat % frqCapacity s.frq)))
        (bytesOf 64 w.record.toNat)
      let s := { s with waiting := ws, frHead := s.frHead + 1 }
      let s := (s.addCounter ⟨bits s.frq 52 12, Nat.mod_lt _ (by decide)⟩ 1).event 0
      let s := if bits w.record 54 2 = 2 then s else s.fireShutter (.record (causeOf (bits w.record 56 8)))
      match w.ctx with
      | some x => s.modCtx x fun c => { c with status := .halted, resume := some w.record }
      | none => s
    else s

end Sys2Proof.Machine
end

