-- ==== Sys2Proof/Machine/Ports.lean ====
section
/-! DEFINITION. The ports (R371, R397): long-haul frames as they are sealed (R394, R395), and the packets that cross a ring
port (R396). -/

namespace Sys2Proof.Machine

def State.modFabric (s : State) (f : Fabric → Fabric) : State := { s with fabric := f s.fabric }

def State.modPort (s : State) (n : Fin 6) (f : Port → Port) : State :=
  s.modFabric fun g => { g with port := g.port.set n (f (g.port.get n)) }

/-- A domain on the ring, n places on. -/
def State.ringDom (s : State) (n : Int) : Nat := (((s.fabric.dom.val : Int) + n) % max 1 (s.fabric.ndom.val : Int)).toNat

/-- The package of the same coordinate in a domain, as packets name it (R396). -/
def State.across (s : State) (dom : Nat) : BitVec 14 := BitVec.ofNat 14 (dom * 2 ^ 11 + s.fabric.coord.toNat)

/-! ## Frames (R394, R395) -/

/-- The key of an epoch, if the port holds it. -/
def Port.keyOf (p : Port) (epoch : Nat) : Option (List Byte) := (p.keys.find? (·.1 == epoch)).map (·.2)

/-- Keys of epochs that no frame to come has are dropped: the receiver keeps that of an epoch until every frame of it has
been accepted (R395). -/
def Port.prune (p : Port) : Port := { p with keys := p.keys.filter fun k => decide (min p.epoch p.rxEpoch ≤ k.1) }

/-- A frame is sealed with the next nonce; none where the port sends nothing, or its epoch's key is not agreed yet, or the
epoch is used up and the next key is not there (R394, R395). -/
def Port.seal (p : Port) : Option Port :=
  if p.isolated || p.lanes == 0 then none
  else if !p.longHaul then some p
  else if (p.keyOf p.epoch).isNone then none
  else if p.counter < 2 ^ 32 then some { p with counter := p.counter + 1 }
  else if (p.keyOf (p.epoch + 1)).isSome then some { p with epoch := p.epoch + 1, counter := 1 }.prune
  else none

def Port.sealN (p : Port) (n : Nat) : Option Port :=
  match n with
  | 0 => some p
  | n + 1 => p.seal.bind (·.sealN n)

/-- A flit leaves through a port. -/
def State.sendFlit (s : State) (port : Fin 6) : Option State :=
  ((s.fabric.port.get port).seal).map fun p => s.modPort port fun _ => p

/-! ## Packets (R396) -/

/-- The ring port toward a domain. -/
def State.portTo (s : State) (dst : BitVec 14) : Fin 6 := if dst.toNat / 2 ^ 11 = s.ringDom 1 then 4 else 5

/-- The frames that a packet takes: one holds up to 64 flits of 64 bytes (R371, R394). -/
def framesOf (d : Payload) : Nat :=
  match d with
  | .ring _ _ _ _ _ data | .other data => max 1 ((data.length + 4095) / 4096)
  | .add _ _ | .group _ _ | .read _ | .watch _ _ | .ack _ _ => 1

/-- A packet leaves with the next number of its stream toward its destination, and is kept until it is acknowledged; none
where the port holds its traffic, or too many packets of the stream are unacknowledged. -/
def State.sendPacket (s : State) (dst : BitVec 14) (stream : Fin 64) (cmd : Option Nat) (data : Payload) : Option State :=
  let mine (d : BitVec 14) (t : Fin 64) : Bool := d == dst && t == stream
  let n : BitVec 32 := ((s.fabric.nextSeq.find? fun p => mine p.1 p.2.1).map (·.2.2)).getD 0
  if 2 ^ 31 - 1 ≤ (s.fabric.sent.filter fun p => mine p.dst p.stream).length then none
  else ((s.fabric.port.get (s.portTo dst)).sealN (framesOf data)).map fun p =>
    (s.modPort (s.portTo dst) fun _ => p).modFabric fun f => { f with
      sent := f.sent ++ [{ dst := dst, stream := stream, seq := n, data := data, sends := 1, cmd := cmd }]
      nextSeq := (dst, stream, n + 1) :: f.nextSeq.filter fun p => !(mine p.1 p.2.1) }

/-- A package as packets name it (R396). -/
def packageOf (dom : Fin 8) (pkg : BitVec 11) : BitVec 14 := BitVec.ofNat 14 (dom.val * 2 ^ 11 + pkg.toNat)

/-- A packet for a counter of another domain; a counter within the domain needs none, and a dead package gets none (R278,
R372, R398). -/
def State.sendCounter (s : State) (c : Fin 1792) (slot : Fin 2) (dom : Fin 8) (pkg : BitVec 11) (d : Payload) : Option State :=
  if dom = s.fabric.dom ∨ s.deadPeer (dom, pkg) then some s
  else s.sendPacket (packageOf dom pkg) (Config.streamOf c slot) none d

/-- A context's request to the counter that a name names (R280, R282). -/
def State.askCounter (s : State) (x : CtxId) (name : Word) (d : Payload) : Option State :=
  if nameFar name then s.sendCounter x.core x.slot (nameDom name) (namePkg name) d else some s

/-- An acknowledgment: the packet it names is sent no more (R396). -/
def State.acked (s : State) (src : BitVec 14) (stream : Fin 64) (seq : BitVec 32) : State :=
  s.modFabric fun f => { f with sent := f.sent.filter fun p => !(p.dst == src && p.stream == stream && p.seq == seq) }

/-! ## Watches of every context and of other domains (R282) -/

/-- What this package sends a package of another domain whose watch its counter has met: the counter's number. -/
def firedBytes (n : Fin 4096) : List Byte := bytesOf 2 n.val

/-- The watches that other domains have asked for are answered as their counters reach the thresholds; one whose port holds
its traffic waits. -/
def State.tellEach (s : State) (l : List Asked) : State :=
  match l with
  | [] => s
  | a :: l =>
    let t := if a.thr.toNat ≤ (s.counter a.num).toNat then s.sendPacket a.src a.stream none (.other (firedBytes a.num)) else none
    match t with
    | some t => (t.modFabric fun f => { f with asked := f.asked.erase a }).tellEach l
    | none => s.tellEach l

def State.tellAsked (s : State) : State := s.tellEach s.fabric.asked

/-- After a counter rises, every context's watches are looked at. -/
def State.allWatches (s : State) (l : List CtxId) : State :=
  match l with
  | [] => s
  | x :: l => (if (s.ctx x).resident then s.fireWatches x else s).allWatches l

/-- Every context's watches look at the counters, and so do the other domains'. -/
def State.watchAll (s : State) : State := s.tellAsked.allWatches s.allCtx

end Sys2Proof.Machine
end

