-- ==== Sys2Proof/Machine/Directory.lean ====
section
/-! DEFINITION. The fabric directory of this package's lines (R382, R383, R399): who holds them, what an access here makes
of that, and what a line holds that another package has written. -/

namespace Sys2Proof.Machine

/-! ## Entries -/

def DirEntry.empty (line : Nat) : DirEntry :=
  { line := line, state := .i, owner := 0, exact := 0, coarse := 0, waitAck := [], newOwner := none, told := false }

def State.dirEntry (s : State) (line : Nat) : DirEntry := (s.fabric.dir.find? (·.line == line)).getD (DirEntry.empty line)

/-- Entries in state I without a request in progress are not listed. -/
def State.setDir (s : State) (e : DirEntry) : State :=
  let rest := s.fabric.dir.filter (·.line != e.line)
  s.modFabric fun f => { f with dir := if e = DirEntry.empty e.line then rest else e :: rest }

/-- The member of the peer set that a package is (R374). -/
def State.peerIndex (s : State) (who : BitVec 11) : Option Nat :=
  (List.range 16).find? fun i =>
    let w := nth s.fabric.peer (i / 4)
    flag w (16 * (i % 4) + 15) && field w (16 * (i % 4)) 11 == who

def State.peerAt (s : State) (i : Nat) : BitVec 11 := field (nth s.fabric.peer (i / 4)) (16 * (i % 4)) 11

/-- A package holds a copy. -/
def State.addSharer (s : State) (e : DirEntry) (who : BitVec 11) : DirEntry :=
  match s.peerIndex who with
  | some i => { e with exact := e.exact ||| BitVec.ofNat 16 (2 ^ i) }
  | none => { e with coarse := e.coarse ||| BitVec.ofNat 64 (2 ^ (who.toNat / 32)) }

/-- The entry after a read: an M owner becomes O, an E owner one of the sharers. -/
def State.entryRead (s : State) (e : DirEntry) : DirEntry :=
  match e.state with
  | .m => { e with state := .o }
  | .e => { s.addSharer e e.owner with state := .s, owner := 0 }
  | .i | .s | .o => e

/-- The packages that an ownership request's invalidations reach (R383): each acknowledges, but for the requester, this
package and the dead. -/
def State.invalidated (s : State) (e : DirEntry) (who : BitVec 11) : List (BitVec 11) :=
  let uni := ((List.range 16).filter fun i => flag e.exact i).map s.peerAt
  let multi := ((List.range 64).filter fun g => flag e.coarse g).flatMap fun g => (List.range 32).map fun y => BitVec.ofNat 11 (32 * g + y)
  let own := match e.state with
    | .e | .m | .o => [e.owner]
    | .i | .s => []
  ((uni ++ multi ++ own).eraseDups).filter fun p => p != who && p != s.fabric.coord && !(s.homeDead p)

/-- The requester becomes owner once no acknowledgment is due; this package's own copies appear in no entry (R382). -/
def State.grantIfDone (s : State) (e : DirEntry) : State :=
  match e.newOwner with
  | some w =>
    if !e.waitAck.isEmpty then s.setDir e
    else if w = s.fabric.coord then s.setDir (DirEntry.empty e.line)
    else s.setDir { DirEntry.empty e.line with state := .m, owner := w }
  | none => s.setDir e

/-! ## Lines that another package has written -/

/-- A line holds what another package has made of it: free bytes and tags, the same to every observer (R379, R383). -/
def State.renew (s : State) (line : Nat) : State :=
  let n := s.free
  let s := { s with
    free := n + 132
    views := s.views.filter fun v => v.key / 128 != line
    l2 := s.l2.filter (·.1 != line)
    damaged := s.damaged.filter fun k => k / 4 != line }
  let s := s.putBytes (128 * line) ((List.range 128).map fun i => Config.freeByte (n + i))
  (List.range 4).foldl (fun s i => s.setTag (4 * line + i) (Config.freeBit (n + 128 + i))) s

/-- This package holds a copy of a line of another package, in a state. -/
def State.setCopy (s : State) (c : RemoteCopy) : State :=
  s.modFabric fun f => { f with copies := c :: f.copies.filter fun d => !(d.home == c.home && d.line == c.line) }

/-- A read here of a line of another package, without a copy of it, obtains the line's bytes (R379, R383). -/
def State.obtainRemote (s : State) (line : Nat) : State :=
  match s.remoteHome line with
  | none => s
  | some (h, l) => if (s.copyOf h l).isSome then s else (s.renew line).setCopy { home := h, line := l, state := .s }

/-- A read here of a line that another package owns, or is about to own, obtains that package's bytes (R383). -/
def State.obtain (s : State) (line : Nat) : State :=
  match s.lineEntry line with
  | none => s.obtainRemote line
  | some e =>
    if e.newOwner = some s.fabric.coord then s
    else if e.newOwner.isSome then s.renew line
    else match e.state with
      | .m => (s.renew line).setDir { s.entryRead e with told := true }
      | .o => if e.told then s else (s.renew line).setDir { e with told := true }
      | .i | .s | .e => s.setDir (s.entryRead e)

def State.obtainAll (s : State) (ks : List Nat) : State := ((ks.map (· / 128)).eraseDups).foldl (fun s line => s.obtain line) s

/-- This package owns a line of another package from now on (R383). -/
def State.ownRemote (s : State) (line : Nat) : State :=
  match s.remoteHome line with
  | none => s
  | some (h, l) => s.setCopy { home := h, line := l, state := .m }

/-- A request here for ownership of a line obtains its bytes and invalidates the copies that other packages hold; the
entry stands until each has acknowledged (R383). -/
def State.claim (s : State) (line : Nat) : State :=
  let s := s.obtain line
  match s.lineEntry line with
  | none => s.ownRemote line
  | some e =>
    if e.newOwner.isSome then s
    else s.grantIfDone { e with waitAck := s.invalidated e s.fabric.coord, newOwner := some s.fabric.coord }

/-- Another package's request for ownership of a line is in progress: a later write here waits for it (R383). -/
def State.contested (s : State) (line : Nat) : Bool :=
  match s.lineEntry line with
  | some e => e.newOwner.any (· != s.fabric.coord)
  | none => false

/-- Between two states something here has written a line that another package's ownership request in progress comes before:
it waits for that request (R383). -/
def State.intrudes (s t : State) : Bool :=
  s.fabric.dir.any fun e => s.contested (globalLine s.fabric.coord e.line) &&
    t.views.any fun v => decide (s.nextId ≤ v.n) && v.key / 128 == globalLine s.fabric.coord e.line

/-- Ownership of some lines is asked for, as far as it is not held yet; true once all of it is. -/
def State.claimAll (s : State) (lines : List Nat) : Bool × State :=
  let t := lines.foldl (fun s line => if (s.lineEntry line).isSome then s.claim line else s) s
  (!(lines.any fun line => (t.lineEntry line).isSome), t)

/-- Acknowledgments of this package's invalidations are due for a line that some writes have reached: those writes have not
performed at domain scope (R247, R383). -/
def State.acksFor (s : State) (f : View → Bool) : Bool :=
  s.fabric.dir.any fun e => e.newOwner == some s.fabric.coord &&
    s.views.any fun v => v.key / 128 == globalLine s.fabric.coord e.line && f v

/-- Acknowledgments are due for a write that a context has made or that its path L sees: what a release of it at a scope
carries along has not performed there (R254, R264, R383). -/
def State.releaseWaits (s : State) (x : CtxId) (scope : Fin 8) : Bool :=
  decide (4 ≤ scope.val) &&
    s.acksFor fun v => v.owner.serial == (s.ctx x).serial || !(v.maybeOld (s.me x) .l)

end Sys2Proof.Machine
end

