-- ==== Sys2Proof/Machine/Float.lean ====
section
/-! DEFINITION. The floating formats (R87 to R89), exact values, rounding (R94) with the flags it raises (R95), and the
arithmetic of R128 and R129 over them. A finite value is a magnitude n · 2^e with a sign; nothing is lost before rounding. -/

namespace Sys2Proof.Machine

/-- The floating formats of R87. -/
inductive FFmt where
  | f64 | f32 | f16 | bf16 | e4m3 | e5m2
deriving DecidableEq, Repr

/-- Exponent bits, fraction bits and bias (R87). -/
def FFmt.eb (f : FFmt) : Nat :=
  match f with
  | .f64 => 11 | .f32 => 8 | .f16 => 5 | .bf16 => 8 | .e4m3 => 4 | .e5m2 => 5
def FFmt.fb (f : FFmt) : Nat :=
  match f with
  | .f64 => 52 | .f32 => 23 | .f16 => 10 | .bf16 => 7 | .e4m3 => 3 | .e5m2 => 2
def FFmt.bias (f : FFmt) : Nat :=
  match f with
  | .f64 => 1023 | .f32 => 127 | .f16 => 15 | .bf16 => 127 | .e4m3 => 7 | .e5m2 => 15
def FFmt.width (f : FFmt) : Nat := 1 + f.eb + f.fb

/-- The canonical NaN (R87, R89). -/
def FFmt.nan (f : FFmt) : Nat :=
  match f with
  | .f64 => 0x7FF8_0000_0000_0000 | .f32 => 0x7FC0_0000 | .f16 => 0x7E00 | .bf16 => 0x7FC0 | .e4m3 => 0x7F | .e5m2 => 0x7E

/-- A value of a format, exactly. -/
inductive FVal where
  | nan (signalling : Bool)
  | inf (neg : Bool)
  | num (neg : Bool) (n : Nat) (e : Int)    -- (−1)^neg · n · 2^e
deriving DecidableEq, Repr

/-- The value of a bit pattern (R88); which NaNs are signalling (R89). -/
def FFmt.decode (f : FFmt) (x : Nat) : FVal :=
  let s := x / 2 ^ (f.eb + f.fb) % 2 == 1
  let ex := x / 2 ^ f.fb % 2 ^ f.eb
  let fr := x % 2 ^ f.fb
  if f = .e4m3 ∧ ex = 15 ∧ fr = 7 then .nan false
  else if ex = 0 then .num s fr (1 - f.bias - f.fb)
  else if ex = 2 ^ f.eb - 1 ∧ f ≠ .e4m3 then
    if fr = 0 then .inf s else .nan (f ≠ .e5m2 && fr / 2 ^ (f.fb - 1) == 0)
  else .num s (2 ^ f.fb + fr) ((ex : Int) - f.bias - f.fb)

/-- Rounding modes (R94). -/
inductive RMode where
  | rne | rz | ru | rd
  | sr (r k : Nat)         -- k random bits r
deriving DecidableEq, Repr

/-- The mode of `%round` for an operation without random bits: SR rounds as RNE (R94). -/
def modeOf (round : Word) : RMode :=
  match bits round 0 3 with
  | 1 => .rz | 2 => .ru | 3 => .rd | _ => .rne

/-- n / 2^d rounded to an integer, for the magnitude of a value of that sign; and whether it was inexact (R94). -/
def roundShift (m : RMode) (neg : Bool) (n d : Nat) : Nat × Bool :=
  let q := n / 2 ^ d
  let r := n % 2 ^ d
  if r = 0 then (q, false)
  else
    let up : Bool := match m with
      | .rne => decide (2 ^ d < 2 * r) || (2 * r == 2 ^ d && q % 2 == 1)
      | .rz => false
      | .ru => !neg
      | .rd => neg
      | .sr rnd k =>
        if neg then !(decide (rnd < (2 ^ d - r) * 2 ^ k / 2 ^ d)) else decide (rnd < r * 2 ^ k / 2 ^ d)
    (if up then q + 1 else q, true)

/-- n · 2^e rounded to a multiple of 2^g: the multiple and whether it was inexact. -/
def roundAt (m : RMode) (neg : Bool) (n : Nat) (e g : Int) : Nat × Bool :=
  if g ≤ e then (n * 2 ^ (e - g).toNat, false) else roundShift m neg n (g - e).toNat

/-- floor(log2(n · 2^e)) for n above 0. -/
def msb (n : Nat) (e : Int) : Int := (Nat.log2 n : Int) + e

/-- The pattern of a magnitude q · 2^g that is a finite value of the format. -/
def FFmt.pattern (f : FFmt) (neg : Bool) (q : Nat) (g : Int) : Nat :=
  let (q, g) := if 2 ^ (f.fb + 1) ≤ q then (q / 2, g + 1) else (q, g)
  let s := neg.toNat * 2 ^ (f.eb + f.fb)
  if q < 2 ^ f.fb then s + q else s + (g + f.fb + f.bias).toNat * 2 ^ f.fb + (q - 2 ^ f.fb)

/-- The largest finite magnitude's pattern without sign (R87). -/
def FFmt.maxFinite (f : FFmt) : Nat :=
  match f with
  | .e4m3 => 0x7E
  | f => (2 ^ f.eb - 2) * 2 ^ f.fb + (2 ^ f.fb - 1)

/-- A magnitude q · 2^g exceeds the largest finite value. -/
def FFmt.overflows (f : FFmt) (q : Nat) (g : Int) : Bool :=
  match f.decode f.maxFinite with
  | .num _ n e => decide (n * 2 ^ (e - min e g).toNat < q * 2 ^ (g - min e g).toNat)
  | _ => false

/-- What an overflow gives (R94). -/
def FFmt.overflow (f : FFmt) (m : RMode) (neg : Bool) : Nat :=
  let s := neg.toNat * 2 ^ (f.eb + f.fb)
  let inf := s + (2 ^ f.eb - 1) * 2 ^ f.fb
  let mx := s + f.maxFinite
  if f = .e4m3 then mx
  else match m with
    | .rne => inf
    | .rz => mx
    | .ru => if neg then mx else inf
    | .rd => if neg then inf else mx
    | .sr _ _ => mx

/-- A finite exact value rounded to a format, with the flags it raises (R94, R95). Overflow and tininess are judged on
the unbounded grid; what is delivered lies on the format's own, subnormals included (R89). -/
def FFmt.round (f : FFmt) (m : RMode) (neg : Bool) (n : Nat) (e : Int) : Nat × FpFlags :=
  if n = 0 then (neg.toNat * 2 ^ (f.eb + f.fb), FpFlags.none)
  else
    let gw := msb n e - f.fb
    let (wq, wx) := roundAt m neg n e gw
    if f.overflows wq gw then (f.overflow m neg, { FpFlags.none with of := true, nx := true })
    else
      let emin : Int := 1 - f.bias
      let tiny := decide (msb wq gw < emin)
      let g := max gw (emin - f.fb)
      let (q, x) := roundAt m neg n e g
      let _ := wx
      (f.pattern neg q g, { FpFlags.none with uf := tiny && x, nx := x })

/-- A value as a format delivers it: every NaN canonical (R89). -/
def FFmt.encode (f : FFmt) (m : RMode) (v : FVal) : Nat × FpFlags :=
  match v with
  | .nan _ => (f.nan, FpFlags.none)
  | .inf neg => if f = .e4m3 then (f.overflow .rz neg, FpFlags.none)
                else (neg.toNat * 2 ^ (f.eb + f.fb) + (2 ^ f.eb - 1) * 2 ^ f.fb, FpFlags.none)
  | .num neg n e => f.round m neg n e

/-! ## Exact arithmetic -/

def FVal.isNan (v : FVal) : Bool := match v with | .nan _ => true | _ => false
def FVal.isSnan (v : FVal) : Bool := match v with | .nan b => b | _ => false

/-- A signed integer multiple of 2^e. -/
def signed (neg : Bool) (n : Nat) : Int := if neg then -(n : Int) else n

/-- An exact sum of two finite values; the sign of a zero sum is − only where both are −, or under RD where the signs
differ (IEEE 754-2019, R128). -/
def addFin (m : RMode) (s1 : Bool) (n1 : Nat) (e1 : Int) (s2 : Bool) (n2 : Nat) (e2 : Int) : FVal :=
  let e := min e1 e2
  let x := signed s1 (n1 * 2 ^ (e1 - e).toNat) + signed s2 (n2 * 2 ^ (e2 - e).toNat)
  if x = 0 then .num (if s1 = s2 then s1 else m == .rd) 0 e else .num (decide (x < 0)) x.natAbs e

/-- The result of an operation before rounding, and whether it is invalid. -/
structure Exact where
  v  : FVal
  nv : Bool
deriving DecidableEq, Repr

def FVal.neg (v : FVal) : FVal :=
  match v with
  | .nan s => .nan s
  | .inf s => .inf !s
  | .num s n e => .num (!s) n e

/-- Addition (R128). -/
def addVal (m : RMode) (a b : FVal) : Exact :=
  let snan := a.isSnan || b.isSnan
  match a, b with
  | .nan _, _ => ⟨.nan false, snan⟩
  | _, .nan _ => ⟨.nan false, snan⟩
  | .inf s, .inf t => if s = t then ⟨.inf s, false⟩ else ⟨.nan false, true⟩
  | .inf s, _ => ⟨.inf s, false⟩
  | _, .inf t => ⟨.inf t, false⟩
  | .num s1 n1 e1, .num s2 n2 e2 => ⟨addFin m s1 n1 e1 s2 n2 e2, false⟩

/-- Multiplication (R128). -/
def mulVal (a b : FVal) : Exact :=
  let snan := a.isSnan || b.isSnan
  match a, b with
  | .nan _, _ => ⟨.nan false, snan⟩
  | _, .nan _ => ⟨.nan false, snan⟩
  | .inf s, .inf t => ⟨.inf (s != t), false⟩
  | .inf s, .num t n _ => if n = 0 then ⟨.nan false, true⟩ else ⟨.inf (s != t), false⟩
  | .num t n _, .inf s => if n = 0 then ⟨.nan false, true⟩ else ⟨.inf (s != t), false⟩
  | .num s1 n1 e1, .num s2 n2 e2 => ⟨.num (s1 != s2) (n1 * n2) (e1 + e2), false⟩

/-- e + x · y with one rounding (R128): 0 × infinity is invalid whatever the addend. -/
def fmaVal (m : RMode) (x y e : FVal) : Exact :=
  let p := mulVal x y
  let r := addVal m p.v e
  ⟨r.v, p.nv || r.nv⟩

/-- An operation's delivered pattern and flags. -/
def FFmt.deliver (f : FFmt) (m : RMode) (r : Exact) : Nat × FpFlags :=
  let (x, fl) := f.encode m r.v
  (x, { fl with nv := r.nv })

/-- x < y on values that are no NaN, with −0 below +0 where `zeros` says so. -/
def ltVal (zeros : Bool) (x y : FVal) : Bool :=
  match x, y with
  | .nan _, _ => false
  | _, .nan _ => false
  | .inf s, .inf t => s && !t
  | .inf s, .num _ _ _ => s
  | .num _ _ _, .inf t => !t
  | .num s1 n1 e1, .num s2 n2 e2 =>
    let e := min e1 e2
    let a := signed s1 (n1 * 2 ^ (e1 - e).toNat)
    let b := signed s2 (n2 * 2 ^ (e2 - e).toNat)
    decide (a < b) || (zeros && a == 0 && b == 0 && s1 && !s2)

/-- x = y, with −0 = +0. -/
def eqVal (x y : FVal) : Bool := !x.isNan && !y.isNan && !(ltVal false x y) && !(ltVal false y x)

/-- minimumNumber or maximumNumber on patterns: the pattern and whether a NaN signalled (R129). -/
def FFmt.minMax (f : FFmt) (isMax : Bool) (x y : Nat) : Nat × FpFlags :=
  let a := f.decode x
  let b := f.decode y
  let fl := { FpFlags.none with nv := a.isSnan || b.isSnan }
  if a.isNan && b.isNan then (f.nan, fl)
  else if a.isNan then (y, fl)
  else if b.isNan then (x, fl)
  else if isMax then (if ltVal true a b then y else x, fl) else (if ltVal true b a then y else x, fl)

def FFmt.add (f : FFmt) (m : RMode) (x y : Nat) : Nat × FpFlags := f.deliver m (addVal m (f.decode x) (f.decode y))
def FFmt.sub (f : FFmt) (m : RMode) (x y : Nat) : Nat × FpFlags := f.deliver m (addVal m (f.decode x) (f.decode y).neg)
def FFmt.mul (f : FFmt) (m : RMode) (x y : Nat) : Nat × FpFlags := f.deliver m (mulVal (f.decode x) (f.decode y))

/-- e + x·y, x·y − e and e − x·y (R128). -/
def FFmt.fma (f : FFmt) (m : RMode) (x y e : Nat) : Nat × FpFlags :=
  f.deliver m (fmaVal m (f.decode x) (f.decode y) (f.decode e))
def FFmt.fms (f : FFmt) (m : RMode) (x y e : Nat) : Nat × FpFlags :=
  f.deliver m (fmaVal m (f.decode x) (f.decode y) (f.decode e).neg)
def FFmt.fnma (f : FFmt) (m : RMode) (x y e : Nat) : Nat × FpFlags :=
  f.deliver m (fmaVal m (f.decode x).neg (f.decode y) (f.decode e))

/-! ## Random bits (R148, R151) -/

/-- The keyed hash (R148). -/
def hash (key x : Word) : Word :=
  let v := x ^^^ key
  let v := v ^^^ (v >>> 31)
  let v := v * 0x8F3B6D21C95AE417
  let v := v ^^^ ((key >>> 32) ||| (key <<< 32))
  let v := v ^^^ (v >>> 29)
  let v := v * 0xE7D14C0B39A5F26B
  v ^^^ (v >>> 32)

/-- `srbits(seed, addr, step, k)` (R151). -/
def srbits (seed : Word) (addr : BitVec 56) (step : Byte) (k : Nat) : Nat :=
  bits (hash seed (BitVec.ofNat 64 (step.toNat * 2 ^ 56 + addr.toNat))) (64 - k) k

end Sys2Proof.Machine
end

