-- ==== Sys2Proof/Machine/Stores.lean ====
section
/-! DEFINITION. Stores of a context from their issue to their performance: the withhold buffer (R318), the context's own
reads of its stores (R144), released stores in transit, and the replay queue (R261, R262); the L1's dirty lines (R229). -/

namespace Sys2Proof.Machine

/-! ## The L1 (R229) -/

/-- The number of sets of a core's L1: 32 · ca, for the cache share in force (R220, R229). -/
def State.cacheGranules (s : State) (c : Fin 1792) : Nat :=
  let w0 := (s.core c).carve.get 0
  let w1 := (s.core c).carve.get 1
  if s.hostsTwo c then 32 - max (bits w0 0 6) (bits w1 0 6) - bits w0 16 6 - bits w1 16 6 else bits w0 8 6

/-- The register granules in force (R220). -/
def State.regGranules (s : State) (c : Fin 1792) : Nat :=
  let w0 := (s.core c).carve.get 0
  let w1 := (s.core c).carve.get 1
  if s.hostsTwo c then max (bits w0 0 6) (bits w1 0 6) else bits w0 0 6

/-- The re-reference values of a set's lines are raised until one is 3, at most three times; a load block has one value
for all its lines (R229, R230). -/
def ageSet (ls : List L1Line) (set sets : Nat) (fuel : Nat) : List L1Line :=
  match fuel with
  | 0 => ls
  | f + 1 =>
    if ls.any fun l => l.line % sets == set && l.rrpv == 3 then ls
    else
      let blks := ls.filterMap fun l => if l.line % sets == set then l.block else none
      let raised (l : L1Line) : Bool := l.line % sets == set || (match l.block with | some b => blks.contains b | none => false)
      ageSet (ls.map fun l => if raised l then { l with rrpv := l.rrpv + 1 } else l) set sets f

/-- Lines leave the cache: dirty ones are written back and counted; a block loses all its lines at once (R229, R230). -/
def Core.evict (k : Core) (victims : List L1Line) : Core :=
  let blks := (victims.filterMap (·.block)).eraseDups
  let gone := k.l1.filter fun l => victims.contains l || (match l.block with | some b => blks.contains b | none => false)
  { k with
    l1 := k.l1.filter fun l => !(gone.contains l)
    l1wb := k.l1wb + BitVec.ofNat 64 (gone.filter (·.dirty)).length
    blkev := k.blkev + BitVec.ofNat 64 blks.length
    blocks := k.blocks.filterMap fun b =>
      if blks.contains b.id then (if b.due.isSome then some { b with lines := [] } else none) else some b }

/-- Lines are no longer part of the load blocks they were in: a block without lines, whose completion has been applied, is none
(R230). -/
def Core.leaveBlocks (k : Core) (ls : List Nat) : Core :=
  { k with blocks := k.blocks.filterMap fun b =>
      let b := { b with lines := b.lines.filter fun n => !(ls.contains n) }
      if b.lines.isEmpty && b.due.isNone then none else some b }

/-- A core's copies of some lines are invalid. -/
def Core.invalidLines (k : Core) (ls : List Nat) : Core :=
  { k with l1 := k.l1.filter fun l => !(ls.contains l.line) }.leaveBlocks ls

/-- A cacheable access looks its line up: a hit sets the re-reference value, of the line or of its block, to 0; a miss
allocates the line at a reuse distance in place of the victim (R229). -/
def Core.access (k : Core) (sets line dist : Nat) : Core :=
  let k := { k with l1acc := k.l1acc + 1 }
  match k.l1.find? (·.line == line) with
  | some h => { k with l1 := k.l1.map fun l => if l.line == line || (h.block.isSome && l.block == h.block) then { l with rrpv := 0 } else l }
  | none =>
    let k := { k with l1miss := k.l1miss + 1 }
    let set := line % sets
    let mine := k.l1.filter fun l => l.line % sets == set
    let add (k : Core) (w : Fin 16) : Core :=
      { k with l1 := k.l1 ++ [{ line := line, way := w, rrpv := dist, block := none, dirty := false, undo := Undo.none }] }
    match (List.finRange 16).find? fun w => !(mine.any (·.way == w)) with
    | some w => add k w
    | none =>
      let k := { k with l1 := ageSet k.l1 set sets 3 }
      match (List.finRange 16).find? fun w => k.l1.any fun l => l.line % sets == set && l.rrpv == 3 && l.way == w with
      | some w => add (k.evict (k.l1.filter fun l => l.line % sets == set && l.way == w)) w
      | none => k

/-- Of what two sets of writes have replaced, in this order. -/
def Undo.join (u w : Undo) : Undo where
  bytes := u.bytes ++ w.bytes.filter fun p => !(u.bytes.any (·.1 == p.1))
  tags := u.tags ++ w.tags.filter fun p => !(u.tags.any (·.1 == p.1))

/-- What writes to some keys are about to replace. -/
def State.undoOf (s : State) (ks : List Nat) : Undo where
  bytes := ks.map fun k => (k, s.byteAt k)
  tags := (ks.map (· / 32)).eraseDups.map fun k => (k, s.lostAt (32 * k))

/-- The replaced bytes and tags stand again, and no observer sees the writes that replaced them. -/
def State.restore (s : State) (u : Undo) : State :=
  let s := u.bytes.foldl (fun s p => s.putByte p.1 p.2) s
  let s := u.tags.foldl (fun s p => s.setTag p.1 p.2) s
  { s with views := s.views.filter fun v => !(u.bytes.any (·.1 == v.key)) }

/-- A line's dirty bytes have come to its home's L2. -/
def l2Join (m : List (Nat × Undo)) (line : Nat) (u : Undo) : List (Nat × Undo) :=
  match m with
  | [] => [(line, u)]
  | (n, w) :: m => if n = line then (n, w.join u) :: m else (n, w) :: l2Join m line u

/-- Lines are written back to their homes' L2s. -/
def State.toL2 (s : State) (ls : List L1Line) : State := { s with l2 := ls.foldl (fun m l => l2Join m l.line l.undo) s.l2 }

/-- A core's L1 changes: what was dirty there and no longer is has been written back. -/
def State.modL1 (s : State) (c : Fin 1792) (f : Core → Core) : State :=
  let k := s.core c
  let k' := f k
  (s.setCore c k').toL2 (k.l1.filter fun l => l.dirty && !(k'.l1.any fun m => m.line == l.line && m.dirty))

/-- A line's dirty copy is written back and stays valid (R356). -/
def Core.cleanLine (k : Core) (line : Nat) : Core :=
  let n := (k.l1.filter fun l => l.line == line && l.dirty).length
  if n = 0 then k
  else { k with l1wb := k.l1wb + BitVec.ofNat 64 n,
                l1 := k.l1.map fun l => if l.line == line then { l with dirty := false, undo := Undo.none } else l }

/-- The L1s of some cores change. -/
def State.modL1s (s : State) (which : Fin 1792 → Bool) (f : Core → Core) : State :=
  (s.cores.filter fun p => which p.1).foldl (fun s p => s.modL1 p.1 f) s

/-- A line's dirty copies are written back before an engine writes at its home. -/
def State.cleanLine (s : State) (line : Nat) : State :=
  if s.cores.any fun p => p.2.l1.any fun l => l.line == line && l.dirty then s.modL1s (fun _ => true) (·.cleanLine line) else s

/-- A cacheable access of a core (R229). -/
def State.cacheAccess (s : State) (c : Fin 1792) (key dist : Nat) : State :=
  s.modL1 c fun k => k.access (max 1 (32 * s.cacheGranules c)) (key / 128) dist

/-- The lines that a span of n bytes meets, each looked up once (R229). -/
def State.cacheSpan (s : State) (c : Fin 1792) (ks : List Nat) (dist : Nat) : State :=
  ((ks.map (· / 128)).eraseDups).foldl (fun s line => s.cacheAccess c (128 * line) dist) s

/-- A write of bytes makes their line dirty in the writer's L1; what the home holds of them is kept beside it. A copy that
was dirty in another core's L1 moves with its ownership (R229, R232). -/
def State.dirtyLine (s : State) (c : Fin 1792) (line : Nat) (ks : List Nat) : State :=
  let s := s.claim line
  let others : List L1Line := s.cores.flatMap fun (p : Fin 1792 × Core) =>
    if p.1 = c then [] else p.2.l1.filter fun l => l.line == line && l.dirty
  let u := (others.foldl (fun u l => u.join l.undo) Undo.none).join (s.undoOf ks)
  let s := { s with cores := s.cores.map fun (p : Fin 1792 × Core) => if p.1 = c then p else
      (p.1, p.2.invalidLines [line]) }
  s.modCore c fun k => { k with l1 := k.l1.map fun l =>
    if l.line == line then { l with dirty := true, undo := l.undo.join u } else l }

/-- The lines of the written keys become dirty, each looked up first (R229). -/
def State.dirtySpan (s : State) (c : Fin 1792) (ks : List Nat) : State :=
  ((ks.map (· / 128)).eraseDups).foldl (fun s line =>
    (s.cacheAccess c (128 * line) 2).dirtyLine c line (ks.filter fun k => k / 128 == line)) s

/-- An engine's write at its home: dirty copies of the line come first, and the line is dirty in the home's L2. -/
def State.dirtyHome (s : State) (ks : List Nat) : State :=
  ((ks.map (· / 128)).eraseDups).foldl (fun s line =>
    let s := (s.claim line).cleanLine line
    { s with l2 := l2Join s.l2 line (s.undoOf (ks.filter fun k => k / 128 == line)) }) s

/-! ## Own reads (R144, R252) -/

/-- The bytes of an own store that a read on its path sees: the last store's in program order. -/
def laneByte (ls : List Lane) (key : Loc → Nat) (k : Nat) : Option Byte :=
  ls.foldl (fun r l => let b := key l.loc
    if b ≤ k && k < b + l.bytes.length then some (l.bytes.getD (k - b) 0) else r) none

/-- A store of bytes, not of an atomic or a counter. -/
def StoreKind.isPlain (k : StoreKind) : Bool :=
  match k with
  | .plain | .span => true
  | _ => false

/-- The context's own stores that a path-L or path-X read sees, withheld or released (R252): not `vamo` (R234). -/
def Ctx.ownStores (c : Ctx) (p : Path) : List StoreOp :=
  (c.released ++ c.withheld).filter fun o => o.path == p && o.kind.isPlain

/-- A byte as the context's path reads it over its own stores. -/
def State.ownByte (s : State) (os : List StoreOp) (k : Nat) (b : Byte) : Byte :=
  (os.foldl (fun r o => match laneByte o.lanes s.keyOf k with | some x => some x | none => r) none).getD b

/-- The writes of a lane's bytes. -/
def State.laneWrites (s : State) (l : Lane) : List ByteWrite :=
  l.bytes.mapIdx fun i b => { key := s.keyOf (l.loc.add i), val := b, lost := l.lost }

/-- The tag of a key's sector after an access of which these are the writes (R265). -/
def tagAfter (t : Bool) (ws : List ByteWrite) (k : Nat) : Bool :=
  let mine := ws.filter fun w => w.key / 32 == k / 32
  mine.any (·.lost) || (t && !(covers mine (k / 32)))

/-- The tag of a key's sector as the context reads it over its own stores (R83, R231, R265). -/
def State.ownLost (s : State) (os : List StoreOp) (t : Bool) (k : Nat) : Bool :=
  os.foldl (fun t o => tagAfter t (o.lanes.flatMap s.laneWrites) k) t

/-- What a read answers: bytes, and whether a sector read is lost (R83, R231). -/
structure ReadOut where
  bytes : List Byte
  lost  : Bool
deriving DecidableEq, Repr

/-- What bytes of lost sectors read as: those last written or some others (R345), as a free bit says. -/
def scramble (n : Nat) (b : List Byte) : List Byte :=
  if Config.freeBit n then b else b.mapIdx fun i _ => Config.freeByte (n + i)

/-- Bytes as they stand in memory, each with its key and tag: what an error has hit reads as some bytes (R345). -/
def State.garble (s : State) (r : List (Nat × Byte × Bool)) : List Byte × State :=
  let b := r.map (·.2.1)
  let hit (q : Nat × Byte × Bool) : Bool := q.2.2 && s.damagedAt q.1
  if r.any hit then
    ((r.zip (scramble s.free b)).map fun q => if hit q.1 then q.2 else q.1.2.1, { s with free := s.free + r.length })
  else (b, s)

/-- A read of n bytes at a place by a context on a path, with an access of a class (R144, R247, R265, R345, R398): what stands
in memory, and the context's own stores over it. -/
def State.readAs (s : State) (o : Owner) (p : Path) (c : Fin 16) (l : Loc) (n : Nat) : ReadOut × State :=
  if s.homeDead l.home then ({ bytes := List.replicate n 0, lost := true }, s)
  else
    let ks := (List.range n).map fun i => s.keyOf (l.add i)
    let s := s.obtainAll ks
    let os := (s.ctx o.ctx).ownStores p
    let (r, s) := s.observe o p c ks
    let (bs, s) := s.garble (ks.zip r)
    ({ bytes := (ks.zip bs).map fun q => s.ownByte os q.1 q.2, lost := (ks.zip r).any fun q => s.ownLost os q.2.2 q.1 }, s)

/-- A read whose single-copy atomic unit is the byte (R249). -/
def State.readEach (s : State) (o : Owner) (p : Path) (c : Fin 16) (l : Loc) (n : Nat) : ReadOut × State :=
  match n with
  | 0 => ({ bytes := [], lost := false }, s)
  | n + 1 =>
    let (r, s) := s.readAs o p c l 1
    let (q, s) := s.readEach o p c (l.add 1) n
    ({ bytes := r.bytes ++ q.bytes, lost := r.lost || q.lost }, s)

/-! ## Home checks -/

/-- A write to a place needs a private line that is not there yet: its stage, version and line (R367). -/
def State.needsPriv (s : State) (l : Loc) : Option (Fin 8 × Fin 8 × Nat) :=
  match l.ver, s.regionOf l.pa.toNat with
  | some v, some k =>
    let line := homeKey l.home l.pa.toNat / 128
    if s.versionLive k v && !(s.priv.contains (k, v, line)) then some (k, v, line) else none
  | _, _ => none

/-- A private line is made for a write through a live version (R367). -/
def State.privatise (s : State) (l : Loc) : State :=
  match s.needsPriv l with
  | none => s
  | some (k, v, line) =>
    let s := s.obtain line
    let key := privKey k v l.home (l.pa.toNat / 128 * 128)
    let s' := s.putBytes key (s.bytesAt (line * 128) 128)
    let ks := (List.range 4).filterMap fun i => if s.lostAt (line * 128 + 32 * i) then some ((key + 32 * i) / 32) else none
    let t := { s' with priv := (k, v, line) :: s'.priv }.loseSectors ks
    if (List.range 4).any fun i => s.damagedAt (line * 128 + 32 * i) then t.damage ks else t

/-- The lines the private-line pool holds (R366). -/
def poolLines (vpool : Word) : Nat := bits vpool 0 21 * 2 ^ 21 / 128

/-- The home refuses a write of n bytes that arrives: nothing is there, a scratchpad ends before it, the version is not
live, or the pool is full (R222, R351, R367). -/
def State.homeRefuses (s : State) (l : Loc) (n : Nat) : Bool :=
  let pa := l.pa.toNat
  !(physExists pa) ||
  (isWindow pa && windowSpace pa == 0 &&
    !(s.scratchHolds ⟨windowCore pa % 1792, Nat.mod_lt _ (by decide)⟩ (windowOff pa) n)) ||
  (match l.ver, s.regionOf pa with
   | some v, some k => !(s.versionLive k v) || ((s.needsPriv l).isSome && decide (poolLines s.vpool ≤ s.priv.length))
   | some _, none => true
   | none, _ => false)

/-! ## Performing a store -/

def StoreOp.author (o : StoreOp) (w : Owner) : Author :=
  { owner := w, path := some o.path, cmd := none, cls := o.cls, scope := o.scope }

/-- The new 32-bit value of a `vamo` lane (R234, R235). -/
def vamoValue (fn : Nat) (t : VFmt) (seed : Word) (step : Byte) (va : BitVec 56) (old x : BitVec 32) : BitVec 32 :=
  let two (f : Nat → Nat → Nat → Nat) : BitVec 32 :=
    BitVec.ofNat 32 (f 0 (old.toNat % 2 ^ 16) (x.toNat % 2 ^ 16) + 2 ^ 16 * f 1 (old.toNat / 2 ^ 16) (x.toNat / 2 ^ 16))
  match fn with
  | 0 => match t with
    | .f32 => BitVec.ofNat 32 (FFmt.f32.add .rne old.toNat x.toNat).1
    | .bf16 => two fun _ a b => (FFmt.bf16.add .rne a b).1
    | _ => old + x
  | 1 => two fun i a b => (FFmt.bf16.add (.sr (srbits seed (va + BitVec.ofNat 56 (2 * i)) step 16) 16) a b).1
  | 2 => if t = .n32 then (if x.toNat < old.toNat then x else old) else (if x.toInt < old.toInt then x else old)
  | 3 => if t = .n32 then (if old.toNat < x.toNat then x else old) else (if old.toInt < x.toInt then x else old)
  | _ => match t with
    | .bf16 => two fun _ a b => (FFmt.bf16.minMax true a b).1
    | _ => BitVec.ofNat 32 (FFmt.f32.minMax true old.toNat x.toNat).1

/-- One lane of a store performs: its bytes are written, or its atomic is done (R234, R252). A lane addressed to a dead
package is discarded (R398). -/
def State.performLane (s : State) (w : Owner) (o : StoreOp) (l : Lane) : State :=
  if s.homeDead l.loc.home then s.setLostw w
  else if isWindow l.loc.pa.toNat && windowSpace l.loc.pa.toNat == 5 then
    let e : CtlWrite := {
      core := ⟨windowCore l.loc.pa.toNat % 1792, Nat.mod_lt _ (by decide)⟩, off := BitVec.ofNat 22 (windowOff l.loc.pa.toNat)
      val := BitVec.ofNat 64 (ofBytes l.bytes), writer := .store w.ctx l.va }
    { s with ctlWrites := s.ctlWrites ++ [e] }
  else
    let s := s.privatise l.loc
    let k := s.keyOf l.loc
    let s := if isWindow l.loc.pa.toNat then s else s.dirtySpan w.ctx.core ((s.laneWrites l).map (·.key))
    let (bytes, lost) := match o.kind with
      | .vamo fn t step seed =>
        (bytesOf 4 (vamoValue fn.val t seed step l.va (BitVec.ofNat 32 (ofBytes (s.bytesAt k 4))) (BitVec.ofNat 32 (ofBytes l.bytes))).toNat,
          l.lost || s.lostAt k)
      | _ => (l.bytes, l.lost)
    let l := { l with bytes := bytes, lost := lost }
    let ws := s.laneWrites l
    let s := (match o.kind with
      | .span => s.writeEach (o.author w) ws
      | _ => s.writeUnit (o.author w) ws).tagAll (o.author w) ws
    if lost then s.setLostw w else s

def State.performLanes (s : State) (w : Owner) (o : StoreOp) (ls : List Lane) : State :=
  match ls with
  | [] => s
  | l :: ls => (s.performLane w o l).performLanes w o ls

/-- The sectors a whole store covers from clean data become clean, whatever the number of its lanes (R265). -/
def State.settleTags (s : State) (w : Owner) (o : StoreOp) : State :=
  if o.kind.isPlain then s.tagAll (o.author w) (o.lanes.flatMap s.laneWrites) else s

/-- A release performs (R254, R279): a class-15 store, or a counter add. -/
def State.performCounter (s : State) (w : Owner) (o : StoreOp) : State :=
  match o.kind with
  | .counter far dom pkg num add =>
    let s := s.publish w.ctx o.scope
    let s := if far then (s.sendCounter w.ctx.core w.ctx.slot dom pkg (.add num add)).getD s else s
    let name : Word := BitVec.ofNat 64 (far.toNat * 2 ^ 30 + dom.val * 2 ^ 27 + pkg.toNat * 2 ^ 16)
    if s.nameHere name then s.addCounter num add else s
  | _ => s

/-- A released store performs at its home (R247, R252): a class-15 store publishes first. -/
def State.performStore (s : State) (w : Owner) (o : StoreOp) : State :=
  let s := if o.cls = 15 then s.publish w.ctx o.scope else s
  ((s.performLanes w o o.lanes).settleTags w o).performCounter w o

/-! ## Order among released stores (R251, R254, R261) -/

/-- The 64 KiB-aligned ranges a store touches, by virtual address and by place. -/
def StoreOp.ranges (o : StoreOp) : List (Option (BitVec 11) × Nat) :=
  (o.lanes.flatMap fun l => [(none, l.va.toNat / 2 ^ 16), (some l.loc.home, l.loc.pa.toNat / 2 ^ 16)]).eraseDups

def StoreOp.meets (a b : StoreOp) : Bool := a.ranges.any b.ranges.contains

/-- Two stores have a byte in common (R248). -/
def StoreOp.overlaps (a b : StoreOp) : Bool :=
  a.lanes.any fun l => b.lanes.any fun m =>
    l.loc.home == m.loc.home && decide (l.loc.pa.toNat < m.loc.pa.toNat + m.bytes.length) &&
    decide (m.loc.pa.toNat < l.loc.pa.toNat + l.bytes.length)

/-- Counter adds are no accesses of path L: a later store does not wait for them. -/
def StoreKind.takesPlace (k : StoreKind) : Bool :=
  match k with
  | .counter .. => false
  | _ => true

/-- A store that performs as a release (R254, R279): a class-15 store, or a counter add. -/
def StoreOp.releases (o : StoreOp) : Bool :=
  o.path == .l && (o.cls == 15 || !o.kind.takesPlace)

/-- The store stands in the replay queue: parked, or sent again and not yet performed (R261, R262). -/
def StoreOp.queued (o : StoreOp) : Bool := o.parked.isSome || o.resent.isSome

/-- Of two stores in transit the earlier keeps the later from performing: a release waits for all of path L, and a store for
those of its class, those it shares a byte with, and on path X for all (R248, R251, R253). -/
def StoreOp.precedes (a b : StoreOp) : Bool :=
  a.path == b.path && (b.path == .x || b.releases || (a.cls == b.cls && a.kind.takesPlace) || a.overlaps b)

/-- An earlier store of the context that keeps a later one from performing. One in the replay queue keeps back a release, and
the stores to its ranges on either path; of the order with others, that between two sent again stands (R261, R262). -/
def StoreOp.blocks (a b : StoreOp) : Bool :=
  if a.queued then b.releases || a.meets b || (a.resent.isSome && b.resent.isSome && a.precedes b)
  else a.precedes b

/-- The n-th released store may perform now. -/
def Ctx.mayPerform (c : Ctx) (n : Nat) : Bool :=
  match c.released[n]? with
  | none => false
  | some o => o.parked.isNone && !((c.released.take n).any fun a => a.blocks o)

/-- The n-th released store of a context may perform now: another package's ownership request holds it up, and a release
at domain scope or wider waits for the acknowledgments of invalidations, and an add to a counter of another domain for its
port (R247, R383, R394). -/
def State.mayPerform (s : State) (x : CtxId) (n : Nat) : Bool :=
  (s.ctx x).mayPerform n &&
  (match (s.ctx x).released[n]? with
   | some o =>
     !(o.lanes.any fun l => s.contested (s.keyOf l.loc / 128)) && !(o.releases && s.releaseWaits x o.scope) &&
     (match o.kind with
      | .counter true dom pkg num add => (s.sendCounter x.core x.slot dom pkg (.add num add)).isSome
      | _ => true)
   | none => false)

/-- A store's lanes that the home takes and those it refuses, each after the private lines of those before it (R261,
R367). -/
def State.splitLanes (s : State) (ls : List Lane) : List Lane × List Lane :=
  match ls with
  | [] => ([], [])
  | l :: ls =>
    if s.homeRefuses l.loc l.bytes.length then
      let (good, bad) := s.splitLanes ls
      (good, l :: bad)
    else
      let (good, bad) := (match s.needsPriv l.loc with
        | some p => { s with priv := p :: s.priv }
        | none => s).splitLanes ls
      (l :: good, bad)

/-- The n-th released store leaves the list. -/
def Ctx.dropReleased (c : Ctx) (n : Nat) : Ctx := { c with released := c.released.eraseIdx n }

/-- A store sent again after a refusal, behind a store that is refused again: it stays parked, unsent (R262). -/
def StoreOp.backBehind (a o : StoreOp) : StoreOp :=
  match o.resent with
  | some e => if a.meets o then { o with parked := some e, resent := none } else o
  | none => o

/-- The n-th released store is parked with a cause: counted, and the supervisor told (R261, R262). -/
def State.park (s : State) (x : CtxId) (n : Nat) (e : Cause) : State :=
  let c := s.ctx x
  match c.released[n]? with
  | none => s
  | some o =>
    let s := s.setCtx x { c with released := c.released.take n ++ { o with parked := some e, resent := none } ::
                                   (c.released.drop (n + 1)).map o.backBehind,
                                 reg := { c.reg with refused := c.reg.refused + 1 } }
    s.notice .replay x ((o.lanes.head?.map (·.va)).getD 0) (causeCode e)

/-- Of a `vamo` some lanes perform and the others are parked (R261). -/
def State.parkLanes (s : State) (x : CtxId) (n : Nat) (o : StoreOp) (good bad : List Lane) (e : Cause) : State :=
  let w : Owner := { ctx := x, serial := (s.ctx x).serial }
  let s := if o.cls = 15 && !good.isEmpty then s.publish x o.scope else s
  let s := s.performLanes w o good
  (s.modCtx x fun c => { c with released := c.released.set n { o with lanes := bad } }).park x n e

/-- A home refuses the n-th released store: all of it, or of a `vamo` the lanes that free bits name (R261). -/
def State.refuseStore (s : State) (x : CtxId) (n : Nat) (e : Cause) : State :=
  match (s.ctx x).released[n]? with
  | none => s
  | some o =>
    match o.kind with
    | .vamo .. =>
      let bad (p : Lane × Nat) : Bool := Config.freeBit (s.free + p.2)
      let ls := o.lanes.zipIdx
      let t := { s with free := s.free + o.lanes.length }
      if ls.any bad then t.parkLanes x n o ((ls.filter fun p => !(bad p)).map (·.1)) ((ls.filter bad).map (·.1)) e
      else t.park x n e
    | _ => s.park x n e

/-- The n-th released store arrives at its home: it performs and stops counting, or what its home refuses of it is
parked (R261). -/
def State.arriveStore (s : State) (x : CtxId) (n : Nat) : State :=
  let c := s.ctx x
  match c.released[n]? with
  | none => s
  | some o =>
    let w : Owner := { ctx := x, serial := c.serial }
    let (good, bad) := s.splitLanes o.lanes
    match bad, o.kind with
    | [], _ => (s.performStore w o).modCtx x (·.dropReleased n)
    | _, .vamo .. => s.parkLanes x n o good bad .prot
    | _, _ => s.park x n .prot

/-- Parked stores are sent again (R262); they perform, or are refused again, in program order. -/
def State.retryParked (s : State) (x : CtxId) : State :=
  s.modCtx x fun c => { c with released := c.released.map fun o =>
    match o.parked with
    | some e => { o with parked := none, resent := some e }
    | none => o }

/-- Every store of the replay queue is discarded (R262). -/
def Ctx.dropParked (c : Ctx) : Ctx := { c with released := c.released.filter fun o => !o.queued }

/-- The replay queue (R261): a store sent again leaves it when it performs. -/
def Ctx.parked (c : Ctx) : List StoreOp := c.released.filter StoreOp.queued

/-! ## The buffers (R318) -/

def Ctx.entries (c : Ctx) : Nat := c.withheld.length

/-- A piece cut where a line of 128 bytes begins. -/
def linePieces (p : Piece) (fuel : Nat) : List Piece :=
  match fuel with
  | 0 => []
  | f + 1 =>
    let n := min p.len (128 - p.loc.pa.toNat % 128)
    if p.len = 0 then []
    else { p with len := n } :: linePieces { va := p.va + BitVec.ofNat 56 n, loc := p.loc.add n, len := p.len - n } f

/-- Bytes laid over pieces, as lanes. -/
def pieceLanes (l : List Piece) (b : List Byte) (lost : Bool) : List Lane :=
  match l with
  | [] => []
  | p :: l => { va := p.va, loc := p.loc, bytes := b.take p.len, lost := lost } :: pieceLanes l (b.drop p.len) lost

/-- Bytes laid over a span's pieces as the lanes of one store, each within a line. -/
def spanLanes (l : List Piece) (b : List Byte) (lost : Bool) : List Lane :=
  pieceLanes (l.flatMap fun p => linePieces p (p.len + 1)) b lost

/-- A store enters the withhold buffer. -/
def State.withhold (s : State) (kind : StoreKind) (lanes : List Lane) (cls : Fin 16) (p : Path) : State :=
  let (id, s) := s.fresh
  s.modCx fun c => { c with withheld := c.withheld ++
    [{ id := id, kind := kind, lanes := lanes, cls := cls, scope := s.cur.scope, path := p, parked := none, resent := none,
       phase := s.cx.regs.phase }] }

end Sys2Proof.Machine
end

