-- ==== Sys2Proof/Machine/RegShare.lean ====
section
/-! DEFINITION. The register share: which vector registers and keep copies stand in its slots, fills and spills through
the backing area, and keep copies (R73 to R79). A register that is neither resident nor spilled has its value with its
context and takes a slot without a read. -/

namespace Sys2Proof.Machine

/-- Slots of the share but the handler bank's (R73). -/
def State.shareSlots (s : State) (c : Fin 1792) : Nat := 128 * s.regGranules c - 1

/-- The live entry of a vector register of a slot. -/
def liveSlot (slot : Fin 2) (r : Fin 64) : VSlot := { slot := slot, reg := r, keep := false, back := false }
def keepSlot (slot : Fin 2) (r : Fin 64) : VSlot := { slot := slot, reg := r, keep := true, back := false }

/-- A vector register of a slot is resident (R74). -/
def Core.residentV (k : Core) (slot : Fin 2) (r : Fin 64) : Bool := k.vslots.contains (liveSlot slot r)

/-- A fill or spill that failed: the underlying cause and the failing address (R76). -/
structure BackFail where
  cause : Cause
  addr  : BitVec 56
deriving DecidableEq, Repr

/-- An address of a context's backing area (R76). -/
def State.backVa (s : State) (x : CtxId) (off : Nat) : BitVec 56 := BitVec.ofNat 56 (bits (s.ctx x).reg.regbase 17 39 * 2 ^ 17 + off)

/-- The place of n bytes of a context's backing area as one kind of access finds it. -/
def State.backingFor (s : State) (x : CtxId) (off n : Nat) (a : Acc) : Except BackFail Loc :=
  let r := (s.ctx x).reg
  let va := s.backVa x off
  match s.translate x.core r.ptroot true a va with
  | .error e => .error { cause := e.cause, addr := va }
  | .ok l => if s.refuses x.core va l n a .scalar true then .error { cause := .prot, addr := va } else .ok l

/-- The place of n bytes of a context's backing area, which is to be readable and writable for fills and spills alike
(R76). -/
def State.backing (s : State) (x : CtxId) (off n : Nat) : Except BackFail Loc :=
  match s.backingFor x off n .read, s.backingFor x off n .write with
  | .error e, _ => .error e
  | _, .error e => .error e
  | .ok l, .ok _ => .ok l

/-- The two places of a register's content are looked up in the TLBs (R352). -/
def State.touchBack (s : State) (x : CtxId) (o : Nat × Nat) : State :=
  let r := (s.ctx x).reg.ptroot
  (s.touch x r (s.backVa x o.1)).touch x r (s.backVa x o.2)

/-- A cacheable access looks up the L1 (R75, R229). -/
def State.backAccess (s : State) (x : CtxId) (l : Loc) (n : Nat) (write : Bool) : State :=
  let ks := (List.range n).map fun i => s.keyOf (l.add i)
  if isWindow l.pa.toNat then s else if write then s.dirtySpan x.core ks else s.cacheSpan x.core ks 2

/-- The tags of a vector register as the backing area holds them: bits [2g+1:2g] for lane group g (R76). -/
def tagsWord (t : Tags) : Nat := ofElems 2 ((List.finRange 8).map fun g => BitVec.ofNat 2 (tagCode (t.get g)))
def tagOf (n : Nat) : Tag :=
  match n % 4 with
  | 0 => .clean | 1 => .deferred | 2 => .late | _ => .lost
def wordTags (w : Nat) : Tags := Vector.ofFn fun g => tagOf (w / 4 ^ g.val)

/-- Where a slot's content lies in the backing area: bytes and tags. -/
def VSlot.offsets (v : VSlot) : Nat × Nat :=
  if v.keep || v.back then (0x8000 + 512 * v.reg.val, 0x1_0080 + 2 * v.reg.val) else (512 * v.reg.val, 0x1_0000 + 2 * v.reg.val)

/-- The register or keep copy a slot holds. -/
def State.slotValue (s : State) (c : Fin 1792) (v : VSlot) : VReg :=
  let x := s.ctx { core := c, slot := v.slot }
  if v.keep then x.keep.regs.v.get v.reg else x.regs.v.get v.reg

/-- A spill writes the bytes and the tags on no path, and counts (R75, R76, R78). -/
def State.spill (s : State) (c : Fin 1792) (v : VSlot) : Except BackFail State :=
  let x : CtxId := { core := c, slot := v.slot }
  match s.backing x v.offsets.1 512, s.backing x v.offsets.2 2 with
  | .error e, _ => .error e
  | _, .error e => .error e
  | .ok l, .ok t =>
    let val := s.slotValue c v
    let a : Author := { owner := s.me x, path := none, cmd := none, cls := 0, scope := 0 }
    let ws (l : Loc) (b : List Byte) : List ByteWrite := b.mapIdx fun i y => { key := s.keyOf (l.add i), val := y, lost := false }
    let ws := [ws l (bytesOf 512 val.val.toNat), ws t (bytesOf 2 (tagsWord val.tags))]
    let s := ((s.touchBack x v.offsets).backAccess x l 512 true).backAccess x t 2 true
    let s := ws.foldl (fun s w => (s.writeEach a w).tagAll a w) s
    let s := s.modCore c fun k => { k with vslots := k.vslots.erase v, spilled := v :: k.spilled }
    .ok (s.modCtx x fun y => { y with reg := { y.reg with regspill := y.reg.regspill + 1 } })

/-- A register has a write in its context's delay line, or in a handler's (R52, R75). -/
def writesV (d : List InFlight) (r : Fin 64) : Bool :=
  d.any fun e => match e.landing with
    | .v q _ _ => q == r
    | _ => false

/-- A copy has written the register through the window, and the write has not taken effect. -/
def Ctx.windowed (c : Ctx) (r : Fin 64) : Bool := c.winWrites.any (·.reg == .v r)

/-- What a slot holds may be spilled while a bundle of a slot that names some registers is filled (R75). A register with a
register-window write that has not taken effect stays too (DESIGN CHOICE, notes/assumptions/107.md). -/
def State.mayEvict (s : State) (c : Fin 1792) (slot : Fin 2) (named : List (Fin 64)) (v : VSlot) : Bool :=
  let x := s.ctx { core := c, slot := v.slot }
  v.keep || (!(v.slot == slot && named.contains v.reg) && !(writesV x.delay v.reg) && !(x.windowed v.reg))

/-- Room for one more slot, by a spill of the least recently named that may go (R75). Where none may go, the slot is taken
beyond the share's count (DESIGN CHOICE, notes/assumptions/107.md). -/
def State.makeRoom (s : State) (c : Fin 1792) (slot : Fin 2) (named : List (Fin 64)) : Except BackFail State :=
  if (s.core c).vslots.length < s.shareSlots c then .ok s
  else match (s.core c).vslots.find? (s.mayEvict c slot named) with
    | some v => s.spill c v
    | none => .ok s

/-- The register is named: it becomes the most recently named (R75). -/
def Core.name (k : Core) (v : VSlot) : Core :=
  if k.vslots.contains v then { k with vslots := k.vslots.erase v ++ [v] } else k

/-- A register's content read back from the backing area; a lost sector gives its lane groups the lost tag, the sector of
its tags all of them (R76). -/
def State.readBack (s : State) (l t : Loc) : VReg :=
  let lostAt (l : Loc) : Bool := s.homeDead l.home || s.lostAt (s.keyOf l)
  let tags := wordTags (ofBytes ((List.range 2).map fun i => s.byteAt (s.keyOf (t.add i))))
  { val := BitVec.ofNat 4096 (ofBytes ((List.range 512).map fun i => s.byteAt (s.keyOf (l.add i))))
    tags := Vector.ofFn fun g =>
      if lostAt t || lostAt (l.add (64 * g.val)) || lostAt (l.add (64 * g.val + 32)) then .lost else tags.get g }

/-- The spilled entry of a register: its own, or the keep copy that a rollback has put back. -/
def Core.spilledAs (k : Core) (slot : Fin 2) (r : Fin 64) : Option VSlot :=
  k.spilled.find? fun v => v.slot == slot && v.reg == r && !v.keep

/-- A fill: the register gets a slot, and where it was spilled its content is read back and counted (R74 to R78). -/
def State.fill (s : State) (x : CtxId) (r : Fin 64) (named : List (Fin 64)) : Except BackFail State :=
  let live := liveSlot x.slot r
  if (s.core x.core).residentV x.slot r then .ok s
  else match s.makeRoom x.core x.slot named with
    | .error e => .error e
    | .ok s =>
      match (s.core x.core).spilledAs x.slot r with
      | some v =>
        match s.backing x v.offsets.1 512, s.backing x v.offsets.2 2 with
        | .error e, _ => .error e
        | _, .error e => .error e
        | .ok l, .ok t =>
          let val := s.readBack l t
          let s := ((s.touchBack x v.offsets).backAccess x l 512 false).backAccess x t 2 false
          let s := s.modCore x.core fun k => { k with vslots := k.vslots ++ [live], spilled := k.spilled.erase v }
          .ok (s.modCtx x fun y => { y with
            regs := { y.regs with v := y.regs.v.set r val }
            reg := { y.reg with regfill := y.reg.regfill + 1 } })
      | none => .ok (s.modCore x.core fun k => { k with vslots := k.vslots ++ [live] })

/-- A context that leaves its slot takes the content of its spilled registers with it, where the backing area can be read
(R313). -/
def State.recall (s : State) (x : CtxId) : State :=
  ((s.core x.core).spilled.filter fun v => v.slot == x.slot && !v.keep).foldl (fun s v =>
    match s.backing x v.offsets.1 512, s.backing x v.offsets.2 2 with
    | .ok l, .ok t => let val := s.readBack l t; s.modCtx x fun y => { y with regs := { y.regs with v := y.regs.v.set v.reg val } }
    | _, _ => s) s

/-- The register has a keep copy, in a slot or spilled (R79). -/
def Core.keptV (k : Core) (slot : Fin 2) (r : Fin 64) : Bool :=
  k.vslots.contains (keepSlot slot r) || k.spilled.contains (keepSlot slot r)

/-- The old content of a register is what a rollback puts back (R79). -/
def Ctx.keepV (c : Ctx) (r : Fin 64) : Ctx :=
  { c with keep := { c.keep with regs := { c.keep.regs with v := c.keep.regs.v.set r (c.regs.v.get r) } } }

/-- The first landing in a vector register after a checkpoint keeps its old content: in a slot, or, of a register that a
rollback has left with its content at the place of its keep copy, right there (R79). A spilled register is filled before
the result lands. -/
def State.keepCopy (s : State) (x : CtxId) (r : Fin 64) : Except BackFail State :=
  let there := ((s.core x.core).spilledAs x.slot r).any (·.back)
  match s.fill x r [r] with
  | .error e => .error e
  | .ok s =>
    if (s.core x.core).keptV x.slot r then .ok s
    else if there then
      .ok ((s.modCore x.core fun k => { k with spilled := keepSlot x.slot r :: k.spilled }).modCtx x fun y => y.keepV r)
    else match s.makeRoom x.core x.slot [r] with
      | .error e => .error e
      | .ok s => .ok ((s.modCore x.core fun k => { k with vslots := k.vslots ++ [keepSlot x.slot r] }).modCtx x fun y => y.keepV r)

/-- The keep copies of a slot are discarded (R80). -/
def Core.dropKeeps (k : Core) (slot : Fin 2) : Core :=
  let stay (v : VSlot) : Bool := !(v.keep && v.slot == slot)
  { k with vslots := k.vslots.filter stay, spilled := k.spilled.filter stay }

/-- A context leaves a slot with the values of all its registers (R313): what was spilled has its value with it. -/
def Core.dropSlots (k : Core) (slot : Fin 2) : Core :=
  let stay (v : VSlot) : Bool := v.slot != slot
  { k with vslots := k.vslots.filter stay, spilled := k.spilled.filter stay }

/-- Registers are spilled until the share in force holds those that stand in it (R221, R222). -/
def State.spillDown (s : State) (c : Fin 1792) (slots fuel : Nat) : Except BackFail State :=
  match fuel with
  | 0 => .ok s
  | f + 1 =>
    if (s.core c).vslots.length ≤ slots then .ok s
    else match (s.core c).vslots.find? (s.mayEvict c 0 []) with
      | none => .ok s
      | some v =>
        match s.spill c v with
        | .error e => .error e
        | .ok s => s.spillDown c slots f

end Sys2Proof.Machine
end

