-- ==== Sys2Proof/Machine/RegWindow.lean ====
section
/-! DEFINITION. The register window (R227): a context's registers as bytes, and the writes that copies make there. -/

namespace Sys2Proof.Machine

/-- A group's tag after a write of some of its lanes: the new one, the larger of both, or as it was. -/
def groupTag (all any : Bool) (old new : Tag) : Tag := if all then new else if any then maxTag old new else old

/-- The register of a slot that an offset of the register window lies in. -/
def winReg (o : Nat) : WinReg :=
  if o < 0x8000 then .v ⟨o / 512 % 64, Nat.mod_lt _ (by decide)⟩
  else if o < 0x8200 then .s ⟨(o - 0x8000) / 8 % 64, Nat.mod_lt _ (by decide)⟩
  else if o < 0x8300 then .m ⟨(o - 0x8200) / 16 % 16, Nat.mod_lt _ (by decide)⟩
  else if o < 0x8400 then .z ⟨(o - 0x8300) / 16 % 16, Nat.mod_lt _ (by decide)⟩
  else if o < 0x8440 then .q ⟨(o - 0x8400) / 8 % 8, Nat.mod_lt _ (by decide)⟩
  else .none

/-- The offset of a register's first byte. -/
def WinReg.base (r : WinReg) : Nat :=
  match r with
  | .v n => 512 * n.val
  | .s n => 0x8000 + 8 * n.val
  | .m n => 0x8200 + 16 * n.val
  | .z n => 0x8300 + 16 * n.val
  | .q n => 0x8400 + 8 * n.val
  | .none => 0

def WinReg.size (r : WinReg) : Nat :=
  match r with
  | .v _ => 512 | .s _ => 8 | .m _ => 16 | .z _ => 16 | .q _ => 8 | .none => 1

/-- A register's bytes as they stand, and which bytes any tag but clean covers. -/
def Regs.window (r : Regs) (w : WinReg) : Nat × (Nat → Bool) :=
  match w with
  | .v n => ((r.v.get n).val.toNat, fun i => (r.v.get n).tags.get ⟨i / 64 % 8, Nat.mod_lt _ (by decide)⟩ != .clean)
  | .s n => if n = 0 then (0, fun _ => false) else ((r.s.get n).val.toNat, fun _ => (r.s.get n).tag != .clean)
  | .m n => if n = 0 then (2 ^ 128 - 1, fun _ => false)
            else ((r.m.get n).val.toNat, fun i => (r.m.get n).tags.get ⟨i / 2 % 8, Nat.mod_lt _ (by decide)⟩ != .clean)
  | .z n => ((r.z.get n).val.toNat, fun _ => (r.z.get n).tag != .clean)
  | .q n => ((r.q.get n).val.toNat, fun _ => (r.q.get n).tag != .clean)
  | .none => (0, fun _ => false)

/-- A byte of the register window and whether it makes what it feeds lost. -/
def State.readWindowReg (s : State) (c : Fin 1792) (off : Nat) : Byte × Bool :=
  let x : CtxId := { core := c, slot := ⟨off / 2 ^ 18 % 2, Nat.mod_lt _ (by decide)⟩ }
  let w := winReg (off % 2 ^ 18)
  let (v, t) := (s.ctx x).regs.window w
  let i := off % 2 ^ 18 - w.base
  (BitVec.ofNat 8 (v / 256 ^ i), t i)

/-- A value with some bytes from an offset on replaced. -/
def spliceBytes (v o : Nat) (b : List Byte) : Nat :=
  v / 256 ^ (o + b.length) * 256 ^ (o + b.length) + ofBytes b * 256 ^ o + v % 256 ^ o

/-- A tag after a write of some bytes of what it covers: the new one if all are written, else the larger. -/
def windowTag (all any lost : Bool) (old : Tag) : Tag :=
  let new : Tag := if lost then .lost else .clean
  groupTag all any old new

/-- Whether bytes [lo, lo + n) of a register are all, or any, among those written from o on. -/
def coversAll (o k lo n : Nat) : Bool := decide (o ≤ lo) && decide (lo + n ≤ o + k)
def coversAny (o k lo n : Nat) : Bool := decide (o < lo + n) && decide (lo < o + k)

/-- Bytes written into a register from an offset in it on, with the lost tags of the bytes' source. -/
def Regs.putWindow (r : Regs) (w : WinReg) (o : Nat) (b : List Byte) (lost : Nat → Nat → Bool) : Regs :=
  let one (n : Nat) (old : Tag) : Tag := windowTag (coversAll o b.length 0 n) (coversAny o b.length 0 n) (lost 0 n) old
  let grp (n g : Nat) (old : Tag) : Tag :=
    windowTag (coversAll o b.length (n * g) n) (coversAny o b.length (n * g) n) (lost (n * g) n) old
  match w with
  | .v n =>
    let x := r.v.get n
    { r with v := r.v.set n {
      val := BitVec.ofNat 4096 (spliceBytes x.val.toNat o b), tags := Vector.ofFn fun g => grp 64 g.val (x.tags.get g) } }
  | .s n =>
    if n = 0 then r
    else { r with s := r.s.set n {
      val := BitVec.ofNat 64 (spliceBytes (r.s.get n).val.toNat o b), tag := one 8 (r.s.get n).tag } }
  | .m n =>
    if n = 0 then r
    else
      let x := r.m.get n
      { r with m := r.m.set n {
        val := BitVec.ofNat 128 (spliceBytes x.val.toNat o b), tags := Vector.ofFn fun g => grp 2 g.val (x.tags.get g) } }
  | .z n => { r with z := r.z.set n {
      val := BitVec.ofNat 128 (spliceBytes (r.z.get n).val.toNat o b), tag := one 16 (r.z.get n).tag } }
  | .q n => { r with q := r.q.set n {
      val := BitVec.ofNat 64 (spliceBytes (r.q.get n).val.toNat o b), tag := one 8 (r.q.get n).tag } }
  | .none => r

/-- The place of a register among those whose writes are noted (R79). -/
def WinReg.noted (w : WinReg) : Option Nat :=
  match w with
  | .s n => some n.val
  | .m n => some (64 + n.val)
  | .z n => some (80 + n.val)
  | .q n => some (96 + n.val)
  | .v _ | .none => Option.none

/-- A register is written by a result of its context. -/
def Ctx.note (c : Ctx) (w : WinReg) : Ctx :=
  match w.noted with
  | some i => { c with wrote := c.wrote ||| BitVec.ofNat 104 (2 ^ i) }
  | none => c

/-- A window write takes effect. It is no write of the context's own, so a register that the context has not written since
its checkpoint keeps it over a rollback (R79). -/
def Ctx.putWindow (c : Ctx) (w : WinWrite) : Ctx :=
  let lost (lo n : Nat) : Bool :=
    (List.range n).any fun i => decide (w.off ≤ lo + i) && ((w.data[lo + i - w.off]?).map (·.2)).getD false
  let put (r : Regs) : Regs := r.putWindow w.reg w.off (w.data.map (·.1)) lost
  match w.reg.noted with
  | some i => { c with regs := put c.regs, keep := if c.wrote.getLsbD i then c.keep else { c.keep with regs := put c.keep.regs } }
  | none => { c with regs := put c.regs }

/-- The window writes that wait take effect, in their order (R49, R227). -/
def State.applyWindow (s : State) (x : CtxId) : State :=
  if (s.ctx x).winWrites.isEmpty then s
  else s.modCtx x fun c => { c.winWrites.foldl Ctx.putWindow c with winWrites := [] }

/-- A command that waits for its completion fails with ENGINE: one of its writes of core control was refused (R228), or a
register it wrote through the window could not be filled (R77). -/
def State.failDone (s : State) (id : Nat) : State :=
  { s with cores := s.cores.map fun (p : Fin 1792 × Core) =>
      (p.1, { p.2 with done := p.2.done.map fun d => if d.cmd.id = id then { d with err := some .engine } else d }) }

/-- A register that a rollback has left spilled is filled for its window writes that have not taken effect; where the fill
fails, the register keeps its value and the copy fails (R77). -/
def State.fillFor (s : State) (x : CtxId) (w : WinWrite) : State :=
  match w.reg with
  | .v n =>
    match s.fill x n [n] with
    | .ok s => s
    | .error _ => (s.modCtx x fun c => { c with winWrites := c.winWrites.erase w }).failDone w.cmd
  | _ => s

def State.fillWindowed (s : State) (x : CtxId) : State := (s.ctx x).winWrites.foldl (fun s w => s.fillFor x w) s

/-- A window write to one register (R227): the register is filled first if it is spilled, and the write takes effect at the
context's next boundary; a fill that fails, and an empty slot, answer ENGINE (R77). -/
def State.writeWindowReg (s : State) (cmd : Nat) (c : Fin 1792) (off : Nat) (b : List (Byte × Bool)) : Except Cause State :=
  let x : CtxId := { core := c, slot := ⟨off / 2 ^ 18 % 2, Nat.mod_lt _ (by decide)⟩ }
  let w := winReg (off % 2 ^ 18)
  let put (s : State) : State := s.modCtx x fun y => { y with
    winWrites := y.winWrites ++ [{ cmd := cmd, reg := w, off := off % 2 ^ 18 - w.base, data := b }] }
  if !((s.ctx x).resident) then .error .engine
  else match w with
    | .v n =>
      match s.fill x n [n] with
      | .error _ => .error .engine
      | .ok s => .ok (put s)
    | _ => .ok (put s)

/-- A write of bytes of the register window, register by register. -/
def State.writeWindow (s : State) (cmd : Nat) (c : Fin 1792) (off : Nat) (b : List (Byte × Bool)) (fuel : Nat) : Except Cause State :=
  match fuel, b with
  | 0, _ => .ok s
  | _, [] => .ok s
  | f + 1, b =>
    let w := winReg (off % 2 ^ 18)
    let n := w.base + w.size - off % 2 ^ 18
    match s.writeWindowReg cmd c off (b.take n) with
    | .error e => .error e
    | .ok s => s.writeWindow cmd c (off + n) (b.drop n) f

end Sys2Proof.Machine
end

