-- ==== Sys2Proof/Machine/Logbook.lean ====
section
/-! DEFINITION. The logbook of deterministic mode (R337): its stream in memory, the search for a task's own entry, and
appending. Deliveries of interrupts and late traps take a number of the task's cursor as reads do
(notes/assumptions/6.md). -/

namespace Sys2Proof.Machine

/-- The kinds of entry. -/
inductive LogKind where
  | start | clk | coreid | seqrd | amo | uint | late
deriving DecidableEq, Repr

def LogKind.code (k : LogKind) : Nat :=
  match k with
  | .start => 1 | .clk => 2 | .coreid => 3 | .seqrd => 4 | .amo => 5 | .uint => 6 | .late => 7

/-- The slot whose registers hold the stream of the logical core that owns a slot: one stream, reached through either of
its slots. -/
def State.streamSlot (s : State) (x : CtxId) : CtxId := if s.hostsTwo x.core then x else { x with slot := 0 }

/-- The stream's registers. -/
def State.streamReg (s : State) (x : CtxId) : SlotRegs := (s.ctx (s.streamSlot x)).reg

/-- The entries the stream has room for; none while the size field is 0. -/
def State.streamSize (s : State) (x : CtxId) : Nat :=
  let n := bits (s.streamReg x).lbbase 0 6
  if n = 0 then 0 else 2 ^ n

def State.streamCount (s : State) (x : CtxId) : Nat := bits (s.streamReg x).lbpos 0 31

/-- Entry i as four doublewords. -/
structure LogEntry where
  kind  : Nat
  seq   : Nat
  head  : Nat
  key   : Nat
  value : Word
deriving DecidableEq, Repr

def State.entryKey (s : State) (x : CtxId) (i : Nat) : Nat :=
  homeKey s.fabric.coord (bits (s.streamReg x).lbbase 12 40 * 4096 + 32 * i)

def State.entry (s : State) (x : CtxId) (i : Nat) : LogEntry :=
  let w (j : Nat) : Nat := ofBytes (s.bytesAt (s.entryKey x i + 8 * j) 8)
  { kind := w 0 / 2 ^ 60, seq := w 0 % 2 ^ 32, head := w 1 % 2 ^ 56, key := w 2, value := BitVec.ofNat 64 (w 3) }

/-- A task's key beside its head: tag, y and x. -/
def Task.logKey (t : Task) : Nat := t.tag.toNat * 2 ^ 32 + t.key.y.toNat * 2 ^ 16 + t.key.x.toNat * 2 ^ 8

def LogEntry.owns (e : LogEntry) (t : Task) : Bool := e.head == t.head.toNat && e.key == t.logKey

/-- A task's own entry with a number, from its START on. -/
def State.findEntry (s : State) (x : CtxId) (t : Task) (seq : Nat) : Option LogEntry :=
  let n := min (s.streamCount x) (s.streamSize x)
  ((List.range (n - t.start)).map fun i => s.entry x (t.start + i)).find? fun e => e.owns t && e.seq == seq && e.kind != 1

/-- An entry is appended, unless the stream is full. -/
def State.appendEntry (s : State) (x : CtxId) (k : LogKind) (seq : Nat) (t : Task) (v : Word) : Option State :=
  let n := s.streamCount x
  if s.streamSize x ≤ n then none
  else
    let s := s.putBytes (s.entryKey x n) (bytesOf 8 (k.code * 2 ^ 60 + seq) ++ bytesOf 8 t.head.toNat ++ bytesOf 8 t.logKey ++
      bytesOf 8 v.toNat)
    some (s.modCtx (s.streamSlot x) fun c => { c with reg := { c.reg with lbpos := BitVec.ofNat 64 ((n + 1) % 2 ^ 31) } })

/-- A logged read of the current context: its own entry's value if it has one; else the true value, appended in
recording and LOGBOOK in replay; LOGBOOK for a full stream or an entry of another kind (R327, R337). -/
def State.logRead (s : State) (x : CtxId) (k : LogKind) (v : Word) : Except Stop (Word × State) :=
  let c := s.ctx x
  match c.task with
  | none => .ok (v, s)
  | some t =>
    if t.det = 0 then .ok (v, s)
    else
      let bump (s : State) : State := s.modCtx x fun c => { c with cursor := c.cursor + 1 }
      match s.findEntry x t c.cursor with
      | some e => if e.kind = k.code then .ok (e.value, bump s) else raise .logbook
      | none =>
        if t.det = 1 then
          match s.appendEntry x k c.cursor t v with
          | some s => .ok (v, bump s)
          | none => raise .logbook
        else raise .logbook

/-- What the log says of an event (a delivery or a late trap) that would happen now. -/
inductive LogEvent where
  | go (s : State)         -- it happens, logged
  | wait                   -- not here
  | full                   -- the stream is full

/-- An event of a kind with a value (position and flag) at this boundary (R337). -/
def State.logEvent (s : State) (x : CtxId) (k : LogKind) (v : Word) : LogEvent :=
  let c := s.ctx x
  match c.task with
  | none => .go s
  | some t =>
    if t.det = 0 then .go s
    else
      let bump (s : State) : State := s.modCtx x fun c => { c with cursor := c.cursor + 1 }
      match s.findEntry x t c.cursor with
      | some e => if e.kind = k.code ∧ e.value = v then .go (bump s) else .wait
      | none =>
        if t.det = 1 then
          match s.appendEntry x k c.cursor t v with
          | some s => .go (bump s)
          | none => .full
        else .wait

/-- The logged event that must happen at this boundary before the context goes on: a delivery or a late trap recorded at
this position (R337). -/
def State.logDue (s : State) (x : CtxId) : Bool :=
  let c := s.ctx x
  match c.task with
  | none => false
  | some t =>
    if t.det = 0 then false
    else match s.findEntry x t c.cursor with
      | some e => (e.kind == 6 || e.kind == 7) && bits e.value 0 56 == c.pos % 2 ^ 56
      | none => false

/-- A START for the task: one of its key that no task has claimed (a killed task's is claimed no longer), or in recording
a new one (R337). -/
def State.claimStart (s : State) (x : CtxId) (t : Task) : Option (Nat × State) :=
  let y := s.streamSlot x
  let taken := (s.core y.core).claims.get y.slot
  let claim (i : Nat) (s : State) : Nat × State :=
    (i, s.modCore y.core fun k => { k with claims := k.claims.set y.slot (i :: k.claims.get y.slot) })
  let mine (i : Nat) : Bool := let e := s.entry x i; e.kind == 1 && e.owns t && !(taken.contains i)
  match (List.range (min (s.streamCount x) (s.streamSize x))).find? mine with
  | some i => some (claim i s)
  | none => if t.det = 1 then (s.appendEntry x .start 0 t 0).map (claim (s.streamCount x)) else none

/-- A killed task's START may be claimed again. -/
def State.unclaim (s : State) (x : CtxId) (i : Nat) : State :=
  let y := s.streamSlot x
  s.modCore y.core fun k => { k with claims := k.claims.set y.slot ((k.claims.get y.slot).erase i) }

end Sys2Proof.Machine
end

