-- ==== Sys2Proof/Machine/Ops.lean ====
section
/-! DEFINITION. Checkpoints and their release (R318 to R320), taking a fault (R321, R324 to R327), the `trap` entry
(R328), the in-place late trap and its handler (R329, R330), user interrupts (R275 to R277), and how an instruction's
result becomes an outcome. -/

namespace Sys2Proof.Machine

/-! ## Checkpoints -/

/-- Released stores that have not performed; counter adds do not count among them (R261). -/
def Ctx.inTransit (c : Ctx) : Nat := (c.released.filter (·.kind.takesPlace)).length

/-- The stores of a release that find room, in program order, and those that wait (R261). -/
def fitStores (room : Nat) (l : List StoreOp) : List StoreOp × List StoreOp :=
  match l with
  | [] => ([], [])
  | o :: l =>
    if o.kind.takesPlace && room == 0 then ([], o :: l)
    else
      let (out, left) := fitStores (if o.kind.takesPlace then room - 1 else room) l
      (o :: out, left)

/-- The commands that a queue takes of those released to it: up to its free room (R47, R237). -/
def fitCommands (k : Core) (l : List Command) (q : Fin 2) : List Command :=
  (l.filter (·.queue == q)).take (32 - (k.queue.get q).length)

/-- Everything the context withholds finds room at once (R237, R261, R320). -/
def Ctx.mayRelease (c : Ctx) (k : Core) : Bool :=
  (fitStores (64 - c.inTransit) c.withheld).2.isEmpty &&
  (List.finRange 2).all fun q => decide ((k.queue.get q).length + (c.commands.filter (·.queue == q)).length ≤ 32)

def State.mayRelease (s : State) (x : CtxId) : Bool := (s.ctx x).mayRelease (s.core x.core)

/-- Stores, and when they have all gone commands, leave the context in program order as far as there is room (R320). -/
def State.releaseSome (s : State) (x : CtxId) : State :=
  let c := s.ctx x
  let (out, left) := fitStores (64 - c.inTransit) c.withheld
  let c := { c with released := c.released ++ out, withheld := left }
  if !left.isEmpty then s.setCtx x c
  else
    let k := s.core x.core
    let going := fitCommands k c.commands
    let s := s.modCore x.core fun k => { k with queue := Vector.ofFn fun q => k.queue.get q ++ going q }
    s.setCtx x { c with commands := c.commands.filter fun m => !((going m.queue).contains m) }

/-- A result that is part of the delay line a checkpoint keeps: not the replacement of the table store or its key, which no
checkpoint keeps (R173). -/
def InFlight.isKept (e : InFlight) : Bool :=
  match e.landing with
  | .table _ _ _ | .key _ => false
  | _ => true

/-- The table store or its key takes a result that is in flight (R174). -/
def Core.landTable (k : Core) (l : Landing) : Core :=
  match l with
  | .table n i t => { k with tblLen := n, tblId := i, tbl := t }
  | .key v => { k with key := v }
  | _ => k

/-- The replacements of the table store and its key that a context has in flight are made: no rollback undoes them, and
they stay with the core when the context leaves it (R173, R182). -/
def State.landTables (s : State) (x : CtxId) : State :=
  s.modCore x.core fun k => (s.ctx x).delay.foldl (fun k e => k.landTable e.landing) k

/-- What the context would go back to from here (R79, R281, R320). -/
def Ctx.kept (c : Ctx) : Keep :=
  { regs := c.regs, delay := c.delay.filter (·.isKept), overdue := c.overdue, transfer := c.transfer, ended := false
    set := c.flags.set, wn := c.wn, wt := c.wt, pc := c.pc, high := c.high, pos := c.pos, cursor := c.cursor
    cameFrom := c.cameFrom, pause := c.pause }

/-- The keep set is discarded and begins anew; the position and the logbook cursor are recorded (R79, R80, R320).
A checkpoint forced inside a handler records the interrupted bundle's place: a rollback to it resumes there, and the handler
is not run again (DESIGN CHOICE, notes/assumptions/117.md). -/
def State.snapshot (s : State) (x : CtxId) : State :=
  let s := s.modCtx x fun c => { c with
    keep := c.kept, flags := { c.flags with own := 0, engine := 0 }, served := 0, wrote := 0, atCkpt := true
    evict := c.evict.map fun e => { e with reached := true } }
  s.modCore x.core fun k => k.dropKeeps x.slot

def Forced.place (f : Forced) : Nat :=
  match f with
  | .full => 48 | .sync => 32 | .pre => 16

/-- A checkpoint whose release is done commits; a forced one is counted (R320, R323). -/
def State.endRelease (s : State) (x : CtxId) (r : Releasing) : State :=
  (s.snapshot x).modCtx x fun c => match r with
    | .bundle ended | .trap ended _ _ => { c with releasing := none, keep := { c.keep with ended := ended } }
    | .forced f => { c with
      releasing := none, reg := { c.reg with ckstat := putField c.reg.ckstat f.place 16 (bits c.reg.ckstat f.place 16 + 1) } }

/-- A checkpoint releases what finds room; while more is left the context is held at the boundary (R320). -/
def State.release (s : State) (x : CtxId) (r : Releasing) : State :=
  let s := s.releaseSome x
  let c := s.ctx x
  if c.withheld.isEmpty && c.commands.isEmpty then s.endRelease x r
  else s.modCtx x fun c => { c with releasing := some r }

/-- A checkpoint is forced (R319, R323). -/
def State.forceCheckpoint (s : State) (x : CtxId) (f : Forced) : State := s.release x (.forced f)

/-- An instruction that commits as a checkpoint stands at one: a forced checkpoint if the bundle before was none (R319). -/
def State.syncPoint (s : State) (x : CtxId) : State := if (s.ctx x).atCkpt then s else s.forceCheckpoint x .sync

/-! ## Rollback -/

/-- The interrupts whose handlers started after the checkpoint are pending again (R276). -/
def Ctx.repend (c : Ctx) (t : Nat) : Ctx :=
  let again := (List.finRange 8).filter fun j => flag c.served j.val && !(c.pend.any (·.1 == j))
  { c with
    reg := { c.reg with uistat := (c.reg.uistat ||| BitVec.ofNat 64 c.served.toNat) }
    pend := c.pend ++ again.map (·, t), served := 0 }

/-- Registers after a rollback: every kept value is put back (R80). A vector register written since the checkpoint has a
keep copy, in a slot or spilled; of the others the register stands. -/
def Regs.rollback (r : Regs) (kept : Regs) (keptV : Fin 64 → Bool) : Regs :=
  { kept with v := Vector.ofFn fun n => if keptV n then kept.v.get n else r.v.get n }

/-- The context at its last checkpoint (R80, R281, R321): its delay lines, transfer, flags and registers as kept, its
withheld work discarded. -/
def Ctx.rollback (c : Ctx) (t : Nat) (keptV : Fin 64 → Bool) : Ctx :=
  ({ c with
    regs := c.regs.rollback c.keep.regs keptV, delay := c.keep.delay, overdue := c.keep.overdue, transfer := c.keep.transfer
    flags := c.flags.rollback c.keep.set, wn := c.keep.wn, wt := c.keep.wt, withheld := [], commands := [], wrote := 0
    releasing := none, pc := c.keep.pc, high := c.keep.high, pos := c.keep.pos, cursor := c.keep.cursor
    cameFrom := c.keep.cameFrom, checked := c.keep.cameFrom.isNone, pause := c.keep.pause, atCkpt := true, carveWord := none
    carveOld := none, lateHeld := none, rephase := c.keep.regs.phase.isSome
    reg := { c.reg with uistat := putField c.reg.uistat 13 1 0, lstat := putField c.reg.lstat 63 1 0 } }).repend t

/-- A handler of a slot on the handler bank ends; the slot's registers say that none runs (R274, R329). -/
def Core.endHandler (k : Core) (slot : Fin 2) : Core :=
  match k.bank with
  | some b =>
    if b.slot = slot then
      let c := k.ctx.get slot
      { k with bank := none, ctx := k.ctx.set slot { c with
        overdue := c.overdue.filter fun o => !o.shadow
        reg := { c.reg with uistat := putField c.reg.uistat 13 1 0, lstat := putField c.reg.lstat 63 1 0 } } }
    else k
  | none => k

/-- A keep copy in a slot becomes the register's; one that is spilled is what the register's next fill reads (R76, R80). -/
def Core.restoreKeeps (k : Core) (slot : Fin 2) : Core :=
  let again := (k.spilled.filter fun (v : VSlot) => v.keep && v.slot == slot).map fun (v : VSlot) => { v with keep := false, back := true }
  let held := (k.vslots.filter fun (v : VSlot) => v.keep && v.slot == slot).map (·.reg)
  let gone (v : VSlot) : Bool := v.slot == slot && !v.keep && (again.any (·.reg == v.reg))
  let k := { k with
    vslots := (k.vslots.filter fun v => !(gone v)).map fun (v : VSlot) =>
      if v.keep && v.slot == slot && !(k.residentV slot v.reg) then liveSlot slot v.reg else v
    spilled := again ++ k.spilled.filter fun v => !(gone v || (v.slot == slot && !v.keep && held.contains v.reg)) }
  k.dropKeeps slot

def State.rollback (s : State) (x : CtxId) : State :=
  let s := s.landTables x
  let held (r : Fin 64) : Bool := (s.core x.core).keptV x.slot r
  let s := s.modCtx x fun c => (c.rollback (s.core x.core).clock.toNat held).applyLevels (s.core x.core).clock.toNat
  (s.modCore x.core fun k => (k.restoreKeeps x.slot).endHandler x.slot).fillWindowed x

/-! ## Taking a fault (R321) -/

/-- The context is rolled back, its fault record joins those to be written, and it presents nothing from here on; it is
halted when the record has been written (R321, R324, R326). -/
def State.takeFault (s : State) (x : CtxId) (e : Cause) (slot : Nat) (i : Info) : State :=
  let src := i.src.getD s.cur.addr
  let s := (i.looked.foldl (fun s a => s.touchHit x (s.ctx x).reg.ptroot a) s).modCtx x fun c => { c with walk := none, refusal := none }
  let s := (s.traceEvent x (causeCode e)).traceEvent x 0xF2
  let s := s.rollback x
  let k := (s.ctx x).keep
  let r := s.faultRecord x 0 (causeCode e) slot i src k.pc (k.transfer.isSome || k.ended) k.pos
  (s.modCtx x fun c => { c with status := .faulting }).queueRecord r (some x)

/-- The record of a `trap` at the boundary after its bundle (R328): nothing is rolled back. -/
def State.takeTrap (s : State) (x : CtxId) (n : BitVec 14) (src : BitVec 56) : State :=
  let s := s.traceEvent x (causeCode .trap)
  let c := s.ctx x
  let r := s.faultRecord x 1 (causeCode .trap) 1 { Info.none with detail := n } src c.pc c.transfer.isSome c.keep.pos
  (s.modCtx x fun c => { c with status := .faulting }).queueRecord r (some x)

/-- Resumption of a halted context at its record's resume address (R326). -/
def State.resumeHalted (s : State) (x : CtxId) : State :=
  match (s.ctx x).resume with
  | none => s
  | some r => (s.applyWindow x).modCtx x fun c => { c with
      status := .running, pc := field r 128 56, high := if field r 128 56 = c.pc then c.high else 0, resume := none }

/-! ## Handlers (R81, R275 to R277, R329, R330) -/

/-- A handler begins: zeroed shadow registers, its own empty delay line, its first bundle at a vector (R81, R275). -/
def Bank.enter (slot : Fin 2) (late : Bool) (vec : BitVec 56) : Bank :=
  { slot := slot, late := late, shadow := Vector.replicate 16 { val := 0, tag := .clean }, pc := vec, checked := false,
    high := 0, cameFrom := none, delay := [], transfer := none, pause := 0 }

/-- The pending flag that a delivery serves: the lowest-numbered (R275). -/
def Ctx.nextInterrupt (c : Ctx) : Option (Fin 8) := (List.finRange 8).find? fun j => flag c.reg.uistat j.val

/-- The pending flag that is delivered at this boundary: the lowest-numbered, or the one that the logbook has for it
(R275, R337). -/
def State.interruptNow (s : State) (x : CtxId) : Option (Fin 8) :=
  let c := s.ctx x
  let logged : Option (Fin 8) := match c.task with
    | none => none
    | some t => if t.det = 0 then none else (s.findEntry x t c.cursor).bind fun e =>
        (List.finRange 8).find? fun j => e.kind == LogKind.uint.code && bits e.value 56 8 == 24 + j.val && flag c.reg.uistat j.val
  logged <|> c.nextInterrupt

/-- What the logbook says of a delivery at this boundary (R337). -/
def State.interruptLog (s : State) (x : CtxId) (j : Fin 8) : LogEvent :=
  s.logEvent x .uint (BitVec.ofNat 64 ((24 + j.val) * 2 ^ 56 + (s.ctx x).pos % 2 ^ 56))

/-- An interrupt of the context may be delivered (R275): one that the logbook does not have here yet waits (R337). -/
def State.wantsInterrupt (s : State) (x : CtxId) : Bool :=
  let c := s.ctx x
  c.status == .running && flag c.reg.uictl 63 && (s.core x.core).bank.isNone &&
  match s.interruptNow x with
  | none => false
  | some j => match s.interruptLog x j with
    | .wait => false
    | _ => true

/-- Of a core's two contexts, the one to be served first: that whose oldest pending bit was set first; a tie goes to
slot 0 (R275). -/
def State.firstServed (s : State) (c : Fin 1792) : Option CtxId :=
  let x0 : CtxId := { core := c, slot := 0 }
  let x1 : CtxId := { core := c, slot := 1 }
  let age (x : CtxId) : Nat := ((s.ctx x).pend.head?.map (·.2)).getD 0
  if s.wantsInterrupt x0 then (if s.wantsInterrupt x1 && decide (age x1 < age x0) then some x1 else some x0)
  else if s.wantsInterrupt x1 then some x1 else none

/-- A user interrupt is delivered (R275). In deterministic mode the logbook says where (R337). -/
def State.deliverInterrupt (s : State) (x : CtxId) : State :=
  match s.interruptNow x with
  | none => s
  | some j =>
    let c := s.ctx x
    match s.interruptLog x j with
    | .wait => s
    | .full => s.takeFault x .logbook 8 { Info.none with src := some c.pc }
    | .go s =>
      let s := s.modCtx x fun c => { c with
        reg := { c.reg with uistat := putField (putField (putField c.reg.uistat j.val 1 0) 13 1 1) 8 5 (24 + j.val) }
        pend := c.pend.filter (·.1 != j), served := c.served ||| BitVec.ofNat 8 (2 ^ j.val) }
      let s := s.modCore x.core fun k => { k with bank := some (Bank.enter x.slot false (field c.reg.uictl 0 56)) }
      s.traceEvent x 0xF5

/-- The late handler starts, where `%lvec` says so and the bank is free; otherwise the context is held (R329). -/
def State.lateEnter (s : State) (x : CtxId) : State :=
  let c := s.ctx x
  if !(flag c.regs.lvec 63) || (s.core x.core).bank.isSome then s
  else
    let s := s.modCtx x fun c => { c with lateHeld := none, reg := { c.reg with lstat := putField c.reg.lstat 63 1 1 } }
    let s := s.modCore x.core fun k => { k with bank := some (Bank.enter x.slot true (field c.regs.lvec 0 56)) }
    s.traceEvent x 0xF5

/-- The in-place trap of a bundle with a late operand (R329): counted and logged once (R337), with its handler or the hold
that stands in its place. A trap that the logbook does not have here is held for without a handler. -/
def State.lateTrap (s : State) (x : CtxId) (cls : Fin 4) (grp : Fin 8) (reg : Fin 64) : State :=
  let count (s : State) (runs : Bool) : State := s.modCtx x fun c => { c with lateHeld := some runs, reg := { c.reg with
      lstat := putField (putField (putField (putField c.reg.lstat 16 32 (bits c.reg.lstat 16 32 + 1)) 14 2 cls.val) 11 3 grp.val) 0 6 reg.val } }
  let c := s.ctx x
  match c.lateHeld with
  | some true => s.lateEnter x
  | some false => s
  | none =>
    match s.logEvent x .late (BitVec.ofNat 64 (c.pos % 2 ^ 56)) with
    | .wait => count s false
    | .full => s.takeFault x .logbook 8 { Info.none with src := some c.pc }
    | .go s => (count s true).lateEnter x

/-! ## Outcomes -/

/-- A fault of a `carve` in each of several contexts, each at its own bundle (R221). -/
def State.takeEach (s : State) (l : List (CtxId × Cause × Info)) : State :=
  match l with
  | [] => s
  | (x, c, i) :: l =>
    (s.takeFault x c 1 { i with src := some (if x = s.cur.ctx then s.cur.addr else (s.ctx x).pc) }).takeEach l

/-- The state after a stop: the fault taken, the in-place trap, the redirect of `chk` (R117), or nothing for a hold. -/
def State.takeStop (s : State) (e : Stop) : State :=
  match e with
  | .raise c i => s.takeFault s.cur.ctx c (slotCode s.cur.pos) i
  | .late cls grp reg => s.lateTrap s.cur.ctx cls grp reg
  | .redirect t =>
    let s := s.traceOutcome s.cur.ctx true
    match s.bank? with
    | some _ => s.modBank fun b => { b with pc := t, high := 0, checked := false, cameFrom := some s.cur.addr }
    | none => s.modCx fun c => { c with pc := t, high := 0, checked := false, cameFrom := some s.cur.addr }
  | .hold => s
  | .walk va spec => s.startWalk s.cur.ctx s.cx.reg.ptroot va (spec.map fun n => (s.supervisor, n))
  | .barrier w alone => s.modCx fun c => { c with carveWord := some (w, alone) }
  | .claim line => s.claim line
  | .faults l => s.takeEach l

/-- The outcome of an instruction: the next state, or the state after its stop with the stop said in `raised`. -/
def finish (s : State) (r : Except Stop State) : Host.Outcome State Fault Refusal :=
  match r with
  | .ok t => .next t
  | .error e => .next { s.takeStop e with raised := some e }

end Sys2Proof.Machine
end

