-- ==== Sys2Proof/Machine/Fetch.lean ====
section
/-! DEFINITION. Fetch: lines and their faults (R58), task heads (R25, R26), the target check (R57), and the walk along
the fetch path (R23, R24). -/

namespace Sys2Proof.Machine

/-- What a fetch, or a read of a head or a descriptor, failed with: the cause, the underlying address. -/
structure FetchFail where
  cause  : Cause
  addr   : BitVec 56
  sub    : Byte
  looked : List (BitVec 56)
  walk   : Bool            -- it has not failed: a page walk for the address has to end first (R352)
deriving DecidableEq, Repr

/-- Who waits for page walks: a bundle of a context is held before issue, and its fetch likewise; what the device reads
itself waits inside (R352). -/
inductive Waiting where
  | bundle | device
deriving DecidableEq, Repr

/-- The translation of an address for a fetch, or for a read of a head or a descriptor. -/
def State.xlateFor (s : State) (x : CtxId) (ptroot : Word) (sup : Bool) (w : Waiting) (a : Acc) (va : BitVec 56) : Except FetchFail Loc :=
  if w == .bundle && s.mustWalk x ptroot va none then .error { cause := .xlate, addr := va, sub := 0, looked := [], walk := true }
  else match (if w == .bundle then s.walkFailed x ptroot va none else none) with
    | some e => .error { cause := e.cause, addr := va, sub := e.sub, looked := [], walk := false }
    | none => match s.translate x.core ptroot sup a va with
      | .error e => .error { cause := e.cause, addr := va, sub := e.sub, looked := [va], walk := false }
      | .ok l => .ok l

/-- A read of a head or a descriptor that fails after its translation. -/
def failRead {α : Type} (c : Cause) (a : BitVec 56) : Except FetchFail α :=
  .error { cause := c, addr := a, sub := 0, looked := [a], walk := false }

/-- What a failed read of a descriptor or head raises. -/
def raiseRead {α : Type} (e : FetchFail) : Except Stop α :=
  .error (if e.walk then .walk e.addr none else .raise e.cause { Info.none with addr := e.addr, sub := e.sub, looked := e.looked })

/-- The line an address lies in. -/
def lineOf (a : BitVec 56) : BitVec 56 := BitVec.ofNat 56 (a.toNat / 64 * 64)

/-- A line of code, through a context's translation (R58): only from the cacheable class, and no line with a lost sector
or of a dead package. -/
def State.fetchLine (s : State) (x : CtxId) (ptroot : Word) (sup : Bool) (w : Waiting) (a : BitVec 56) : Except FetchFail (List Byte) :=
  let va := lineOf a
  match s.xlateFor x ptroot sup w .fetch va with
  | .error e => .error (if e.walk then e else { e with addr := a })
  | .ok l =>
    if isWindow l.pa.toNat || !(physExists l.pa.toNat) then failRead .prot a
    else
      let k := s.keyOf l
      if s.homeDead l.home || s.lostAt k || s.lostAt (k + 32) then failRead .contain a
      else .ok ((List.range 64).map fun i => s.plainByte x.core (k + i))

/-- The line of code at an address is obtained from the package that has its bytes (R379, R383). -/
def State.obtainCode (s : State) (x : CtxId) (ptroot : Word) (sup : Bool) (a : BitVec 56) : State :=
  match s.translate x.core ptroot sup .fetch (lineOf a) with
  | .ok l => if isWindow l.pa.toNat || s.homeDead l.home then s else s.obtain (s.keyOf l / 128)
  | .error _ => s

/-- The line is a well-formed task head: byte 0 is 0x80 and its G slot has kind HEAD and nothing else (R25). -/
def isHead (b : List Byte) : Bool := b.take 5 == [0x80, 0x00, 0x20, 0x00, 0x00]

/-- The walk along a line reaches an offset at a header that is not a filler (R57). -/
def walkTo (b : List Byte) (target off fuel : Nat) : Bool :=
  match fuel with
  | 0 => false
  | f + 1 =>
    if target < off then false
    else
      let h := b.getD off 0
      if h = 0 then false
      else if off = target then true
      else walkTo b target (off + bundleLength h) f

/-- The target check (R57). -/
def targetCheck (b : List Byte) (off : Nat) : Option Cause :=
  if isHead b then some .headtarget
  else if walkTo b off 0 64 then none else some .badtarget

/-- The address of the next bundle along the path after one that starts at an address with a header (R21, R23): past
fillers. Fillers at the start of following lines are passed where the bytes are known. -/
def afterBundle (a : BitVec 56) (h : Byte) : BitVec 56 := a + BitVec.ofNat 56 (bundleLength h)

/-- An address that stands on a filler, or at the end of a line, moves to the next line (R23). -/
def skipFiller (b : List Byte) (a : BitVec 56) : BitVec 56 :=
  if b.getD (a.toNat % 64) 0 = 0 then lineOf a + 64 else a

/-! ## Task descriptors (R293) -/

/-- A task head's descriptor, and whether it is valid. -/
structure Descriptor where
  node  : Node
  valid : Bool
deriving DecidableEq, Repr

def leAt (b : List Byte) (o n : Nat) : Nat := ofBytes ((b.drop o).take n)

/-- A need: valid, relative, number, threshold. -/
def needWord (b : List Byte) (k : Nat) : Word := BitVec.ofNat 64 (leAt b (24 + 8 * k) 8)

/-- The descriptor of a head line for a node of a graph, with the stencils and the counter window of the slot that
supplies the instance (R293, R297, R302). -/
def readDescriptor (b : List Byte) (head : BitVec 56) (after : Bool) (w h : Nat) (stencils : Vector Word 8) (seqwin : Word) : Descriptor :=
  let cycles := leAt b 5 4
  let b9 : Byte := b.getD 9 0
  let b10 : Byte := b.getD 10 0
  let inl := leAt b 11 7
  let stsel := bits b10 0 4
  let stencil : BitVec 24 :=
    if h : stsel < 8 then BitVec.ofNat 24 (stencils.get ⟨stsel, h⟩).toNat
    else if stsel = 8 then BitVec.ofNat 24 inl else 0
  let ns := (List.range 4).map (needWord b)
  let badNeed (n : Word) : Bool :=
    if flag n 13 then bits n 14 2 != 0 || decide (bits seqwin 16 12 < bits n 0 12) else n != 0
  let bad := cycles == 0 || bits b9 0 2 == 3 || (decide (9 ≤ stsel) && decide (stsel ≤ 14)) ||
    (stsel == 8 && inl / 2 ^ 24 != 0) || ns.any badNeed || bits b9 2 2 != 0 || bits b10 5 3 != 0 || leAt b 18 6 != 0 ||
    leAt b 56 8 != 0
  { node := { head := head, after := after, w := w, h := h, cycles := BitVec.ofNat 32 cycles, quart := field b9 4 4,
              pol := ⟨bits b9 0 2, by unfold bits; omega⟩, sup := flag b10 4, stencil := stencil,
              needs := (ns.filter fun n => flag n 13).map fun n => (flag n 12, bits seqwin 0 12 + bits n 0 12, BitVec.ofNat 64 (bits n 16 48)) }
    valid := !bad }

/-! ## Graph descriptors (R300) -/

/-- A graph read from memory. -/
structure Graph where
  nodes : List Node
  ccnt  : Nat
  sup   : Bool             -- some head asks for supervisor privilege
  valid : Bool
deriving DecidableEq, Repr

/-- n bytes that lie in one page, read as data through a translation by the current context or a meridian. -/
def State.readPiece (s : State) (x : CtxId) (sup : Bool) (w : Waiting) (va : BitVec 56) (n : Nat) : Except FetchFail (List Byte) :=
  match s.xlateFor x (s.ctx x).reg.ptroot sup w .read va with
  | .error e => .error e
  | .ok l =>
    if s.refuses x.core va l n .read .scalar sup then failRead .prot va
    else
      let r := (s.readAs (s.me x) .l 0 l n).1
      if r.lost then failRead .contain va else .ok r.bytes

/-- A lost sector among the lines of a descriptor tells only where no other line's translation fails (R302). -/
def afterContain {α : Type} (e : FetchFail) (rest : Except FetchFail α) : Except FetchFail α :=
  match rest with
  | .error f => .error (if e.cause == .contain && !(f.cause == .contain) then f else e)
  | .ok _ => .error e

/-- The node entries of a descriptor and their heads. -/
def State.readNodes (s : State) (x : CtxId) (sup : Bool) (wait : Waiting) (va : BitVec 56) (stencils : Vector Word 8) (seqwin : Word) (k n : Nat) :
    Except FetchFail (List Descriptor) :=
  match n with
  | 0 => .ok []
  | n + 1 =>
    let rest := s.readNodes x sup wait va stencils seqwin (k + 1) n
    match s.readPiece x sup wait (va + BitVec.ofNat 56 (16 + 16 * k)) 16 with
    | .error e => afterContain e rest
    | .ok b =>
      let w0 := leAt b 0 8
      let w1 := leAt b 8 8
      let head : BitVec 56 := BitVec.ofNat 56 w0
      match s.fetchLine x (s.ctx x).reg.ptroot sup wait head with
      | .error e => afterContain e rest
      | .ok line =>
        let after := decide (w0 / 2 ^ 63 % 2 = 1)
        let d := readDescriptor line head after (w1 % 256 + 1) (w1 / 256 % 256 + 1) stencils seqwin
        let bad := (k == 0 && after) || w0 / 2 ^ 56 % 2 ^ 7 != 0 || head.toNat % 64 != 0 || w1 / 2 ^ 16 != 0 || !(isHead line)
        match rest with
        | .error e => .error e
        | .ok ds => .ok ({ d with valid := d.valid && !bad } :: ds)

/-- The graph at an address, as `launch` and a firing read it (R300, R302, R309). -/
def State.readGraph (s : State) (x : CtxId) (sup : Bool) (wait : Waiting) (va : BitVec 56) (stencils : Vector Word 8) (seqwin : Word) : Except FetchFail Graph :=
  match s.readPiece x sup wait va 16 with
  | .error e => .error e
  | .ok b =>
    let h := leAt b 0 8
    match s.readNodes x sup wait va stencils seqwin 0 (h / 2 ^ 12 % 16 + 1) with
    | .error e => .error e
    | .ok ds =>
      .ok { nodes := ds.map (·.node), ccnt := bits seqwin 0 12 + h % 2 ^ 12, sup := ds.any (·.node.sup),
            valid := ds.all (·.valid) && h / 2 ^ 16 == 0 && leAt b 8 8 == 0 && decide (h % 2 ^ 12 ≤ bits seqwin 16 12) }

end Sys2Proof.Machine
end

