-- ==== Sys2Proof/Machine/Quarters.lean ====
section
/-! DEFINITION. Quarters of the mirror: ownership, clearing at a grant (R183, R184), the record area (R200, R201), and the
accumulator bytes a switch saves (R313). -/

namespace Sys2Proof.Machine

/-- The memory keys of a window range of a core, in this package. -/
def State.windowKey (s : State) (c : Fin 1792) (space off : Nat) : Nat := homeKey s.fabric.coord (windowPa c space off)

/-- A key lies in n bytes from another. -/
def inRange (k lo n : Nat) : Bool := decide (lo ≤ k) && decide (k < lo + n)

/-- The bytes of a range become zero and its sectors clean. -/
def State.zeroRange (s : State) (lo n : Nat) : State :=
  { s with
    mem := s.mem.filter fun p => !(inRange p.1 lo n), lost := s.lost.filter fun k => !(inRange (32 * k) lo n)
    damaged := s.damaged.filter fun k => !(inRange (32 * k) lo n), views := s.views.filter fun v => !(inRange v.key lo n) }

/-- The quarters a slot owns (R184). -/
def SlotRegs.quarters (r : SlotRegs) : BitVec 4 := field r.mquart 0 4
def State.quarters (s : State) (x : CtxId) : BitVec 4 := (s.ctx x).reg.quarters

/-- A quarter becomes zero: planes, exponent rows, eyepieces, accumulators; its segments 1×1 arrays (R184).
A kept segment of an array that spanned the quarter goes on naming it (DESIGN CHOICE, notes/assumptions/111.md). -/
def State.clearQuarter (s : State) (c : Fin 1792) (j : Fin 4) : State :=
  let s := s.zeroRange (s.windowKey c 1 (j.val * 2 ^ 16)) (2 ^ 16)
  let s := s.zeroRange (s.windowKey c 4 (4 * j.val * 2 ^ 16)) (4 * 2 ^ 16)
  s.modCore c fun k => { k with
    seg := Vector.ofFn fun i => if i.val / 4 = j.val then Segment.reset i else k.seg.get i
    eye := Vector.ofFn fun i => if i.val / 2 = j.val then Eyepiece.reset else k.eye.get i }

/-- New ownership: quarters granted or taken away are cleared, the others keep their contents (R184). -/
def State.setQuarters (s : State) (x : CtxId) (q : BitVec 4) : State :=
  let old := s.quarters x
  let s := (List.finRange 4).foldl (fun s j => if flag q j.val != flag old j.val then s.clearQuarter x.core j else s) s
  s.modCtx x fun c => { c with reg := { c.reg with mquart := BitVec.ofNat 64 q.toNat } }

/-- The other context's slot. -/
def otherCtx (x : CtxId) : CtxId := { x with slot := if x.slot = 0 then 1 else 0 }

/-- The quarters the other resident context holds. -/
def State.otherQuarters (s : State) (x : CtxId) : BitVec 4 :=
  if (s.ctx (otherCtx x)).resident then s.quarters (otherCtx x) else 0

/-- An M operation of the context has not completed. -/
def State.mirrorBusy (s : State) (x : CtxId) : Bool :=
  !(s.ctx x).mqueue.isEmpty || (s.core x.core).flagsDue.any fun d => d.owner.serial == (s.ctx x).serial

/-- The context that owns a quarter of a core, if one does. -/
def State.quarterOwner (s : State) (c : Fin 1792) (j : Fin 4) : Option CtxId :=
  ([{ core := c, slot := 0 }, { core := c, slot := 1 }] : List CtxId).find? fun x => flag (s.quarters x) j.val

/-- The record area of a quarter as 256 bytes (R200): source records, mode word, array word, mirror flags. -/
def State.recordArea (s : State) (c : Fin 1792) (j : Fin 4) : List Byte :=
  let k := s.core c
  let segs := (List.finRange 4).map fun i => k.seg.get ⟨4 * j.val + i.val, by omega⟩
  let eyes := (List.finRange 2).map fun i => k.eye.get ⟨2 * j.val + i.val, by omega⟩
  let own := s.quarterOwner c j
  let mode := (own.map fun x => (s.ctx x).mmode.toNat).getD 0
  let flags := (own.map fun x => (s.ctx x).mflags.toNat).getD 0
  let arrays := ofElems 8 (segs.map fun g => BitVec.ofNat 8 (g.grc.val * 64 + g.gcc.val * 16 + g.first.val)) +
    2 ^ 32 * ofElems 1 (segs.map fun g => BitVec.ofBool g.sel)
  (segs.flatMap fun g => bytesOf 16 g.live.record.toNat ++ bytesOf 16 g.shadow.record.toNat) ++
    (eyes.flatMap fun e => bytesOf 16 e.record.toNat) ++ bytesOf 8 mode ++ bytesOf 8 arrays ++ bytesOf 8 flags ++
    List.replicate 72 0

/-- The owned accumulator bytes of a context, to save (R65, R313). -/
def State.ownedAcc (s : State) (x : CtxId) : List (Nat × Byte) :=
  let base := s.windowKey x.core 1 0
  s.mem.filterMap fun p =>
    if inRange p.1 base (2 ^ 18) && flag (s.quarters x) ((p.1 - base) / 2 ^ 16) then some (p.1 - base, p.2) else none

/-- Saved accumulator bytes are put back. -/
def State.restoreAcc (s : State) (x : CtxId) (l : List (Nat × Byte)) : State :=
  match l with
  | [] => s
  | (o, b) :: l => (s.putByte (s.windowKey x.core 1 o) b).restoreAcc x l

end Sys2Proof.Machine
end

