-- ==== Sys2Proof/Machine/Tasks.lean ====
section
/-! DEFINITION. Tasks, graphs and meridians: readiness and order (R298, R299), starting, killing and switching out a task
(R296, R311 to R313), retirement and completion of an instance (R304, R305), and the meridian (R306 to R309). -/

namespace Sys2Proof.Machine

/-! ## Teams and readiness -/

def teamFirst (team : Word) : Nat := bits team 0 11
def teamCount (team : Word) : Nat := bits team 32 11 + 1
def teamStage (team : Word) : Fin 8 := ⟨bits team 48 3, Nat.mod_lt _ (by decide)⟩
def teamPmin (team : Word) : Nat := bits team 56 7

/-- The logical core of a tile: member (x + W · y) mod members (R299). -/
def tileCore (team : Word) (w x y : Nat) : Nat := teamFirst team + (x + w * y) % teamCount team

def State.inst? (s : State) (id : Nat) : Option Inst := s.insts.find? (·.id == id)
def State.modInst (s : State) (id : Nat) (f : Inst → Inst) : State :=
  { s with insts := s.insts.map fun i => if i.id = id then f i else i }

/-- A tile has retired (R297, R298): outside the grid it counts as retired. -/
def Inst.tileDone (i : Inst) (k : Fin 16) (n : Node) (x y : Int) : Bool :=
  if x < 0 ∨ y < 0 ∨ n.w ≤ x ∨ n.h ≤ y then true
  else i.retired.contains (k, BitVec.ofInt 8 x, BitVec.ofInt 8 y)

/-- Every tile of a node has retired. -/
def Inst.nodeDone (i : Inst) (k : Nat) : Bool :=
  match i.nodes[k]? with
  | none => true
  | some n => decide (n.w * n.h ≤ (i.retired.filter fun t => t.1.val == k).length)

/-- A need is met (R298). -/
def State.needMet (s : State) (tag : BitVec 32) (need : Bool × Nat × Word) : Bool :=
  if h : need.2.1 < 4096 then
    let thr := if need.1 then satAdd need.2.2 (BitVec.ofNat 64 tag.toNat) else need.2.2
    decide (thr.toNat ≤ (s.counter ⟨need.2.1, h⟩).toNat)
  else false

/-- Commands that a run released stand in their queues; a receive that has posted its window does no longer (R304). -/
def State.serialBusy (s : State) (serial : Nat) : Bool :=
  s.cores.any fun (p : Fin 1792 × Core) =>
    (List.finRange 2).any fun q => (p.2.queue.get q).any (·.owner.serial == serial)

/-- A receive that has left its queue has not completed: its window is open, or its flag is still to complete (R377). -/
def State.receiveOpen (s : State) (f : Command → Bool) : Bool :=
  (s.fabric.windows.any fun w => f w.2.cmd) || s.cores.any fun (p : Fin 1792 × Core) => p.2.done.any fun d => f d.cmd

/-- Commands of a run have not completed, posted receives among them (R312). -/
def State.serialRuns (s : State) (serial : Nat) : Bool := s.serialBusy serial || s.receiveOpen (·.owner.serial == serial)

/-- Every need of a node is met, or was before a counter was rewound (R298, R460). -/
def State.needsMet (s : State) (i : Inst) (k : Fin 16) (n : Node) : Bool :=
  (List.range n.needs.length).all fun j => i.met.contains (k, j) || ((n.needs[j]?).map (s.needMet i.tag)).getD true

/-- The needs that are met now stay so whatever a counter is set to (R460). -/
def State.latchNeeds (s : State) : State :=
  { s with insts := s.insts.map fun (i : Inst) => { i with met := (List.finRange 16).flatMap fun k =>
      match i.nodes[k.val]? with
      | none => []
      | some n => ((List.range n.needs.length).filter fun j =>
          i.met.contains (k, j) || ((n.needs[j]?).map (s.needMet i.tag)).getD false).map (k, ·) } }

/-- A tile of an instance is ready to start: not yet started, its stencil, its node and its needs satisfied (R298, R312). -/
def State.tileReady (s : State) (i : Inst) (k : Fin 16) (n : Node) (x y : Nat) : Bool :=
  let t := (k, BitVec.ofNat 8 x, BitVec.ofNat 8 y)
  !(i.retired.contains t) && !(i.started.contains t) &&
  ((List.range 24).all fun b => !(flag n.stencil b) || i.tileDone k n ((x : Int) + (b % 7 : Nat) - 3) ((y : Int) + (b / 7 : Nat) - 3)) &&
  (!n.after || i.nodeDone (k.val - 1)) && s.needsMet i k n &&
  !(i.killed.any fun p => p.1 == t && s.serialRuns p.2)

/-- A task that may start or resume on a logical core. -/
structure ReadyTask where
  key   : TaskKey
  prio  : Fin 128
  quart : BitVec 4
  saved : Bool
deriving DecidableEq, Repr

/-- The keys of R299, in order, as one number: smaller goes first. -/
def ReadyTask.rank (r : ReadyTask) : Nat :=
  (((r.prio.val * 2 ^ 64 + r.key.inst) * 16 + r.key.node.val) * 256 + r.key.y.toNat) * 256 + r.key.x.toNat

/-- The ready tiles of a node on a logical core. -/
def State.readyTiles (s : State) (i : Inst) (k : Fin 16) (n : Node) (l : Nat) : List ReadyTask :=
  (List.range n.h).flatMap fun y => (List.range n.w).filterMap fun x =>
    if tileCore i.team n.w x y == l && s.tileReady i k n x y then
      some { key := { inst := i.id, node := k, x := BitVec.ofNat 8 x, y := BitVec.ofNat 8 y }, prio := i.prio, quart := n.quart,
             saved := false }
    else none

/-- The quarters of a saved task, as its `%mquart` held them. -/
def Saved.task? (v : Saved) : Option Task := v.ctx.task

/-- The ready tasks of a logical core (R298, R313). -/
def State.readyOn (s : State) (l : Fin 1792) : List ReadyTask :=
  (s.insts.flatMap fun i => (List.finRange 16).flatMap fun k =>
    match i.nodes[k.val]? with
    | some n => s.readyTiles i k n l.val
    | none => []) ++
  s.saved.filterMap fun v => match v.ctx.task with
    | some t => if v.log = l then some { key := v.key, prio := t.prio, quart := t.quart, saved := true } else none
    | none => none

/-- Ready tasks in the order they go (R299). -/
def inOrder (l : List ReadyTask) : List ReadyTask := l.mergeSort fun a b => decide (a.rank ≤ b.rank)

/-- Every context presents nothing: a shutter halt, a thermal trip, the rails off (R466, R470). -/
def State.halted (s : State) : Bool := s.mgmt.shutter.halt || s.mgmt.trip || s.mgmt.railsOff

/-- A slot can take a task: it is empty, and the other resident context holds none of the task's quarters (R303). -/
def State.slotFree (s : State) (x : CtxId) (quart : BitVec 4) : Bool :=
  !((s.ctx x).resident) && (s.otherQuarters x &&& quart) == 0 && !s.halted

/-- The task to start or resume in a slot next: the first in order that the slot can take (R299, R303). -/
def State.nextFor (s : State) (x : CtxId) : Option ReadyTask :=
  (inOrder (s.readyOn (s.logicalOf x))).find? fun r => s.slotFree x r.quart

/-! ## Starting a task (R296) -/

/-- Quarters an empty slot still names pass to the slot that is granted them. -/
def State.yieldQuarters (s : State) (x : CtxId) (q : BitVec 4) : State :=
  let y := otherCtx x
  if (s.ctx y).resident then s
  else s.modCtx y fun c => { c with reg := { c.reg with mquart := c.reg.mquart &&& ~~~(BitVec.ofNat 64 q.toNat) } }

/-- The registers a started task finds (R296): its tag, tile, argument and node; the rest as they stood; no phase open. -/
def startRegs (r : Regs) (t : Task) (arg : Word) : Regs :=
  let put (v : Word) : Tagged 64 := { val := v, tag := .clean }
  { r with
    s := ((((r.s.set 1 (put (BitVec.ofNat 64 t.tag.toNat))).set 2 (put (BitVec.ofNat 64 t.key.x.toNat))).set 3
      (put (BitVec.ofNat 64 t.key.y.toNat))).set 4 (put arg)).set 5 (put (BitVec.ofNat 64 t.key.node.val))
    phase := none }

/-- The slot as a task that starts finds it (R296, R332): what the rule does not name stands as the slot's previous task
left it. -/
def Ctx.startTask (c : Ctx) (t : Task) (serial : Nat) (arg : Word) (sup : Bool) : Ctx :=
  { c with
    status := .running, serial := serial, sup := sup, pc := t.head + 64, high := 0, checked := true, cameFrom := none,
    regs := startRegs c.regs t arg, delay := [], transfer := none, flags := Flags.reset,
    wn := Vector.replicate 4 0, winWrites := [], releasing := none, walk := none, refusal := none, atCkpt := true, pause := 0, cycles := 0, pos := 0, slice := 0, withheld := [], commands := [],
    ordered := Vector.replicate 16 serial, overdue := [], pend := [], served := 0, cursor := 1, carveWord := none, carveOld := none, lateHeld := none, evict := none, deferTo := none,
    task := some t,
    reg := { c.reg with uistat := putField c.reg.uistat 0 8 0, lostw := false }
    resume := none, reloadErr := none, rephase := false }

/-- A fresh task starts in a slot (R25, R296): its head line is read again, and a fault of it is taken before the first
bundle. In replay of a logbook, a start whose START is not there waits (R337). -/
def State.startTask (s : State) (x : CtxId) (r : ReadyTask) : State :=
  match s.inst? r.key.inst with
  | none => s
  | some i =>
    match i.nodes[r.key.node.val]? with
    | none => s
    | some n =>
      let det : Fin 4 := ⟨bits (s.ctx x).reg.detctl 0 2, Nat.mod_lt _ (by decide)⟩
      let t : Task := {
        key := r.key, tag := i.tag, prio := i.prio, head := n.head, cycles := n.cycles, pol := n.pol,
        quart := n.quart, elapsed := 0, counted := false, det := det, start := s.streamCount x }
      let begun : Option (Nat × State) :=
        if det = 0 then some (t.start, s)
        else match s.claimStart x t with
          | some p => some p
          | none => if det = 1 then some (t.start, s) else none
      match begun with
      | none => s
      | some (st, s) =>
        let t := { t with start := st }
        let (serial, s) := s.fresh
        let s := s.modInst i.id fun i => { i with started := (r.key.node, r.key.x, r.key.y) :: i.started }
        let s := (s.yieldQuarters x n.quart).setQuarters x n.quart
        let s := s.modCtx x fun c => (c.startTask t serial i.arg n.sup).applyLevels (s.core x.core).clock.toNat
        let s := ((s.snapshot x).startAcquire x).traceEvent x 0xF0
        match s.fetchLine x (s.ctx x).reg.ptroot n.sup .device n.head with
        | .error e => s.takeFault x e.cause 8 { Info.none with addr := e.addr, sub := e.sub, src := some n.head, looked := e.looked }
        | .ok line =>
          if isHead line then s else s.takeFault x .badbundle 8 { Info.none with src := some n.head }

/-! ## Leaving a slot -/

/-- Released stores in transit arrive (their time of arrival is free), those refused being parked (R261). -/
def State.arriveAll (s : State) (x : CtxId) (fuel : Nat) : State :=
  match fuel with
  | 0 => s
  | f + 1 =>
    match (List.range (s.ctx x).released.length).find? (s.mayPerform x) with
    | some n => (s.arriveStore x n).arriveAll x f
    | none => s

def State.settleStores (s : State) (x : CtxId) : State := s.arriveAll x (s.ctx x).released.length

/-- The slot is empty; its registers stand (R296, R472). -/
def Ctx.vacate (c : Ctx) : Ctx :=
  { c with status := .empty, serial := 0, high := 0, delay := [], transfer := none, withheld := [], commands := [], mqueue := [],
           winWrites := [], releasing := none, walk := none, refusal := none, pause := 0, carveWord := none, carveOld := none, lateHeld := none, evict := none, deferTo := none, task := none, resume := none,
           reloadErr := none, rephase := false, overdue := [] }

/-- The slot is left by whatever was there: handler and keep copies with it. A record that has not been written is still
to be, and halts nothing any more. -/
def State.leaveSlot (s : State) (x : CtxId) : State :=
  let s := ((s.landTables x).modCtx x Ctx.vacate).modCore x.core fun k => (k.dropKeeps x.slot).endHandler x.slot
  { s with waiting := s.waiting.map fun w => if w.ctx = some x then { w with ctx := none } else w }

/-- The completed operations of a task that is gone. -/
def State.forget (s : State) (serial : Nat) : State := { s with finished := s.finished.filter fun f => f.owner.serial != serial }

/-- A task is killed (R312). -/
def State.killTask (s : State) (x : CtxId) : State :=
  match (s.ctx x).task with
  | none => s
  | some t =>
    let serial := (s.ctx x).serial
    let s := s.modCtx x fun c => { c with withheld := [], commands := [], mqueue := [], reg := { c.reg with
      tstat := putField c.reg.tstat 16 16 (bits c.reg.tstat 16 16 + 1) } }
    let s := s.settleStores x
    let tile := (t.key.node, t.key.x, t.key.y)
    let s := s.modInst t.key.inst fun i => { i with started := i.started.erase tile, killed := (tile, serial) :: i.killed }
    let s := if t.det = 0 then s else s.unclaim x t.start
    (s.leaveSlot x).forget serial

/-! ## Switching out (R313) -/

/-- A task may be switched out here: it stands at a checkpoint, its mirror work is done, its replay queue is empty and no
handler of it runs (R200, R263, R276). -/
def State.maySwitch (s : State) (x : CtxId) : Bool :=
  let c := s.ctx x
  (c.status == .running || c.status == .halted) && c.atCkpt && c.task.isSome && c.mqueue.isEmpty && c.withheld.isEmpty &&
  c.commands.isEmpty && !((s.core x.core).flagsDue.any (·.owner.serial == c.serial)) && c.parked.isEmpty &&
  (match (s.core x.core).bank with | some b => b.slot != x.slot | none => true)

/-- A save frame of the pool that a slot names, which no task saved under that name occupies: slots with different names
do not know of each other's frames (R314). -/
def State.freeFrame (s : State) (x : CtxId) : Option Nat :=
  let p := (s.ctx x).reg.tpool
  (List.range (bits p 0 8)).find? fun j => !(s.saved.any fun v => v.pool == p && v.frame == j)

/-- The address of a save frame, in frames (R314). -/
def Saved.frameNo (v : Saved) : Nat := bits v.pool 19 33 + v.frame

/-- What memory holds in a save frame (R314). -/
def State.frameImage (s : State) (frame : Nat) : List Host.Cell :=
  let lo := homeKey s.fabric.coord (frame * 2 ^ 19)
  s.mem.filter fun p => inRange p.1 lo (2 ^ 19)

/-- The state of a task is written into its frame: bytes that are not architectural, free values here (R313, R314;
notes/assumptions/28.md). -/
def State.writeFrame (s : State) (frame : Nat) : State :=
  let lo := homeKey s.fabric.coord (frame * 2 ^ 19)
  { s with
    mem := putRange s.mem lo ((List.range (2 ^ 19)).map fun i => Config.freeByte (s.free + i))
    free := s.free + 2 ^ 19 }

/-- Two tasks saved into one frame: the earlier one's state there is the later one's (R314). -/
def Saved.overwrite (v : Saved) (w : Saved) : Saved :=
  if v.frameNo = w.frameNo then
    { v with ctx := { w.ctx with serial := v.ctx.serial, task := v.ctx.task }, acc := w.acc, segs := w.segs, eyes := w.eyes
             image := w.image }
  else v

/-- A saved task's registers after its frame has been written: none of them is known (R314). -/
def corrupted (n : Nat) (r : Regs) : Regs :=
  let nat (i : Nat) : Nat := Config.freeNat (n + i)
  { r with
    s := Vector.ofFn fun i => { val := BitVec.ofNat 64 (nat (2 * i.val)), tag := tagOf (nat (2 * i.val + 1)) }
    v := Vector.ofFn fun i => { val := BitVec.ofNat 4096 (nat (128 + 2 * i.val)), tags := wordTags (nat (129 + 2 * i.val)) }
    m := Vector.ofFn fun i => { val := BitVec.ofNat 128 (nat (256 + 2 * i.val)), tags := wordTags (nat (257 + 2 * i.val)) }
    z := Vector.ofFn fun i => { val := BitVec.ofNat 128 (nat (288 + 2 * i.val)), tag := tagOf (nat (289 + 2 * i.val)) }
    q := Vector.ofFn fun i => { val := BitVec.ofNat 64 (nat (320 + 2 * i.val)), tag := tagOf (nat (321 + 2 * i.val)) }
    hg := Vector.ofFn fun i => BitVec.ofNat 64 (nat (336 + i.val)), hs := Vector.ofFn fun i => BitVec.ofNat 64 (nat (352 + i.val))
    hold := Vector.ofFn fun i => { val := BitVec.ofNat 4096 (nat (368 + 2 * i.val)), tags := wordTags (nat (369 + 2 * i.val)) }
    dims := Vector.ofFn fun i => BitVec.ofNat 1088 (nat (372 + i.val))
    round := BitVec.ofNat 64 (nat 436), fpflags := BitVec.ofNat 64 (nat 437), vcls := BitVec.ofNat 64 (nat 438)
    stencil := Vector.ofFn fun i => BitVec.ofNat 64 (nat (439 + i.val)), lvec := BitVec.ofNat 64 (nat 447), phase := none }

/-- A saved task as it comes back: as it was, or, where its frame has been written, with registers, flags, place and
accumulators that are free values, and nothing in flight (R314). -/
def State.fromFrame (s : State) (v : Saved) : Saved × State :=
  if s.frameImage v.frameNo = v.image then (v, s)
  else
    let n := s.free
    let c := v.ctx
    let r := corrupted n c.regs
    let pc := BitVec.ofNat 56 (Config.freeNat (n + 448))
    let flags := { c.flags with set := BitVec.ofNat 32 (Config.freeNat (n + 449)), err := BitVec.ofNat 32 (Config.freeNat (n + 450)) }
    let acc := (List.range (2 ^ 18)).map fun i => (i, Config.freeByte (n + 451 + i))
    ({ v with
        ctx := { c with
          regs := r, pc := pc, high := 0, delay := [], transfer := none, flags := flags
          keep := { c.keep with regs := r, pc := pc, high := 0, delay := [], transfer := none, set := flags.set } }
        acc := acc.filter fun p => (c.task.map fun t => flag t.quart (p.1 / 2 ^ 16)).getD false },
      { s with free := n + 451 + 2 ^ 18 })

/-- A task leaves its slot with its state, its accumulators and the records its planes and eyepieces are rebuilt from
(R200, R313). -/
def State.switchOut (s : State) (x : CtxId) : State :=
  let s := s.settleStores x
  match (s.ctx x).task, s.freeFrame x with
  | some t, some f =>
    if !(s.maySwitch x) then s
    else
      let s := (((s.traceEvent x 0xF3).applyWindow x).recall x).landTables x
      let c := s.ctx x
      let c := { c with delay := c.delay.filter (·.isKept), walk := none, refusal := none }
      let k := s.core x.core
      let own (j : Nat) : Bool := flag (s.quarters x) j
      let v : Saved := {
        key := t.key, ctx := c, acc := s.ownedAcc x,
        segs := ((List.finRange 16).filter fun i => own (i.val / 4)).map fun i => (i, k.seg.get i)
        eyes := ((List.finRange 8).filter fun i => own (i.val / 2)).map fun i => (i, k.eye.get i)
        frame := f, pool := c.reg.tpool, halted := c.status == .halted, due := [], log := s.logicalOf x, place := x
        image := [] }
      let s := s.writeFrame v.frameNo
      let v := { v with image := s.frameImage v.frameNo }
      let s := { s with saved := (s.saved.map fun (u : Saved) => u.overwrite v) ++ [v] }
      let s := s.modCtx x fun c => { c with reg := { c.reg with tstat := putField c.reg.tstat 32 16 (bits c.reg.tstat 32 16 + 1) } }
      (s.leaveSlot x).modCore x.core fun k => k.dropSlots x.slot
  | _, _ => s

/-- A decided switch can be made (R313): the context has come to a checkpoint since, or is halted at one. -/
def State.switchDue (s : State) (x : CtxId) : Bool :=
  let c := s.ctx x
  (c.evict.any fun e => e.reached || c.status == .halted) && s.maySwitch x && (s.freeFrame x).isSome

/-- A context stands at the checkpoint it is to be switched out at and waits there for its mirror work (R200, R313). -/
def State.switchWaits (s : State) (x : CtxId) : Bool :=
  let c := s.ctx x
  (c.evict.any (·.reached)) && c.atCkpt && c.task.isSome && c.parked.isEmpty && (s.freeFrame x).isSome && s.mirrorBusy x

/-! ## Pre-emption (R311) -/

/-- How readily a task of a policy is taken: kill before checkpoint before drain. -/
def polRank (p : Fin 4) : Nat :=
  match p with
  | 2 => 0 | 1 => 1 | _ => 2

/-- Of two candidates, the one to take: by policy, then the larger priority number, then the later launched; of two that none
of these tells apart the first in slot order (DESIGN CHOICE, notes/assumptions/116.md). -/
def worse (a b : CtxId × Task) : CtxId × Task :=
  let better (x y : Task) : Bool :=
    decide (polRank x.pol < polRank y.pol) || (polRank x.pol == polRank y.pol &&
      (decide (y.prio.val < x.prio.val) || (x.prio == y.prio && decide (y.key.inst < x.key.inst))))
  if better b.2 a.2 then b else a

/-- The slots whose task a ready task may take: those of its logical core, and the one that holds its quarters. -/
def State.victimSlots (s : State) (l : Fin 1792) (quart : BitVec 4) : List CtxId :=
  let own := s.slotsOf l
  let others := (own.map otherCtx).filter fun y => !(own.contains y) && (s.ctx y).resident && (s.quarters y &&& quart) != 0
  (own ++ others).eraseDups

/-- The candidate a ready task takes, if there is one (R311): tasks of lower priority, and tasks of equal priority whose
quantum has run out. -/
def State.victim (s : State) (l : Fin 1792) (r : ReadyTask) : Option (CtxId × Task) :=
  let own := s.slotsOf l
  let cands := (s.victimSlots l r.quart).filterMap fun x =>
    let c := s.ctx x
    match c.task with
    | some t =>
      let quantum := bits c.reg.swcost 32 16
      if r.prio.val < t.prio.val || (r.prio == t.prio && own.contains x && quantum != 0 && decide (quantum ≤ c.slice)) then some (x, t)
      else none
    | none => none
  match cands with
  | [] => none
  | a :: l => some (l.foldl worse a)

/-- Tokens of a ready task's instance. -/
def State.tokensOf (s : State) (r : ReadyTask) : Nat := ((s.inst? r.key.inst).map (·.tokens)).getD 0

/-- The decision of R311 for a ready task and its victim; none where the task waits. -/
def State.decideFor (s : State) (r : ReadyTask) (x : CtxId) (t : Task) : Option State :=
  let c := s.ctx x
  let cost := bits c.reg.swcost 0 32
  let low := decide (r.prio.val ≠ 0)
  if t.pol = 0 then none
  else if (match c.deferTo with | some d => low && decide (c.slice < d) | none => false) then none
  else if low && decide (c.slice < cost) then
    some <| s.modCtx x fun c => { c with
      deferTo := some (cost + bits c.reg.swcost 32 16)
      reg := { c.reg with tstat := putField (putField c.reg.tstat 48 16 (bits c.reg.tstat 48 16 + 1)) 0 1 1 } }
  else if t.pol = 2 then some (s.killTask x)
  else if t.cycles.toNat - t.elapsed ≤ cost then none
  else if low && s.tokensOf r == 0 then none
  else if (s.freeFrame x).isNone || c.evict.isSome then none
  else
    let s := s.modCtx x fun c => { c with evict := some { since := (s.core x.core).clock.toNat, reached := false } }
    some (if low then s.modInst r.key.inst fun i => { i with tokens := i.tokens - 1 } else s)

/-- The decision for a logical core: of its ready tasks that find no slot, in order, the first that does not wait has its
way with its victim (R311). -/
def State.preempt (s : State) (l : Fin 1792) : State :=
  let seek (r : ReadyTask) : Option State :=
    if (s.slotsOf l).any fun x => s.slotFree x r.quart then none
    else (s.victim l r).bind fun (x, t) => s.decideFor r x t
  ((inOrder (s.readyOn l)).findSome? seek).getD s

/-! ## Meridians (R306 to R308) -/

/-- Automatic W entries that waited enter as soon as there is room, before any other W arrival (R306). -/
def Meridian.settleW (m : Meridian) : Meridian :=
  let q := m.queue.get 2
  let n := 64 - q.length
  { m with queue := m.queue.set 2 (q ++ m.wauto.take n), wauto := m.wauto.drop n }

def State.modMeridian (s : State) (m : Fin 8) (f : Meridian → Meridian) : State :=
  { s with meridian := s.meridian.set m (f (s.meridian.get m)) }

/-- A queue has room for an entry. -/
def Meridian.room (m : Meridian) (q : Fin 3) : Bool := decide ((m.settleW.queue.get q).length < 64)

def Meridian.append (m : Meridian) (q : Fin 3) (e : BitVec 32 × Word) : Meridian :=
  let m := m.settleW
  { m with queue := m.queue.set q (m.queue.get q ++ [e]) }

/-- An entry appended to queue B prefetches the stage's objects of its tag (R365). -/
def State.prefetchFor (s : State) (m : Fin 8) (tag : BitVec 32) : State :=
  let w := s.stpf.get m
  if flag w 63 then
    { s with prefetch := s.prefetch ++ ((List.range (bits w 32 16 + 1 - bits w 0 16)).map fun i =>
      (m, BitVec.ofNat 16 (bits w 0 16 + i), tag)) }
  else s

/-- An entry joins a queue of a meridian (R306). -/
def State.addEntry (s : State) (m : Fin 8) (q : Fin 3) (tag : BitVec 32) (arg : Word) : State :=
  let s := s.modMeridian m fun d => d.append q (tag, arg)
  if q = 1 then s.prefetchFor m tag else s

/-- Instances of a team in flight (R302). -/
def State.teamInFlight (s : State) (team : Word) : Nat :=
  (s.insts.filter fun i => teamFirst i.team == teamFirst team && teamCount i.team == teamCount team && teamStage i.team == teamStage team).length

/-- The stash use of a stage in a pool (R357, R358): near and lossy objects, or far ones. -/
def State.stashUse (s : State) (k : Fin 8) (far : Bool) : Nat :=
  ((s.stash.filter fun o => o.stage == k && (if far then o.place == 1 else o.place == 0 || o.place == 2)).map (·.size)).sum

/-- Stash occupancy in 1/256 of the budget (R358). -/
def State.stashLevel (s : State) (k : Fin 8) : Nat :=
  let b := (bits (s.stbud.get k) 0 32 + bits (s.stbud.get k) 32 32) * 2 ^ 16
  if b = 0 then 255 else min 255 (256 * (s.stashUse k false + s.stashUse k true) / b)

/-- `%mqd` of a meridian, for a team (R307). -/
def State.mqd (s : State) (m : Fin 8) (team : Word) : Word :=
  let d := s.meridian.get m
  BitVec.ofNat 64 (s.stashLevel m * 2 ^ 40 + min 16 (s.teamInFlight team) * 2 ^ 32 + d.infl * 2 ^ 24 + (d.queue.get 2).length * 2 ^ 16 +
    (d.queue.get 1).length * 2 ^ 8 + (d.queue.get 0).length)

/-- A new instance (R302): its scoreboards cleared. A launch from F counts in infl (R307). -/
def State.newInst (s : State) (team seqwin : Word) (tag : BitVec 32) (prio : Fin 128) (tokens : Nat) (arg : Word) (g : Graph)
    (origin : Option (Fin 8 × Fin 3)) : State :=
  let (id, s) := s.fresh
  let s := { s with insts := s.insts ++ [{
    id := id, team := team, seqwin := seqwin, tag := tag, prio := prio, tokens := tokens,
    arg := arg, ccnt := g.ccnt, nodes := g.nodes, retired := [], started := [], killed := [], met := [], origin := origin }] }
  match origin with
  | some (m, 0) => s.modMeridian m fun d => { d with infl := min 127 (d.infl + 1) }
  | _ => s

/-- An instance completes (R305): its counter rises, and watches fire (R282). -/
def State.completeInst (s : State) (i : Inst) : State :=
  let s := { s with insts := s.insts.filter fun j => j.id != i.id }
  let s := if h : i.ccnt < 4096 then ({ s.addCounter ⟨i.ccnt, h⟩ 1 with flush := s.flush ++ [i.ccnt] } : State).watchAll else s
  match i.origin with
  | some (m, 1) => s.modMeridian m fun d =>
      let d := { d with infl := d.infl - 1 }
      if flag d.ctl 62 then ({ d with wauto := d.wauto ++ [(i.tag, i.arg)] }).settleW else d
  | _ => s

/-! ## Retirement (R304) -/

/-- Everything the task wrote, and its engines' completed writes, is released at domain scope (R264). -/
def State.publishTask (s : State) (x : CtxId) : State :=
  let s := { s with views := s.views.map fun (v : View) =>
    if v.owner.serial = (s.ctx x).serial then { v.release x.core 4 with done := true } else v }
  s.publish x 4

/-- The context may end its task: nothing waits for its release, its mirror queue, released commands, replay queue and delay
lines are empty (R304), and the acknowledgments that a release at domain scope waits for have come (R264, R383). -/
def State.mayRetire (s : State) (x : CtxId) : Bool :=
  let c := s.ctx x
  c.releasing.isNone && c.withheld.isEmpty && c.commands.isEmpty && !(s.releaseWaits x 4) &&
  c.mqueue.isEmpty && !(s.serialBusy c.serial) && c.parked.isEmpty && c.delay.isEmpty && c.released.isEmpty &&
  !((s.core x.core).flagsDue.any (·.owner.serial == c.serial))

/-- The task's end: the release, the scoreboard bit, the slot given back (R304). A context that holds no task only
leaves its slot. -/
def State.retireTask (s : State) (x : CtxId) : State :=
  let s := ((s.publishTask x).traceEvent x 0xF1).forget (s.ctx x).serial
  match (s.ctx x).task with
  | none => s.leaveSlot x
  | some t =>
    let s := s.leaveSlot x
    match s.inst? t.key.inst with
    | none => s
    | some i =>
      let i := { i with retired := (t.key.node, t.key.x, t.key.y) :: i.retired }
      let s := s.modInst i.id fun _ => i
      if (List.range i.nodes.length).all i.nodeDone then s.completeInst i else s

/-! ## Firing (R308, R309) -/

structure PolicyRow where
  q     : Nat
  prio  : Fin 128
  tokens : Nat
  graph : Fin 16
deriving DecidableEq, Repr

/-- Row r of a meridian matches. -/
def State.rowMatches (s : State) (m : Fin 8) (team : Word) (r : Fin 16) : Option PolicyRow :=
  let d := s.meridian.get m
  let w0 := d.pol.get ⟨2 * r.val, by omega⟩
  let w1 := d.pol.get ⟨2 * r.val + 1, by omega⟩
  let len (q : Fin 3) : Nat := (d.queue.get q).length
  let q := bits w0 61 2
  let qlen := if h : q < 3 then len ⟨q, h⟩ else 0
  if flag w0 63 && decide (bits w0 54 7 ≤ len 0) && decide (bits w0 47 7 ≤ len 1) && decide (bits w0 40 7 ≤ len 2) &&
     decide (bits w0 33 7 ≤ d.infl) && decide (d.infl ≤ bits w0 26 7) && decide (s.stashLevel m ≤ bits w0 18 8) &&
     decide (0 < qlen) && decide (s.teamInFlight team < 16) then
    some { q := q, prio := ⟨bits w1 31 7, Nat.mod_lt _ (by decide)⟩, tokens := bits w1 27 4, graph := ⟨bits w1 23 4, Nat.mod_lt _ (by decide)⟩ }
  else none

/-- The first matching row of a meridian, with the slot that supplies its instances. -/
def State.firingRow (s : State) (m : Fin 8) : Option (CtxId × PolicyRow) :=
  let d := s.meridian.get m
  match d.owner with
  | none => none
  | some x =>
    if flag d.ctl 63 then ((List.finRange 16).findSome? (s.rowMatches m (s.ctx x).reg.team)).map fun r => (x, r) else none

/-- A firing (R309): the entry is popped and an instance created, or, for a graph that is invalid or cannot be read, the
entry is discarded, en cleared and the supervisor told. -/
def State.fireMeridian (s : State) (m : Fin 8) : State :=
  match s.firingRow m with
  | none => s
  | some (x, r) =>
    if h : r.q < 3 then
      let d := s.meridian.get m
      match d.queue.get ⟨r.q, h⟩ with
      | [] => s
      | (tag, arg) :: rest =>
        let s := s.modMeridian m fun d => ({ d with queue := d.queue.set r.q rest }).settleW
        let c := s.ctx x
        let va : BitVec 56 := field (d.gr.get r.graph) 0 56
        let fail (sub : Nat) : State :=
          let s := s.modMeridian m fun d => { d with ctl := putField d.ctl 63 1 0 }
          s.meridianNotice ⟨teamFirst c.reg.team % 1792, Nat.mod_lt _ (by decide)⟩ va sub
        match s.readGraph x true .device va c.regs.stencil c.reg.seqwin with
        | .error e => fail (causeCode e.cause)
        | .ok g =>
          if g.valid && va.toNat % 64 == 0 then
            s.newInst c.reg.team c.reg.seqwin tag r.prio r.tokens arg g (some (m, ⟨r.q, h⟩))
          else fail 0
    else s

end Sys2Proof.Machine
end

