-- ==== Sys2Proof/Machine/Control.lean ====
section
/-! DEFINITION. The control registers (R69 to R72 and each chapter's table): who may read and write each, what a read
answers, which values a write refuses, and what a write does. -/

namespace Sys2Proof.Machine

/-! ## Access (R69) -/

/-- An access is allowed: BADOP for an unassigned number, PRIV for one the column does not allow (R69). -/
def ctlAllowed (n : Nat) (write sup : Bool) : Except Stop Unit :=
  match ctlAccess n with
  | none => raise .badop
  | some (r, w) => if (if write then w else r) == .sup && !sup then raise .priv else .ok ()

/-- A write has no effect (R2, R69). -/
def ctlIgnored (n : Nat) : Bool :=
  match ctlAccess n with
  | some (_, .ignored) => true
  | _ => false

/-! ## Reads -/

/-- `%fabid` (R374). -/
def Fabric.id (f : Fabric) : Word :=
  BitVec.ofNat 64 ((f.ndom.val - 1) * 2 ^ 40 + f.dom.val * 2 ^ 32 + f.lv.toNat * 2 ^ 31 + f.px.toNat * 2 ^ 22 + f.py.toNat * 2 ^ 16 +
    f.coord.toNat)

/-- A port is up: a lane runs and it is not isolated (R371, R397). -/
def Port.up (p : Port) : Bool := p.lanes != 0 && !p.isolated

def Port.status (p : Port) : Word :=
  BitVec.ofNat 64 (p.longHaul.toNat * 2 ^ 63 + p.up.toNat * 2 ^ 62 + p.bound.toNat * 2 ^ 32 + p.badtag.toNat * 2 ^ 16 + p.replay.toNat)

/-- Entry i of the declarations, newest first (R374). -/
def Fabric.declared (f : Fabric) (i : Nat) : Nat :=
  match f.dp[i]? with
  | some (d, c) => 2 ^ 15 + d.val * 2 ^ 12 + c.toNat
  | none => 0

/-- The eight remap bytes of `%rmap`j in a core's cluster (R288). -/
def State.rmap (s : State) (core : Fin 1792) (j : Nat) : Word :=
  BitVec.ofNat 64 (ofElems 8 ((List.range 8).map fun b =>
    s.remapEntry ⟨core.val / 64 * 64 + (8 * j + b) % 64, by have := core.isLt; omega⟩))

/-- The cause bytes of `%ferr`k: 0 where the error bit is clear (R271). -/
def Flags.ferr (f : Flags) (k : Nat) : Word :=
  BitVec.ofNat 64 (ofElems 8 ((List.range 8).map fun j => if flag f.err (8 * k + j) then nth f.cause (8 * k + j) else 0))

/-- A control register as a slot reads it. -/
def State.readCtl (s : State) (x : CtxId) (n : Nat) : Word :=
  let c := s.ctx x
  let k := s.core x.core
  let m := s.meridian.get (teamStage c.reg.team)
  if n = 0x000 then BitVec.ofNat 64 (1792 - s.absent.length)
  else if n = 0x001 then c.regs.round
  else if n = 0x002 then c.regs.fpflags
  else if n = 0x003 then c.regs.vcls
  else if n = 0x004 then c.reg.regbase
  else if n = 0x005 then c.reg.regspill
  else if n = 0x006 then c.reg.regfill
  else if n < 0x018 then nth c.regs.stencil n
  else if n = 0x018 then c.reg.swcost
  else if n = 0x020 then k.carve.get x.slot
  else if n = 0x021 then k.ldhint
  else if n = 0x022 then k.l1acc
  else if n = 0x023 then k.l1miss
  else if n = 0x024 then k.l1wb
  else if n = 0x025 then k.blkev
  else if n = 0x026 then k.cqdone
  else if n = 0x040 then c.reg.mquart
  else if n = 0x060 then BitVec.ofNat 64 (c.reg.refused.toNat * 2 ^ 7 + c.parked.length % 2 ^ 7)
  else if n = 0x061 then 0
  else if n = 0x062 then
    match c.parked with
    | [] => 0
    | o :: _ => BitVec.ofNat 64 (((o.parked <|> o.resent).map causeCode).getD 0 * 2 ^ 56 + ((o.lanes.head?.map (·.va.toNat)).getD 0))
  else if n < 0x074 then c.flags.ferr (n % 4)
  else if n = 0x074 then c.flags.word
  else if n < 0x090 then nth c.regs.hg n
  else if n < 0x0A0 then nth c.regs.hs n
  else if n = 0x0A0 then c.reg.uictl
  else if n = 0x0A1 then c.reg.uistat
  else if n = 0x0A2 then c.reg.seqwin
  else if n < 0x0B0 then (if n % 2 = 0 then nth c.wn (n / 2 % 4) else nth c.wt (n / 2 % 4))
  else if n = 0x0C0 then c.reg.team
  else if n = 0x0C1 then c.reg.tpool
  else if n = 0x0C2 then c.reg.tstat
  else if n < 0x0D0 then s.rmap x.core (n % 8)
  else if n < 0x120 then nth m.pol n
  else if n < 0x130 then nth m.gr n
  else if n = 0x130 then s.mqd (teamStage c.reg.team) c.reg.team
  else if n = 0x131 then m.ctl
  else if n = 0x140 then putField (putField c.reg.ckstat 7 5 c.commands.length) 0 7 c.withheld.length
  else if n = 0x141 then s.frq
  else if n = 0x142 then s.frTail ++ s.frHead
  else if n = 0x143 then BitVec.ofNat 64 ((c.status == .halted).toNat * 2 ^ 63 + c.reg.lostw.toNat * 2 ^ 62)
  else if n = 0x144 then c.regs.lvec
  else if n = 0x145 then c.reg.lstat
  else if n = 0x146 then c.reg.detctl
  else if n = 0x147 then c.reg.phbase
  else if n = 0x148 then (s.streamReg x).lbbase
  else if n = 0x149 then (s.streamReg x).lbpos
  else if n = 0x14A then c.reg.trctl
  else if n = 0x14B then c.reg.trpos
  else if n < 0x168 then nth s.stbud n
  else if n < 0x170 then nth s.stpf n
  else if n = 0x170 then c.reg.ptroot
  else if n = 0x171 then c.reg.tlbstat
  else if n < 0x17A then nth s.vrb (n - 0x172)
  else if n = 0x17A then s.vpool
  else if n = 0x180 then s.fabric.id
  else if n = 0x181 then s.fabric.chbase
  else if n < 0x186 then nth s.fabric.peer (n - 0x182)
  else if n = 0x186 then c.reg.nrlr
  else if n = 0x187 then s.fabric.nrdl
  else if n = 0x188 then s.fabric.e2et
  else if n = 0x189 then (s.fabric.port.get 4).status
  else if n = 0x18A then (s.fabric.port.get 5).status
  else if n = 0x18B then BitVec.ofNat 64 (s.fabric.dup.toNat * 2 ^ 32 + s.fabric.decl.toNat)
  else if n < 0x190 then
    BitVec.ofNat 64 (ofElems 16 ((List.range 4).map fun i => BitVec.ofNat 16 (s.fabric.declared (4 * (n % 4) + i))))
  else 0

/-! ## Refused values -/

/-- `%hg` (R283). -/
def hgBad (v : Word) : Bool :=
  if flag v 63 then bits v 0 17 != 0 || decide (2 ^ 17 < bits v 40 17 + (bits v 28 12 + 1) * (bits v 17 11 + 1)) else v != 0

/-- `%hs` of a handle (R283). -/
def hsBad (hg v : Word) : Bool :=
  !(flag hg 63) || bits v 26 2 != 0 || decide (hgSlots hg ≤ bits v 0 12) || decide (hgSlots hg ≤ bits v 13 12) ||
  decide (hgSlots hg ≤ bits v 46 12) || decide (hgSlots hg ≤ bits v 28 12)

/-- A carve word that breaks R218 (R221 step 1). -/
def carveBad (v : Word) : Bool :=
  bits v 22 42 != 0 || bits v 14 2 != 0 || bits v 6 2 != 0 || decide (30 < bits v 16 6) || bits v 8 6 == 0 || decide (31 < bits v 8 6) ||
  bits v 0 6 == 0 || decide (31 < bits v 0 6) || bits v 16 6 + bits v 8 6 + bits v 0 6 != 32

/-- A policy row's words (R308). -/
def polBad (n : Nat) (v : Word) : Bool :=
  if n % 2 = 0 then
    bits v 0 18 != 0 || decide (64 < bits v 54 7) || decide (64 < bits v 47 7) || decide (64 < bits v 40 7) || (flag v 63 && bits v 61 2 == 3)
  else bits v 38 26 != 0 || bits v 0 23 != 0

/-- Two enabled regions overlap (R366). -/
def regionsMeet (a b : Word) : Bool :=
  flag a 63 && flag b 63 && decide (bits a 21 31 < bits b 21 31 + bits b 0 21) && decide (bits b 21 31 < bits a 21 31 + bits a 0 21)

/-- `%vrb`k (R366). -/
def State.vrbBad (s : State) (k : Fin 8) (v : Word) : Bool :=
  let o := s.vrb.get k
  let live := bits o 52 8 != 0
  bits v 60 3 != 0 || (flag o 63 && live && (bits v 21 31 != bits o 21 31 || bits v 0 21 != bits o 0 21 || !(flag v 63))) ||
  (List.finRange 8).any fun j => j != k && regionsMeet v (s.vrb.get j)

/-- The value breaks the register's field map or its rules; the cause an `mts` raises (R69, R94, R184, R218, R271, R274,
R278, R283, R292, R308, R314, R315, R323 to R342, R348, R358, R366, R373, R374). -/
def State.ctlBad (s : State) (x : CtxId) (n : Nat) (v : Word) : Option Cause :=
  let c := s.ctx x
  let bad (b : Bool) : Option Cause := if b then some .badop else none
  if n = 0x001 then bad (bits v 3 61 != 0 || decide (4 < bits v 0 3))
  else if n = 0x002 then bad (bits v 6 58 != 0)
  else if n = 0x003 then bad (bits v 4 60 != 0)
  else if n = 0x004 then bad (bits v 0 17 != 0)
  else if n < 0x010 then none
  else if n < 0x018 then bad (bits v 24 40 != 0)
  else if n = 0x018 then bad (bits v 48 16 != 0)
  else if n = 0x020 then (if carveBad v then some .carve else none)
  else if n = 0x021 then bad (bits v 2 62 != 0)
  else if n < 0x040 then none
  else if n = 0x040 then
    if bits v 4 60 != 0 then some .badop else if field v 0 4 &&& s.otherQuarters x != 0 then some .prot else none
  else if n = 0x061 then bad (bits v 2 62 != 0 || bits v 0 2 == 3)
  else if n < 0x080 then none
  else if n < 0x090 then bad (hgBad v)
  else if n < 0x0A0 then bad (hsBad (nth c.regs.hg n) v)
  else if n = 0x0A0 then bad (bits v 56 7 != 0)
  else if n = 0x0A1 then bad (bits v 14 50 != 0)
  else if n = 0x0A2 then bad (bits v 28 35 != 0 || bits v 12 4 != 0 || decide (4095 < bits v 0 12 + bits v 16 12))
  else if n < 0x0C0 then none
  else if n = 0x0C0 then
    bad (flag v 63 || bits v 51 5 != 0 || bits v 43 5 != 0 || bits v 11 21 != 0 || decide (1792 < teamFirst v + teamCount v))
  else if n = 0x0C1 then bad (bits v 52 12 != 0 || bits v 8 11 != 0)
  else if n = 0x0C2 then bad (flag v 1)
  else if n < 0x100 then none
  else if n < 0x120 then bad (polBad n v)
  else if n < 0x130 then bad (bits v 56 8 != 0)
  else if n = 0x131 then bad (bits v 0 62 != 0)
  else if n = 0x140 then bad (bits v 12 4 != 0)
  else if n = 0x141 then bad (bits v 0 7 != 0 || decide (6 < bits v 8 4))
  else if n = 0x143 then bad (bits v 3 59 != 0 || decide (3 < bits v 0 3))
  else if n = 0x144 then bad (bits v 56 7 != 0)
  else if n = 0x145 then bad (bits v 48 15 != 0 || bits v 6 5 != 0)
  else if n = 0x146 then bad (bits v 2 62 != 0 || bits v 0 2 == 3)
  else if n = 0x147 then bad (bits v 0 6 != 0)
  else if n = 0x148 then bad (bits v 52 12 != 0 || bits v 6 6 != 0 || decide (bits v 0 6 < 7) || decide (30 < bits v 0 6))
  else if n = 0x149 then bad (bits v 31 33 != 0)
  else if n = 0x14A then bad (bits v 52 9 != 0 || bits v 0 8 != 0)
  else if n = 0x14B then bad (bits v 32 32 != 0)
  else if n < 0x168 then none
  else if n < 0x170 then bad (bits v 48 15 != 0 || bits v 16 16 != 0 || decide (bits v 32 16 < bits v 0 16))
  else if n = 0x170 then bad (bits v 41 7 != 0)
  else if n < 0x172 then none
  else if n < 0x17A then bad (s.vrbBad ⟨(n - 0x172) % 8, Nat.mod_lt _ (by decide)⟩ v)
  else if n = 0x17A then bad (bits v 52 12 != 0)
  else if n = 0x181 then bad (bits v 52 12 != 0 || bits v 0 12 != 0)
  else if n < 0x182 then none
  else if n < 0x186 then bad (bits v 11 4 != 0 || bits v 27 4 != 0 || bits v 43 4 != 0 || bits v 59 4 != 0)
  else if n = 0x186 then bad (bits v 32 32 != 0)
  else if n = 0x187 then bad (bits v 16 48 != 0 || bits v 0 16 == 0)
  else if n = 0x188 then bad (bits v 32 32 != 0)
  else none

/-! ## Writes -/

/-- A write to a handle word: the pointers and bindings of `%hs` become 0 (R283). -/
def Ctx.writeHg (c : Ctx) (n : Fin 16) (v : Word) : Ctx :=
  { c with regs := { c.regs with hg := c.regs.hg.set n v, hs := c.regs.hs.set n 0 } }

/-- A write to `%hs`n; flags it binds lose their other binding (R283). A write whose two bindings name one flag keeps both, and
the free level is applied last (DESIGN CHOICE, notes/assumptions/115.md). -/
def Ctx.writeHs (c : Ctx) (n : Fin 16) (v : Word) : Ctx :=
  let f1 : Fin 32 := ⟨bits v 58 5, Nat.mod_lt _ (by decide)⟩
  let f2 : Fin 32 := ⟨bits v 40 5, Nat.mod_lt _ (by decide)⟩
  let c := { c with regs := { c.regs with hs := c.regs.hs.set n 0 } }
  let c := if flag v 63 then c.unbind f1 else c
  let c := if flag v 45 then c.unbind f2 else c
  { c with regs := { c.regs with hs := c.regs.hs.set n v } }

/-- A write to `%uistat` replaces the pending bits; act and srv stand (R274). -/
def Ctx.writeUistat (c : Ctx) (v : Word) (t : Nat) : Ctx :=
  let new := (List.finRange 8).filter fun j => flag v j.val
  { c with
    reg := { c.reg with uistat := putField c.reg.uistat 0 8 (bits v 0 8) }
    pend := (c.pend.filter fun p => new.contains p.1) ++ (new.filter fun j => !(c.pend.any (·.1 == j))).map (·, t) }

/-- A watch entry's words (R281): reserved bits stay zero. One written at a checkpoint is part of it. -/
def Ctx.writeWatch (c : Ctx) (j : Fin 4) (thr : Bool) (v : Word) : Ctx :=
  let c := if thr then { c with wt := c.wt.set j v } else { c with wn := c.wn.set j (putField v 31 26 0) }
  if c.atCkpt then { c with keep := { c.keep with wn := c.wn, wt := c.wt } } else c

/-- `%vrb`k (R366): a write that sets en while no version is live leaves version 0 live with an empty view. -/
def State.writeVrb (s : State) (k : Fin 8) (v : Word) : State :=
  let live := bits (s.vrb.get k) 52 8
  let s := if flag v 63 && live == 0 then { s with priv := s.priv.filter fun p => !(p.1 == k && p.2.1 == 0) } else s
  let live := if flag v 63 && live == 0 then 1 else live
  { s with vrb := s.vrb.set k (putField v 52 8 live) }

/-- A write to `%fctl` (R326). A switch that cannot be made yet is made when it can (R313). -/
def State.writeFctl (s : State) (x : CtxId) (v : Word) : State :=
  let s := s.modCtx x fun c => { c with reg := { c.reg with lostw := c.reg.lostw && flag v 62 } }
  if (s.ctx x).status ≠ .halted then s
  else match bits v 0 3 with
    | 1 => s.resumeHalted x
    | 2 => s.killTask x
    | 3 => if (s.ctx x).task.isNone then s
      else if s.maySwitch x && (s.freeFrame x).isSome then s.switchOut x
      else s.modCtx x fun c => { c with evict := c.evict <|> some { since := (s.core x.core).clock.toNat, reached := true } }
    | _ => s

/-- A slot-register write. -/
def State.modReg (s : State) (x : CtxId) (f : SlotRegs → SlotRegs) : State := s.modCtx x fun c => { c with reg := f c.reg }

/-- A register of the keep set (R79). -/
def State.modRegs (s : State) (x : CtxId) (f : Regs → Regs) : State := s.modCtx x fun c => { c with regs := f c.regs }

/-- The shares of a core change as its carve words give (R222): bytes beyond a scratchpad's new end are discarded, a new
cache share holds nothing. Spills are made before. -/
def State.changeCarve (s : State) (x : CtxId) (v : Word) : State :=
  let oldCa := s.cacheGranules x.core
  let two := s.hostsTwo x.core
  let s := s.modCore x.core fun k => { k with carve := if two then k.carve.set x.slot v else Vector.replicate 2 v }
  let part := if two && x.slot == 1 then 2 ^ 21 else 0
  let sp := bits v 16 6 * 2 ^ 16
  let s := s.zeroRange (s.windowKey x.core 0 (part + sp)) (2 ^ 21 - sp)
  if s.cacheGranules x.core = oldCa then s else s.modL1 x.core fun k => k.evict k.l1

/-- What a write does, once allowed and not refused (R71). -/
def State.writeCtl (s : State) (x : CtxId) (n : Nat) (v : Word) : State :=
  let m := teamStage (s.ctx x).reg.team
  if n = 0x001 then s.modRegs x fun r => { r with round := v }
  else if n = 0x002 then s.modRegs x fun r => { r with fpflags := v }
  else if n = 0x003 then s.modRegs x fun r => { r with vcls := v }
  else if n = 0x004 then s.modReg x fun r => { r with regbase := v }
  else if n = 0x005 then s.modReg x fun r => { r with regspill := v }
  else if n = 0x006 then s.modReg x fun r => { r with regfill := v }
  else if n < 0x010 then s
  else if n < 0x018 then s.modRegs x fun r => { r with stencil := setNth r.stencil n v }
  else if n = 0x018 then s.modReg x fun r => { r with swcost := v }
  else if n = 0x020 then s.changeCarve x v
  else if n = 0x021 then s.modCore x.core fun k => { k with ldhint := v }
  else if n = 0x022 then s.modCore x.core fun k => { k with l1acc := v }
  else if n = 0x023 then s.modCore x.core fun k => { k with l1miss := v }
  else if n = 0x024 then s.modCore x.core fun k => { k with l1wb := v }
  else if n = 0x025 then s.modCore x.core fun k => { k with blkev := v }
  else if n = 0x026 then s.modCore x.core fun k => { k with cqdone := v }
  else if n = 0x040 then (s.yieldQuarters x (field v 0 4)).setQuarters x (field v 0 4)
  else if n = 0x061 then
    if flag v 0 then s.retryParked x else if flag v 1 then s.modCtx x (·.dropParked) else s
  else if n < 0x070 then s
  else if n < 0x074 then s.modCtx x fun c => { c with flags := { c.flags with
    cause := Vector.ofFn fun i => if i.val / 8 = n % 4 && (flag c.flags.err i.val || !c.resident) then field v (8 * (i.val % 8)) 8 else c.flags.cause.get i } }
  else if n = 0x074 then s.modCtx x fun c => (c.writeFlags v).applyLevels (s.core x.core).clock.toNat
  else if n < 0x090 then s.modCtx x fun c => c.writeHg ⟨n % 16, Nat.mod_lt _ (by decide)⟩ v
  else if n < 0x0A0 then s.modCtx x fun c => (c.writeHs ⟨n % 16, Nat.mod_lt _ (by decide)⟩ v).applyLevels (s.core x.core).clock.toNat
  else if n = 0x0A0 then s.modReg x fun r => { r with uictl := v }
  else if n = 0x0A1 then s.modCtx x fun c => c.writeUistat v (s.core x.core).clock.toNat
  else if n = 0x0A2 then s.modReg x fun r => { r with seqwin := v }
  else if n < 0x0B0 then s.modCtx x fun c => c.writeWatch ⟨n / 2 % 4, Nat.mod_lt _ (by decide)⟩ (n % 2 == 1) v
  else if n = 0x0C0 then s.modReg x fun r => { r with team := v }
  else if n = 0x0C1 then s.modReg x fun r => { r with tpool := v }
  else if n = 0x0C2 then s.modReg x fun r => { r with tstat := v }
  else if n < 0x100 then s
  else if n < 0x120 then s.modMeridian m fun d => { d with pol := setNth d.pol n v }
  else if n < 0x130 then s.modMeridian m fun d => { d with gr := setNth d.gr n v }
  else if n = 0x131 then s.modMeridian m fun d => { d with ctl := v, owner := some x }
  else if n = 0x140 then s.modReg x fun r => { r with ckstat := putField v 0 12 0 }
  else if n = 0x141 then { s with frq := v }
  else if n = 0x142 then { s with frTail := field v 32 32 }
  else if n = 0x143 then s.writeFctl x v
  else if n = 0x144 then s.modRegs x fun r => { r with lvec := v }
  else if n = 0x145 then s.modReg x fun r => { r with lstat := putField v 63 1 (bits r.lstat 63 1) }
  else if n = 0x146 then s.modReg x fun r => { r with detctl := v }
  else if n = 0x147 then s.modReg x fun r => { r with phbase := v }
  else if n = 0x148 then
    let y := s.streamSlot x
    (s.modReg y fun r => { r with lbbase := v }).modCore y.core fun k => { k with claims := k.claims.set y.slot [] }
  else if n = 0x149 then s.modReg (s.streamSlot x) fun r => { r with lbpos := v }
  else if n = 0x14A then s.modReg x fun r => { r with trctl := v }
  else if n = 0x14B then s.modReg x fun r => { r with trpos := v }
  else if n < 0x160 then s
  else if n < 0x168 then { s with stbud := setNth s.stbud n v }
  else if n < 0x170 then { s with stpf := setNth s.stpf n v }
  else if n = 0x170 then s.modReg x fun r => { r with ptroot := v }
  else if n = 0x171 then s.modReg x fun r => { r with tlbstat := v }
  else if n < 0x17A then s.writeVrb ⟨(n - 0x172) % 8, Nat.mod_lt _ (by decide)⟩ v
  else if n = 0x17A then { s with vpool := v }
  else if n = 0x181 then { s with fabric := { s.fabric with chbase := v } }
  else if n < 0x182 then s
  else if n < 0x186 then { s with fabric := { s.fabric with peer := setNth s.fabric.peer (n - 0x182) v } }
  else if n = 0x186 then s.modReg x fun r => { r with nrlr := v }
  else if n = 0x187 then { s with fabric := { s.fabric with nrdl := v } }
  else if n = 0x188 then
    let b := 2 * max (s.fabric.port.get 4).bound.toNat (s.fabric.port.get 5).bound.toNat
    { s with fabric := { s.fabric with e2et := if v.toNat < b then BitVec.ofNat 64 b else v } }
  else s

end Sys2Proof.Machine
end

