-- ==== Sys2Proof/Machine/Landing.lean ====
section
/-! DEFINITION. Bundle boundaries: results land (R48, R49, R83, R95), watches fire (R281, R282), and context time passes
(R50, R51, R295). -/

namespace Sys2Proof.Machine

/-! ## Masked writes (R83) -/

/-- The 16 mask bits of group g. -/
def groupBits (m : Quad) (g : Nat) : Nat := bits m (16 * g) 16

def mergeTags (m : Quad) (old new : Tags) : Tags :=
  Vector.ofFn fun g => groupTag (groupBits m g.val == 2 ^ 16 - 1) (groupBits m g.val != 0) (old.get g) (new.get g)

/-- The written lanes of a vector register change, the others stand. -/
def mergeV (old new : VReg) (lanes : Quad) : VReg :=
  if lanes = BitVec.allOnes 128 then new
  else
    { val := packElems 4096 32 fun i => if flag lanes i then elem new.val 32 i else elem old.val 32 i
      tags := mergeTags lanes old.tags new.tags }

def mergeM (old new : MReg) (m : Quad) : MReg :=
  { val := (old.val &&& ~~~m) ||| (new.val &&& m), tags := mergeTags m old.tags new.tags }

/-! ## Landing -/

/-- A scalar register, or a handler's shadow register, takes a value (R81). -/
def State.setS (s : State) (x : CtxId) (shadow : Bool) (d : Fin 64) (v : Tagged 64) : State :=
  if shadow then
    s.modCore x.core fun k => { k with bank := k.bank.map fun b => { b with
      shadow := b.shadow.set (d.val % 16) v (Nat.mod_lt _ (by decide)) } }
  else s.modRegs x fun r => { r with s := r.s.set d v }

/-- Other results have landed in a register that an overdue read is to write (R381). -/
def Ctx.overtake (c : Ctx) (shadow : Bool) (d : Fin 64) : Ctx :=
  { c with overdue := c.overdue.map fun o => if o.d = d ∧ o.shadow = shadow then { o with live := false } else o }

/-- A scalar result lands; an overdue remote load of the register gives way to it (R381). A handler's `s48` to `s63` are
the shadow registers (R81). -/
def State.landS (s : State) (x : CtxId) (handler : Bool) (d : Fin 64) (v : Tagged 64) : State :=
  let shadow := handler && decide (48 ≤ d.val)
  (s.setS x shadow d v).modCtx x fun c => (if shadow then c else c.note (.s d)).overtake shadow d

/-- A binding is written; the flag it names loses its others (R283, R286). -/
def Ctx.landBind (c : Ctx) (h : Fin 16) (hs : Word) (f : Option (Fin 32)) : Ctx :=
  let c := { c with regs := { c.regs with hs := c.regs.hs.set h hs } }
  match f with
  | none => c
  | some f =>
    let keep := c.regs.hs.get h
    let c := c.unbind f
    { c with regs := { c.regs with hs := c.regs.hs.set h keep } }

/-- One result lands (R48). -/
def State.landOne (s : State) (x : CtxId) (handler : Bool) (l : Landing) : State :=
  match l with
  | .s d v => s.landS x handler d v
  | .v d v lanes => s.modRegs x fun r => { r with v := r.v.set d (mergeV (r.v.get d) v lanes) }
  | .m d v b => (s.modRegs x fun r => { r with m := r.m.set d (mergeM (r.m.get d) v b) }).modCtx x (·.note (.m d))
  | .z d v => (s.modRegs x fun r => { r with z := r.z.set d v }).modCtx x (·.note (.z d))
  | .q d v => (s.modRegs x fun r => { r with q := r.q.set d v }).modCtx x (·.note (.q d))
  | .hold p v => s.modRegs x fun r => { r with hold := r.hold.set p v }
  | .ctl n v => s.writeCtl x n.toNat v
  | .fp f => s.modRegs x fun r => { r with fpflags := r.fpflags ||| BitVec.ofNat 64 f.toNat }
  | .sig m => s.modCtx x fun c => c.sigFlags m
  | .clr m => s.modCtx x fun c => c.clrFlags m
  | .clrErr m => s.modCtx x fun c => c.clrErrors m
  | .ring h v => s.modRegs x fun r => { r with hs := r.hs.set h v }
  | .bind h v f => s.modCtx x fun c => c.landBind h v f
  | .watch j wn wt => s.modCtx x fun c =>
      let c := c.unbindRings ⟨bits wn 57 5, Nat.mod_lt _ (by decide)⟩
      { c with wn := c.wn.set j wn, wt := c.wt.set j wt }
  | .dim n v => s.modRegs x fun r => { r with dims := r.dims.set n v }
  | .table n i l => s.modCore x.core fun k => k.landTable (.table n i l)
  | .key v => s.modCore x.core fun k => k.landTable (.key v)
  | .pathA n => { s with views := s.views.map fun v =>
      if v.owner.serial = (s.ctx x).serial ∧ v.path = some .a ∧ v.n < n then { v with done := true } else v }
  | .seed n v => s.modRegs x fun r => { r with dims := r.dims.set n (putField (r.dims.get n) 1024 64 v.toNat) }

/-- The first result after a checkpoint that lands in a vector register has its old content kept (R79). -/
def State.keepFor (s : State) (x : CtxId) (l : Landing) : Except BackFail State :=
  match l with
  | .v d _ _ => s.keepCopy x d
  | _ => .ok s

/-- An `rld` whose deadline has come without its reply: its register becomes late (R381). -/
def State.makeLate (s : State) (x : CtxId) (handler : Bool) (e : InFlight) : State :=
  match e.landing with
  | .s d v =>
    let shadow := handler && decide (48 ≤ d.val)
    let old : Word := if shadow then
        ((s.core x.core).bank.map fun b => (b.shadow.get ⟨d.val % 16, Nat.mod_lt _ (by decide)⟩).val).getD 0
      else ((s.ctx x).regs.s.get d).val
    let (id, s) := s.fresh
    (s.landS x handler d { val := old, tag := .late }).modCtx x fun c => { c with
      overdue := { id := id, d := d, x := v, peer := e.peer, shadow := shadow, live := true } :: c.overdue }
  | _ => s

/-- Results land in turn, a read whose reply has not come among them (R49, R381), until a keep copy finds no slot, which
raises REGFILL (R76); whether all have landed. -/
def State.landEach (s : State) (x : CtxId) (handler : Bool) (l : List InFlight) : State × Bool :=
  match l with
  | [] => (s, true)
  | e :: l =>
    if e.rld && !e.arrived then (s.makeLate x handler e).landEach x handler l
    else match s.keepFor x e.landing with
      | .ok s => (s.landOne x handler e.landing).landEach x handler l
      | .error e =>
        (s.takeFault x .regfill 8 { Info.none with addr := e.addr, sub := BitVec.ofNat 8 (causeCode e.cause), src := some (s.ctx x).pc }, false)

/-- The n-th overdue read is answered: the reply takes the late value's place, unless another result has landed there
(R381). -/
def State.answer (s : State) (x : CtxId) (n : Nat) : State :=
  match (s.ctx x).overdue[n]? with
  | none => s
  | some o =>
    let s := s.modCtx x fun c => { c with overdue := c.overdue.eraseIdx n }
    if o.live then s.setS x o.shadow o.d o.x else s

/-! ## The boundary -/

/-- A result due whose data has not arrived freezes the context; an `rld` never does (R52, R381). -/
def frozenBy (d : List InFlight) : Bool := d.any fun e => e.left == 0 && !e.arrived && !e.rld
def Ctx.frozen (c : Ctx) : Bool := frozenBy c.delay
def Bank.frozen (b : Bank) : Bool := frozenBy b.delay

/-- A value written by `mts` comes before the other results of its boundary (R95), and what `sig` sets after them and after
a write of `%flags` (R268). -/
def InFlight.turn (e : InFlight) : Fin 3 :=
  match e.landing with
  | .ctl _ _ => 0
  | .sig _ => 2
  | _ => 1

/-- The results due at this boundary that land in a turn of it, in program order (R49). -/
def dueOf (d : List InFlight) (turn : Fin 3) : List InFlight := d.filter fun e => e.left == 0 && e.turn == turn

/-- The registers whose writes land at a boundary of a resident context: the flags and the watch entries (R271, R281). -/
def boundaryCtl (n : Nat) : Bool := n == 0x074 || (decide (0x0A8 ≤ n) && decide (n ≤ 0x0AF))

/-- The register of a slot that a write of core control names, if it lands at a boundary. -/
def CtlWrite.atBoundary (w : CtlWrite) (x : CtxId) : Bool :=
  w.core == x.core && decide (w.off.toNat < 0x40000) && w.off.toNat / 0x20000 == x.slot.val && boundaryCtl (w.off.toNat % 0x20000 / 8)

/-- The supervisor's writes of a context's flags and watch entries land, in their order (R271, R281). -/
def State.landWrites (s : State) (x : CtxId) : State :=
  let ws := s.ctlWrites.filter (·.atBoundary x)
  if ws.isEmpty then s
  else ws.foldl (fun s w => s.writeCtl x (w.off.toNat % 0x20000 / 8) w.val)
    { s with ctlWrites := s.ctlWrites.filter fun w => !(w.atBoundary x) }

/-- The levels and the watches of a context are looked at, at a boundary (R267, R281). -/
def State.lookAround (s : State) (x : CtxId) : State :=
  (s.modCtx x fun c => c.applyLevels (s.core x.core).clock.toNat).fireWatches x

/-- What is due lands in the order of R49, R95 and R268, the supervisor's writes of the flags before what `sig` sets. -/
def State.landDue (s : State) (x : CtxId) (handler : Bool) (d : List InFlight) : State × Bool :=
  match s.landEach x handler (dueOf d 0 ++ dueOf d 1) with
  | (s, false) => (s, false)
  | (s, true) => (s.landWrites x).landEach x handler (dueOf d 2)

/-- Window writes take effect and results that are due land, levels and watches follow; frozen, the boundary waits (R48,
R49, R52, R267, R281). What is due stays in the delay line until it has landed, so that its register is not spilled (R75). -/
def State.boundary (s : State) (x : CtxId) : State :=
  let c := s.ctx x
  if c.frozen then s
  else match (s.applyWindow x).landDue x false c.delay with
    | (s, false) => s
    | (s, true) => (s.modCtx x fun c => { c with delay := c.delay.filter fun e => e.left != 0 }).lookAround x

/-- The boundary of a handler's own delay line (R50). -/
def State.bankBoundary (s : State) (x : CtxId) : State :=
  match (s.core x.core).bank with
  | none => s
  | some b =>
    if b.frozen then s
    else match s.landDue x true b.delay with
      | (s, false) => s
      | (s, true) =>
        (s.modCore x.core fun k => { k with bank := k.bank.map fun b => { b with delay := b.delay.filter fun e => e.left != 0 } }).lookAround x

/-- Every result in flight is one boundary nearer. -/
def nearer (d : List InFlight) : List InFlight := d.map fun e => { e with left := e.left - 1 }

/-- A task's elapsed count rises, and the overrun is counted once for each start (R295). -/
def Ctx.elapse (c : Ctx) : Ctx :=
  match c.task with
  | none => c
  | some t =>
    let t := { t with elapsed := t.elapsed + 1 }
    if decide (t.cycles.toNat < t.elapsed) && !t.counted then
      { c with task := some { t with counted := true }, reg := { c.reg with tstat := putField c.reg.tstat 2 14 (bits c.reg.tstat 2 14 + 1) } }
    else { c with task := some t }

/-- One context cycle passes (R48, R51, R320). -/
def Ctx.tick (c : Ctx) : Ctx :=
  ({ c with cycles := c.cycles + 1, pos := c.pos + 1, delay := nearer c.delay } : Ctx).elapse

end Sys2Proof.Machine
end

