-- ==== Sys2Proof/WellFormed.lean ====
section
/-! DEFINITION. The operand rules of a slot that its word alone decides: an instruction whose word breaks one of them
raises BADOP at issue (R35), a malformed G slot BADBUNDLE (R29). -/

namespace Sys2Proof

/-- Integer formats have codes 0 to 4 (R34). -/
def VFmt.integer (t : VFmt) : Bool :=
  match t with
  | .i8 | .i16 | .i32 | .n8 | .n32 => true
  | .f16 | .bf16 | .f32 => false

def VFmt.floating (t : VFmt) : Bool := !t.integer

/-- Operand b with the hold bit: the latch cannot be latched (R82). -/
def holdOk (b : Fin 64) (h : Bool) : Bool := !(h && b.val == 63)

/-- A gate of a bundle that may issue (R29): a wait names flags, and no wait names none. -/
def Gate.wf (g : Gate) : Bool :=
  decide (g.scope.val ≤ 5) && g.wait.val != 3 &&
  (if g.wait.val = 0 then g.bank.val == 0 && g.mask == 0 else g.mask != 0)

/-- The fields of `mmode` (R187). -/
def modeOk (m : BitVec 3) (o b : Bool) (w a : BitVec 3) : Bool :=
  if m = 0 then w == 0 && a == 0
  else if m = 1 then !o && w != 7 && a != 7
  else decide (m.toNat ≤ 5) && !b && w == 0 && a == 0

/-- The element width of a four-bit format code (R43, R164); 0 for a code that is none. -/
def codeWidth (c : BitVec 4) : Nat :=
  match c.toNat with
  | 0x0 => 8 | 0x1 => 16 | 0x2 => 32 | 0x3 => 8 | 0x4 => 32 | 0x5 => 16 | 0x6 => 16 | 0x7 => 32 | 0x8 => 8 | 0x9 => 8
  | 0xA => 64
  | _ => 0

/-- A group of r vector registers from a register on ends by register 63 (R163). -/
def groupFits (n : Fin 64) (r : Nat) : Bool := decide (n.val + r ≤ 64)

/-- The formats of a conversion exist, and the wider side's group fits (R43, R163, R164). -/
def convOk (f g : BitVec 4) (d a : Fin 64) : Bool :=
  codeWidth f != 0 && codeWidth g != 0 && groupFits a (codeWidth f / codeWidth g) && groupFits d (codeWidth g / codeWidth f)

/-- The operand rules of each instruction; an event has no word. -/
def Instr.wf (i : Instr) : Bool :=
  match i with
  | .bfxN _ _ l p => decide (l.toNat + p.toNat ≤ 63)
  | .bfxI _ _ l p => decide (l.toNat + p.toNat ≤ 63)
  | .bfi _ _ l p => decide (l.toNat + p.toNat ≤ 63)
  | .amo32 _ _ _ p _ => decide (p.toNat ≤ 11)
  | .amo64 _ _ _ p _ => decide (p.toNat ≤ 11)
  | .rld _ _ l => l != 0
  | .fenceP p q => decide (p.toNat ≤ 5) && decide (q.toNat ≤ 5)
  | .pause g _ => g.wf
  | .phase g _ => g.wf
  | .mark g _ => g.wf
  | .vadd _ _ _ b _ h => holdOk b h
  | .vaddSat t _ _ b _ h => t.integer && holdOk b h
  | .vsub _ _ _ b _ h => holdOk b h
  | .vsubSat t _ _ b _ h => t.integer && holdOk b h
  | .vmul _ _ _ b _ h => holdOk b h
  | .vmulHi t _ _ b _ h => t.integer && holdOk b h
  | .vmulWide t _ _ b _ h => (t == .i8 || t == .i16 || t == .n8) && holdOk b h
  | .vfma _ _ _ b _ h => holdOk b h
  | .vfmaFms _ _ _ b _ h => holdOk b h
  | .vfmaFnma _ _ _ b _ h => holdOk b h
  | .vmin _ _ _ b _ h => holdOk b h
  | .vmax _ _ _ b _ h => holdOk b h
  | .vabs t _ _ _ => t == .i8 || t == .i16 || t == .i32 || t.floating
  | .vneg t _ _ _ => t == .i8 || t == .i16 || t == .i32 || t.floating
  | .vlogAnd _ _ _ b _ h => holdOk b h
  | .vlogOr _ _ _ b _ h => holdOk b h
  | .vlogXor _ _ _ b _ h => holdOk b h
  | .vlogAndn _ _ _ b _ h => holdOk b h
  | .vshShl t _ _ b _ h => t.integer && holdOk b h
  | .vshShr t _ _ b _ h => t.integer && holdOk b h
  | .vshSar t _ _ b _ h => t.integer && holdOk b h
  | .vcmpEq _ _ _ b _ h => holdOk b h
  | .vcmpNe _ _ _ b _ h => holdOk b h
  | .vcmpLt _ _ _ b _ h => holdOk b h
  | .vcmpLe _ _ _ b _ h => holdOk b h
  | .vcmpGt _ _ _ b _ h => holdOk b h
  | .vcmpGe _ _ _ b _ h => holdOk b h
  | .vcmpUo t _ _ b _ h => t.floating && holdOk b h
  | .vsel _ _ _ b _ h _ => holdOk b h
  | .vbitClz t _ _ _ => t.integer
  | .vbitCtz t _ _ _ => t.integer
  | .vbitFfs t _ _ _ => t.integer
  | .vbitPopc t _ _ _ => t.integer
  | .vbfxN32 _ _ b _ h => holdOk b h
  | .vbfxI32 _ _ b _ h => holdOk b h
  | .vfshLeft t _ _ b _ h => (t == .i32 || t == .n32) && holdOk b h
  | .vfshRight t _ _ b _ h => (t == .i32 || t == .n32) && holdOk b h
  | .vredAdd t _ _ _ => t == .i32 || t == .n32 || t == .f32
  | .vredMax t _ _ _ => t == .i32 || t == .n32 || t == .f32
  | .vredMin t _ _ _ => t == .i32 || t == .n32 || t == .f32
  | .vshuf _ _ _ b _ h => holdOk b h
  | .vrot _ _ _ b _ h => holdOk b h
  | .vxg _ _ _ b _ h => holdOk b h
  | .vamoAdd t _ _ _ _ => t == .i32 || t == .n32 || t == .bf16 || t == .f32
  | .vamoMin t _ _ _ _ => t == .i32 || t == .n32
  | .vamoMax t _ _ _ _ => t == .i32 || t == .n32
  | .vamoFmax t _ _ _ _ => t == .bf16 || t == .f32
  | .vqpt t _ _ _ _ => t == .n32 || t == .f32
  | .mdrain _ _ m _ => m.val == 2 || m.val == 5 || m.val == 6 || m.val == 7 || m.val == 10
  | .mmode m o b w a => modeOk m o b w a
  | .mseg f r c => r != 3 && c != 3 && decide (f.val % (2 ^ r.toNat * 2 ^ c.toNat) = 0)
  | .mephw _ _ _ s e => s || e == 0
  | .cgath _ _ _ _ c => c.val != 63
  | .cscat _ _ _ _ c => c.val != 63
  | .cbcast _ _ _ _ c => c.val != 63
  | .cxfm _ _ _ _ c => c.val != 63
  | .cstashGet _ _ a b _ => a.val != 0 && b.val != 0
  | .cringReduceScatter _ _ _ _ c => c.val != 63
  | .cringAllGather _ _ _ _ c => c.val != 63
  | .cringReduceScatterF32 _ _ _ _ c => c.val != 63
  | .cringAllGatherF32 _ _ _ _ c => c.val != 63
  | .xcvt f g d a => convOk f g d a
  | .xcvtSr f g d a _ => convOk f g d a
  | .xq _ s m _ _ _ => (s == 5 || s == 6 || s == 7) && decide (2 ≤ m.toNat) && decide (m.toNat ≤ 8)
  | .xdq _ s m _ _ _ => (s == 5 || s == 6 || s == 7) && decide (2 ≤ m.toNat) && decide (m.toNat ≤ 8)
  | .xsld v c _ _ _ _ _ => !v || decide (c.toNat ≤ 3)
  | .xsst v c _ _ _ _ _ => !v || decide (c.toNat ≤ 3)
  | .xtr w d a => w != 3 && (w != 2 || (groupFits d 2 && groupFits a 2))
  | .xperm w _ _ _ => w != 3
  | .xhad n _ _ _ _ => n != 3
  | .xamax f _ _ _ => decide (5 ≤ f.toNat) && decide (f.toNat ≤ 9)
  | .xpack m w _ _ _ _ => w != 3 && decide (m.toNat < 8 * 2 ^ w.toNat)
  | .xunpk m w _ _ _ => w != 3 && decide (m.toNat < 8 * 2 ^ w.toNat)
  | .xexp w _ _ m => w != 3 && decide (m.val + 4 / 2 ^ w.toNat ≤ 16)
  | .add _ _ _ | .sub _ _ _ | .and _ _ _ | .or _ _ _ | .xor _ _ _ | .andn _ _ _ | .shl _ _ _ | .shr _ _ _
  | .sar _ _ _ | .rol _ _ _ | .min _ _ _ | .max _ _ _ | .minn _ _ _ | .maxn _ _ _ | .cmpEq _ _ _ | .cmpNe _ _ _
  | .cmpLt _ _ _ | .cmpLe _ _ _ | .cmpLtn _ _ _ | .cmpLen _ _ _ | .clz _ _ | .ctz _ _ | .ffs _ _ | .popc _ _
  | .brev _ _ | .mul _ _ _ | .mulh _ _ _ | .mulhn _ _ _ | .div _ _ _ | .divn _ _ _ | .rem _ _ _ | .remn _ _ _
  | .addi _ _ _ | .andi _ _ _ | .ori _ _ _ | .xori _ _ _ | .shli _ _ _ | .shri _ _ _ | .sari _ _ _ | .roli _ _ _
  | .cmpiEq _ _ _ | .cmpiNe _ _ _ | .cmpiLt _ _ _ | .cmpiLe _ _ _ | .cmpiLtn _ _ _ | .cmpiLen _ _ _ | .fshl _ _ _ _
  | .fshr _ _ _ _ | .fshlv _ _ _ _ | .fshrv _ _ _ _ | .sel _ _ _ _ | .li _ _ | .liu _ _ | .mfs _ _ | .mts _ _
  | .clk _ | .coreidLog _ | .coreidPhys _ | .brZ _ _ | .brNz _ _ | .brNeg _ _ | .brNneg _ _ | .brPos _ _
  | .brNpos _ _ | .br _ | .jmp _ | .call _ | .callr _ | .chk _ _ | .ldI8 _ _ _ _ | .ldN8 _ _ _ _ | .ldI16 _ _ _ _
  | .ldN16 _ _ _ _ | .ldI32 _ _ _ _ | .ldN32 _ _ _ _ | .ldI64 _ _ _ _ | .ldSN32 _ _ _ _ | .ldSI64 _ _ _ _
  | .st8 _ _ _ _ | .st16 _ _ _ _ | .st32 _ _ _ _ | .st64 _ _ _ _ | .ldBlk _ _ _ _ _ | .fenceC _ | .sig _ | .clrf _
  | .clrfErr _ | .advP _ _ | .advC _ _ | .rfill _ _ _ | .rfree _ _ _ | .seqadd _ _ | .seqwatch _ _ _
  | .seqwatchTag _ _ _ | .seqrd _ _ | .launch _ _ _ | .launchQF _ _ | .launchQB _ _ | .launchQW _ _ | .carve _ _
  | .trap _ | .qseed _ _ | .qldt _ _ _ | .qpt _ _ _ | .qsave _ _ _ | .vlogNot _ _ _ _ | .vspecExp2 _ _ _
  | .vspecLog2 _ _ _ | .vspecRcp _ _ _ | .vspecRsqrt _ _ _ | .vspecSqrt _ _ _ | .vbcast _ _ _ _ | .vext _ _ _ _
  | .vld _ _ _ _ _ | .vst _ _ _ _ _ | .vgath _ _ _ _ _ | .vscat _ _ _ _ _ | .vamoAddSr _ _ _ _ | .vmaskAnd _ _ _ _
  | .vmaskOr _ _ _ _ | .vmaskXor _ _ _ _ | .vmaskAndn _ _ _ _ | .vmaskNot _ _ _ | .vmaskMov _ _ _ | .vmov _ _ _ _
  | .mcall _ _ _ | .mlds _ _ _ _ | .mswap _ | .mstream _ _ _ | .mstreamEyepiece _ _ _ _ | .mzero _ | .mepl _ _
  | .mqset _ _ | .mstat _ _ | .cpy _ _ _ _ _ | .cfill _ _ _ _ _ | .cred _ _ _ _ _ | .cstashSave _ _ _ _ _
  | .cstashPf _ _ _ | .cstashDrop _ _ _ | .cverFork _ _ _ | .cverRetire _ _ _ | .cverSettle _ _ _ | .csend _ _ _ _ _
  | .crecv _ _ _ _ _ | .cnred _ _ _ _ _ | .cmaintClean _ _ _ _ _ | .cmaintFlush _ _ _ _ _ | .cmaintInval _ _ _ _ _
  | .cmaintTlb _ _ _ _ _ | .cpin _ _ _ _ _ | .cpinUnpin _ _ _ _ _ | .cmcast _ _ _ _ | .xtblPerm _ _ | .xtblKey _
  | .retire | .retu | .retl | .mOperationExecute _ | .mldsCompletion _ | .mdrainCompletion _ | .routineCompletion _
  | .packageReset _ | .loadDataArrival _ | .registerFill _ _ | .pageWalk _ _ | .releasedStorePerform _ _
  | .storeRefused _ _ _ | .rqctlRetry _ | .rqctlDrop _ | .commandExecute _ _ | .commandCompletion _ _ _
  | .ldBlkCompletion _ _ | .watchFire _ _ | .userInterruptDelivery _ | .rldDeadline _ | .rldReply _ _
  | .faultRecordWrite | .frqWrite _ | .taskStart _ | .preemptionDecision _ | .sliceFloorExpiry _ | .quantumExpiry _
  | .preemptForcedCheckpoint _ | .checkpointSwitchOut _ | .taskResume _ | .meridianFiring _
  | .channelMessageArrival _ _ _ _ _ _ | .stashPrefetch | .releaseFlush | .nredChunkArrival _ _ _ _ _ _ _
  | .nredDeadlineSpill _ _ _ | .ringStepArrival _ _ _ _ _ _ | .keyAgreement _ _ _ | .epochRotation _ _ _
  | .frameReceive _ _ _ _ | .roundTripMeasure _ _ _ | .packetReceive _ _ _ _ | .e2eResend _ | .heartbeat _
  | .deadPeerDeclaration _ | .deadNoticeReceive _ _ | .fabricRead _ _ | .fabricOwnership _ _
  | .fabricInvalidation _ _ | .invalidationAck _ _ | .fabricWriteBack _ _ _ | .fabricEviction _ _ | .hbmRefresh _ _
  | .lpddrRefresh _ | .linkRetrain _ _ _ | .scrub _ | .uncorrectableError _ _ | .correctedError _ | .shutterArm _ _
  | .shutterRelease _ | .shutterFire _ | .shutterLatch | .semaphoreAcquire _ _ | .semaphoreRenew _ _ _
  | .semaphoreRelease _ _ | .leaseExpiry | .guardedWrite _ _ | .managementRequest _ | .mgevtRead
  | .attestationQuote _ | .counterWrite _ _ _ | .mgclkWrite _ _ | .governorInterval _ _ _ _ | .coolantAlarm _ _
  | .thermalTrip | .railShutoff | .fctlResume _ | .fctlKill _ | .fctlSwitchOut _ | .flagsWrite _ _ | .mquartWrite _ _
  | .carveWrite _ _ | .hgWrite _ _ _ | .hsWrite _ _ _ | .watchEntryWrite _ _ _ _ | .coreControlWrite _ _ _ _
  | .frposWrite _ | .vrbWrite _ _ | .contextCreate _ _ _ | .counterAdd _ _ | .forwardedRequest _ _ _
  | .coolantRestored _ _ => true

end Sys2Proof
end

