-- ==== Sys2Proof/Machine/Operands.lean ====
section
/-! DEFINITION. The operand forms: which registers an instruction names and reads, in the order of its fields d, a, b
and then masks, and what a poisoned operand does to its bundle (R74, R84, R85). -/

namespace Sys2Proof.Machine

/-! ## Uses (R84) -/

/-- The rows of R84. -/
inductive Use where
  /-- Poison other than late is carried into the result, or written with a stored lost tag. -/
  | plain
  /-- The register `chk` names, with the recovery target (R117). -/
  | chk (target : BitVec 56)
  /-- The data of a store: deferred is POISONUSE, lost is stored. -/
  | data
  /-- Addresses, branch conditions and targets, and what enters untagged state: deferred is POISONUSE, lost CONTAIN. -/
  | strict
  /-- The base of a speculative load: deferred defers the result, lost is CONTAIN (R116). -/
  | spec
deriving DecidableEq, Repr

/-- One operand read: its class and number in the numbering of R329, the tags of its groups, and its use. -/
structure Read where
  cls  : Fin 4
  reg  : Fin 64
  tags : List (Fin 8 × Tag)
  use  : Use
deriving DecidableEq, Repr

def groupTags (t : Tags) : List (Fin 8 × Tag) := (List.finRange 8).map fun g => (g, t.get g)

def State.useS (s : State) (u : Use) (r : Fin 64) : Read := { cls := 0, reg := r, tags := [(0, (s.readS r).tag)], use := u }
def State.useV (s : State) (u : Use) (r : Fin 64) : Read := { cls := 1, reg := r, tags := groupTags (s.readV r).tags, use := u }
/-- Operand b of a V slot: a register or the hold latch (R82). -/
def State.useB (s : State) (r : Fin 64) : Read := { cls := 1, reg := r, tags := groupTags (s.readB r).tags, use := .plain }
def State.useM (s : State) (r : Fin 16) : Read :=
  { cls := 2, reg := r.castLE (by decide), tags := groupTags (s.readM r).tags, use := .plain }
def State.useZ (s : State) (u : Use) (r : Fin 16) : Read :=
  { cls := 3, reg := r.castLE (by decide), tags := [(0, (s.readZ r).tag)], use := u }
def State.useQ (s : State) (r : Fin 8) : Read :=
  { cls := 3, reg := r.castLE (by decide), tags := [(0, (s.readQ r).tag)], use := .strict }

/-- The write mask a V slot names, m0 to m3 (R34). -/
def maskOf (k : Fin 4) : Fin 16 := k.castLE (by decide)
def State.useK (s : State) (k : Fin 4) : Read := s.useM (maskOf k)

/-- A lane group holds a lane written under a mask. -/
def State.written (s : State) (k : Fin 4) (g : Fin 8) : Bool := groupBits (s.readM (maskOf k)).val g.val != 0

/-- Per-lane offsets, checked only in groups with a written lane (R142). -/
def State.useOffsets (s : State) (k : Fin 4) (a : Fin 64) : Read :=
  { cls := 1, reg := a, tags := (groupTags (s.readV a).tags).filter fun p => s.written k p.1, use := .strict }

/-- The write mask of a per-lane access, checked only in groups with a written lane (R142); its own tags stop no store (DESIGN
CHOICE, notes/assumptions/87.md). -/
def State.useWritten (s : State) (k : Fin 4) : Read :=
  { s.useK k with tags := (s.useK k).tags.filter fun p => s.written k p.1 }

/-- The registers of a group of r, at least one (R163). -/
def group (n : Fin 64) (r : Nat) : List (Fin 64) :=
  (List.range (if r = 0 then 1 else r)).map fun i => ⟨(n.val + i) % 64, Nat.mod_lt _ (by decide)⟩

def State.useGroup (s : State) (n : Fin 64) (r : Nat) : List Read := (group n r).map (s.useV .plain)

/-- The masks of a group of r from a mask on (R180). -/
def masks (n : Fin 16) (r : Nat) : List (Fin 16) :=
  (List.range (if r = 0 then 1 else r)).map fun i => ⟨(n.val + i) % 16, Nat.mod_lt _ (by decide)⟩

def State.useMasks (s : State) (n : Fin 16) (r : Nat) : List Read := (masks n r).map s.useM

/-- The register after c. -/
def nextReg (c : Fin 64) : Fin 64 := ⟨(c.val + 1) % 64, Nat.mod_lt _ (by decide)⟩

/-- Register c + 1, where the command reads it; a command that needs it with c = 63 fails with ENGINE later (R238). -/
def State.useNext (s : State) (c : Fin 64) (reads : Bool) : List Read :=
  if reads && c.val != 63 then [s.useS .strict (nextReg c)] else []

/-! ## The steps of a routine (R203, R212, R214) -/

/-- A word of the ephemeris store: step n (R212). -/
def State.microStep (s : State) (c : Fin 1792) (n : Nat) : BitVec 32 :=
  BitVec.ofNat 32 (ofBytes (s.bytesAt (s.windowKey c 2 (4 * n)) 4))

/-- Entry n: its start step and its id (R212). -/
def State.routineEntry (s : State) (c : Fin 1792) (n : Nat) : Nat × Nat :=
  let w := ofBytes (s.bytesAt (s.windowKey c 2 (0x1000 + 8 * n)) 8)
  (w % 2 ^ 10, w / 2 ^ 16 % 2 ^ 16)

/-- The steps that may follow a step: a loop leads to its target and on; `end` leads nowhere. -/
def stepNext (w : BitVec 32) (n : Nat) : List Nat :=
  match bits w 28 4 with
  | 0 => []
  | 9 => [bits w 16 10, n + 1]
  | _ => [n + 1]

/-- The q registers a step names, by its kind (R214). -/
def stepQs (w : BitVec 32) : List (Fin 8) :=
  match bits w 28 4 with
  | 2 => [fld w 16 3, fld w 13 3]
  | 4 => [fld w 17 3]
  | 5 => [fld w 20 3]
  | 6 => [fld w 25 3]
  | 7 => [fld w 22 3]
  | 8 => [fld w 25 3]
  | _ => []

/-- The steps reached from those to do, each once; the walk stops past index 1,023. -/
def State.reach (s : State) (c : Fin 1792) (todo seen : List Nat) (fuel : Nat) : List Nat :=
  match fuel, todo with
  | 0, _ => seen
  | _, [] => seen
  | f + 1, n :: todo =>
    if n > 1023 || seen.contains n then s.reach c todo seen f
    else s.reach c (stepNext (s.microStep c n) n ++ todo) (n :: seen) f

/-- The q registers named by the steps a routine can reach, as `mcall` checks them (R203). -/
def State.routineUses (s : State) (e : Fin 64) : List Read :=
  let c := s.cur.core
  let qs := (s.reach c [(s.routineEntry c e.val).1] [] 4096).flatMap fun n => stepQs (s.microStep c n)
  (List.finRange 8).filterMap fun q => if qs.contains q then some (s.useQ q) else none

/-! ## The operands of each instruction -/

/-- Operand b as a vector register: code 63 is the hold latch, which needs no slot (R74, R82). -/
def namesB (b : Fin 64) : List (Fin 64) := if b.val = 63 then [] else [b]

/-- The vector registers an instruction names (R74). -/
def namesV (i : Instr) : List (Fin 64) :=
  match i with
  | .vadd _ d a b _ _ | .vaddSat _ d a b _ _ | .vsub _ d a b _ _ | .vsubSat _ d a b _ _ | .vmul _ d a b _ _
  | .vmulHi _ d a b _ _ | .vmulWide _ d a b _ _ | .vmin _ d a b _ _ | .vmax _ d a b _ _ | .vlogAnd _ d a b _ _
  | .vlogOr _ d a b _ _ | .vlogXor _ d a b _ _ | .vlogAndn _ d a b _ _ | .vshShl _ d a b _ _ | .vshShr _ d a b _ _
  | .vshSar _ d a b _ _ | .vshuf _ d a b _ _ | .vrot _ d a b _ _ | .vxg _ d a b _ _ | .vfma _ d a b _ _
  | .vfmaFms _ d a b _ _ | .vfmaFnma _ d a b _ _ | .vfshLeft _ d a b _ _ | .vfshRight _ d a b _ _ => [d, a] ++ namesB b
  | .vbfxN32 d a b _ _ | .vbfxI32 d a b _ _ => [d, a] ++ namesB b
  | .vsel _ d a b _ _ _ => [d, a] ++ namesB b
  | .vcmpEq _ _ a b _ _ | .vcmpNe _ _ a b _ _ | .vcmpLt _ _ a b _ _ | .vcmpLe _ _ a b _ _ | .vcmpGt _ _ a b _ _
  | .vcmpGe _ _ a b _ _ | .vcmpUo _ _ a b _ _ => [a] ++ namesB b
  | .vabs _ d a _ | .vneg _ d a _ | .vlogNot _ d a _ | .vbitClz _ d a _ | .vbitCtz _ d a _ | .vbitFfs _ d a _
  | .vbitPopc _ d a _ | .vredAdd _ d a _ | .vredMax _ d a _ | .vredMin _ d a _ | .vmov _ d a _ => [d, a]
  | .vspecExp2 d a _ | .vspecLog2 d a _ | .vspecRcp d a _ | .vspecRsqrt d a _ | .vspecSqrt d a _ => [d, a]
  | .vbcast _ d _ _ => [d]
  | .vext _ _ a _ => [a]
  | .vld _ d _ _ _ | .vst _ d _ _ _ => [d]
  | .vgath _ d a _ _ | .vscat _ d a _ _ | .vqpt _ d a _ _ | .vamoAdd _ d a _ _ | .vamoMin _ d a _ _
  | .vamoMax _ d a _ _ | .vamoFmax _ d a _ _ => [d, a]
  | .vamoAddSr d a _ _ => [d, a]
  | .xcvt f g d a => group d (codeWidth g / codeWidth f) ++ group a (codeWidth f / codeWidth g)
  | .xcvtSr f g d a _ => group d (codeWidth g / codeWidth f) ++ group a (codeWidth f / codeWidth g)
  | .xq _ _ _ d a _ | .xdq _ _ _ d a _ => [d, a]
  | .xtr w d a => if w = 2 then group d 2 ++ group a 2 else [d, a]
  | .xperm _ d a _ => [d, a]
  | .xhad _ _ d a _ => [d, a]
  | .xamax _ _ a _ => [a]
  | .xpack _ _ _ _ d a => [d, a]
  | .xunpk _ _ _ d a => [d, a]
  | .xexp _ d a _ => [d, a]
  | .add _ _ _ | .sub _ _ _ | .and _ _ _ | .or _ _ _ | .xor _ _ _ | .andn _ _ _ | .shl _ _ _ | .shr _ _ _
  | .sar _ _ _ | .rol _ _ _ | .min _ _ _ | .max _ _ _ | .minn _ _ _ | .maxn _ _ _ | .cmpEq _ _ _ | .cmpNe _ _ _
  | .cmpLt _ _ _ | .cmpLe _ _ _ | .cmpLtn _ _ _ | .cmpLen _ _ _ | .clz _ _ | .ctz _ _ | .ffs _ _ | .popc _ _
  | .brev _ _ | .mul _ _ _ | .mulh _ _ _ | .mulhn _ _ _ | .div _ _ _ | .divn _ _ _ | .rem _ _ _ | .remn _ _ _
  | .addi _ _ _ | .andi _ _ _ | .ori _ _ _ | .xori _ _ _ | .shli _ _ _ | .shri _ _ _ | .sari _ _ _ | .roli _ _ _
  | .cmpiEq _ _ _ | .cmpiNe _ _ _ | .cmpiLt _ _ _ | .cmpiLe _ _ _ | .cmpiLtn _ _ _ | .cmpiLen _ _ _ | .bfxN _ _ _ _
  | .bfxI _ _ _ _ | .bfi _ _ _ _ | .fshl _ _ _ _ | .fshr _ _ _ _ | .fshlv _ _ _ _ | .fshrv _ _ _ _ | .sel _ _ _ _
  | .li _ _ | .liu _ _ | .mfs _ _ | .mts _ _ | .clk _ | .coreidLog _ | .coreidPhys _ | .brZ _ _ | .brNz _ _
  | .brNeg _ _ | .brNneg _ _ | .brPos _ _ | .brNpos _ _ | .br _ | .jmp _ | .call _ | .callr _ | .chk _ _
  | .ldI8 _ _ _ _ | .ldN8 _ _ _ _ | .ldI16 _ _ _ _ | .ldN16 _ _ _ _ | .ldI32 _ _ _ _ | .ldN32 _ _ _ _
  | .ldI64 _ _ _ _ | .ldSN32 _ _ _ _ | .ldSI64 _ _ _ _ | .st8 _ _ _ _ | .st16 _ _ _ _ | .st32 _ _ _ _
  | .st64 _ _ _ _ | .ldBlk _ _ _ _ _ | .amo32 _ _ _ _ _ | .amo64 _ _ _ _ _ | .rld _ _ _ | .fenceC _ | .fenceP _ _
  | .sig _ | .clrf _ | .clrfErr _ | .advP _ _ | .advC _ _ | .rfill _ _ _ | .rfree _ _ _ | .seqadd _ _
  | .seqwatch _ _ _ | .seqwatchTag _ _ _ | .seqrd _ _ | .launch _ _ _ | .launchQF _ _ | .launchQB _ _
  | .launchQW _ _ | .carve _ _ | .trap _ | .qseed _ _ | .qldt _ _ _ | .qpt _ _ _ | .qsave _ _ _ | .pause _ _
  | .phase _ _ | .mark _ _ | .vmaskAnd _ _ _ _ | .vmaskOr _ _ _ _ | .vmaskXor _ _ _ _ | .vmaskAndn _ _ _ _
  | .vmaskNot _ _ _ | .vmaskMov _ _ _ | .mcall _ _ _ | .mlds _ _ _ _ | .mswap _ | .mstream _ _ _
  | .mstreamEyepiece _ _ _ _ | .mdrain _ _ _ _ | .mzero _ | .mepl _ _ | .mmode _ _ _ _ _ | .mseg _ _ _ | .mqset _ _
  | .mephw _ _ _ _ _ | .mstat _ _ | .cpy _ _ _ _ _ | .cgath _ _ _ _ _ | .cscat _ _ _ _ _ | .cfill _ _ _ _ _
  | .cred _ _ _ _ _ | .cbcast _ _ _ _ _ | .cxfm _ _ _ _ _ | .cstashSave _ _ _ _ _ | .cstashGet _ _ _ _ _
  | .cstashPf _ _ _ | .cstashDrop _ _ _ | .cverFork _ _ _ | .cverRetire _ _ _ | .cverSettle _ _ _
  | .csend _ _ _ _ _ | .crecv _ _ _ _ _ | .cringReduceScatter _ _ _ _ _ | .cringAllGather _ _ _ _ _
  | .cringReduceScatterF32 _ _ _ _ _ | .cringAllGatherF32 _ _ _ _ _ | .cnred _ _ _ _ _ | .cmaintClean _ _ _ _ _
  | .cmaintFlush _ _ _ _ _ | .cmaintInval _ _ _ _ _ | .cmaintTlb _ _ _ _ _ | .cpin _ _ _ _ _ | .cpinUnpin _ _ _ _ _
  | .cmcast _ _ _ _ | .xsld _ _ _ _ _ _ _ | .xsst _ _ _ _ _ _ _ | .xtblPerm _ _ | .xtblKey _ | .retire | .retu
  | .retl | .mOperationExecute _ | .mldsCompletion _ | .mdrainCompletion _ | .routineCompletion _ | .packageReset _
  | .loadDataArrival _ | .registerFill _ _ | .pageWalk _ _ | .releasedStorePerform _ _ | .storeRefused _ _ _
  | .rqctlRetry _ | .rqctlDrop _ | .commandExecute _ _ | .commandCompletion _ _ _ | .ldBlkCompletion _ _
  | .watchFire _ _ | .userInterruptDelivery _ | .rldDeadline _ | .rldReply _ _ | .faultRecordWrite | .frqWrite _
  | .taskStart _ | .preemptionDecision _ | .sliceFloorExpiry _ | .quantumExpiry _ | .preemptForcedCheckpoint _
  | .checkpointSwitchOut _ | .taskResume _ | .meridianFiring _ | .channelMessageArrival _ _ _ _ _ _ | .stashPrefetch
  | .releaseFlush | .nredChunkArrival _ _ _ _ _ _ _ | .nredDeadlineSpill _ _ _ | .ringStepArrival _ _ _ _ _ _
  | .keyAgreement _ _ _ | .epochRotation _ _ _ | .frameReceive _ _ _ _ | .roundTripMeasure _ _ _
  | .packetReceive _ _ _ _ | .e2eResend _ | .heartbeat _ | .deadPeerDeclaration _ | .deadNoticeReceive _ _
  | .fabricRead _ _ | .fabricOwnership _ _ | .fabricInvalidation _ _ | .invalidationAck _ _
  | .fabricWriteBack _ _ _ | .fabricEviction _ _ | .hbmRefresh _ _ | .lpddrRefresh _ | .linkRetrain _ _ _
  | .scrub _ | .uncorrectableError _ _ | .correctedError _ | .shutterArm _ _ | .shutterRelease _ | .shutterFire _
  | .shutterLatch | .semaphoreAcquire _ _ | .semaphoreRenew _ _ _ | .semaphoreRelease _ _ | .leaseExpiry
  | .guardedWrite _ _ | .managementRequest _ | .mgevtRead | .attestationQuote _ | .counterWrite _ _ _
  | .mgclkWrite _ _ | .governorInterval _ _ _ _ | .coolantAlarm _ _ | .thermalTrip | .railShutoff | .fctlResume _
  | .fctlKill _ | .fctlSwitchOut _ | .flagsWrite _ _ | .mquartWrite _ _ | .carveWrite _ _ | .hgWrite _ _ _
  | .hsWrite _ _ _ | .watchEntryWrite _ _ _ _ | .coreControlWrite _ _ _ _ | .frposWrite _ | .vrbWrite _ _
  | .contextCreate _ _ _ | .counterAdd _ _ | .forwardedRequest _ _ _ | .coolantRestored _ _ => []

/-- Slot j of a group entry. -/
def groupSlot (e : BitVec 512) (j : Nat) : BitVec 16 := elem e 16 j

/-- The members of a group entry, in the order of their ranks. -/
def groupMembers (e : BitVec 512) : List (BitVec 11) :=
  (List.range 32).filterMap fun j => if flag (groupSlot e j) 15 then some (field (groupSlot e j) 0 11) else none

/-- The package's own router's entry of a group. -/
def State.groupEntry (s : State) (g : Nat) : BitVec 512 := ((s.fabric.groups.find? (·.1 == g)).map (·.2)).getD 0

/-- The package's own rank in a group (R384). -/
def State.rankIn (s : State) (g : Nat) : Option Nat :=
  ((groupMembers (s.groupEntry g)).zipIdx.find? fun p => p.1 == s.fabric.coord).map (·.2)

/-- A reduction with a control word has a destination here: every member's, or rank 0's alone (R386). -/
def State.receives (s : State) (c : Word) : Bool := !(flag c 51) || s.rankIn (bits c 54 10) == some 0

/-- The operands an instruction reads, in the order of its fields, and their uses (R84). -/
def State.uses (s : State) (i : Instr) : List Read :=
  match i with
  | .add _ a b | .sub _ a b | .and _ a b | .or _ a b | .xor _ a b | .andn _ a b | .shl _ a b | .shr _ a b
  | .sar _ a b | .rol _ a b | .min _ a b | .max _ a b | .minn _ a b | .maxn _ a b | .cmpEq _ a b | .cmpNe _ a b
  | .cmpLt _ a b | .cmpLe _ a b | .cmpLtn _ a b | .cmpLen _ a b | .mul _ a b | .mulh _ a b | .mulhn _ a b
  | .div _ a b | .divn _ a b | .rem _ a b | .remn _ a b | .qpt _ a b => [s.useS .plain a, s.useS .plain b]
  | .clz _ a | .ctz _ a | .ffs _ a | .popc _ a | .brev _ a => [s.useS .plain a]
  | .addi _ a _ | .andi _ a _ | .ori _ a _ | .xori _ a _ | .shli _ a _ | .shri _ a _ | .sari _ a _ | .roli _ a _
  | .cmpiEq _ a _ | .cmpiNe _ a _ | .cmpiLt _ a _ | .cmpiLe _ a _ | .cmpiLtn _ a _ | .cmpiLen _ a _ => [s.useS .plain a]
  | .bfxN _ a _ _ | .bfxI _ a _ _ => [s.useS .plain a]
  | .bfi d a _ _ => [s.useS .plain d, s.useS .plain a]
  | .fshl _ a b _ | .fshr _ a b _ => [s.useS .plain a, s.useS .plain b]
  | .fshlv _ a b c | .fshrv _ a b c | .sel _ a b c => [s.useS .plain a, s.useS .plain b, s.useS .plain c]
  | .liu d _ => [s.useS .plain d]
  | .mts a _ => [s.useS .strict a]
  | .brZ a _ | .brNz a _ | .brNeg a _ | .brNneg a _ | .brPos a _ | .brNpos a _ => [s.useS .strict a]
  | .jmp a | .callr a | .sig a | .clrf a | .clrfErr a => [s.useS .strict a]
  | .chk a i => [s.useS (.chk (s.cur.addr + trunc (sext i 16) 56)) a]
  | .ldI8 _ b _ _ | .ldN8 _ b _ _ | .ldI16 _ b _ _ | .ldN16 _ b _ _ | .ldI32 _ b _ _ | .ldN32 _ b _ _
  | .ldI64 _ b _ _ => [s.useS .strict b]
  | .ldSN32 _ b _ _ | .ldSI64 _ b _ _ => [s.useS .spec b]
  | .st8 d b _ _ | .st16 d b _ _ | .st32 d b _ _ | .st64 d b _ _ => [s.useS .data d, s.useS .strict b]
  | .ldBlk _ a _ _ _ => [s.useS .strict a]
  | .amo32 d a b p _ | .amo64 d a b p _ => (if p = 11 then [s.useS .data d] else []) ++ [s.useS .strict a, s.useS .data b]
  | .rld _ a _ => [s.useS .strict a]
  | .advP _ b | .advC _ b => [s.useS .strict b]
  | .rfill _ _ b | .rfree _ _ b => [s.useS .strict b]
  | .seqadd a b | .qseed a b => [s.useS .strict a, s.useS .strict b]
  | .seqwatch _ a b | .seqwatchTag _ a b | .qldt _ a b | .qsave _ a b => [s.useS .strict a, s.useS .strict b]
  | .seqrd _ a | .carve _ a => [s.useS .strict a]
  | .launch d a b => [s.useS .strict d, s.useS .strict a, s.useS .strict b]
  | .launchQF d b | .launchQB d b | .launchQW d b => [s.useS .strict d, s.useS .strict b]
  | .vadd _ _ a b k _ | .vaddSat _ _ a b k _ | .vsub _ _ a b k _ | .vsubSat _ _ a b k _ | .vmul _ _ a b k _
  | .vmulHi _ _ a b k _ | .vmulWide _ _ a b k _ | .vmin _ _ a b k _ | .vmax _ _ a b k _ | .vlogAnd _ _ a b k _
  | .vlogOr _ _ a b k _ | .vlogXor _ _ a b k _ | .vlogAndn _ _ a b k _ | .vshShl _ _ a b k _ | .vshShr _ _ a b k _
  | .vshSar _ _ a b k _ | .vshuf _ _ a b k _ | .vrot _ _ a b k _ | .vxg _ _ a b k _ => [s.useV .plain a, s.useB b, s.useK k]
  | .vfma _ d a b k _ | .vfmaFms _ d a b k _ | .vfmaFnma _ d a b k _ | .vfshLeft _ d a b k _
  | .vfshRight _ d a b k _ => [s.useV .plain d, s.useV .plain a, s.useB b, s.useK k]
  | .vbfxN32 _ a b k _ | .vbfxI32 _ a b k _ => [s.useV .plain a, s.useB b, s.useK k]
  | .vsel _ _ a b k _ m => [s.useV .plain a, s.useB b, s.useK k, s.useM (m.castLE (by decide))]
  | .vcmpEq _ _ a b k _ | .vcmpNe _ _ a b k _ | .vcmpLt _ _ a b k _ | .vcmpLe _ _ a b k _ | .vcmpGt _ _ a b k _
  | .vcmpGe _ _ a b k _ | .vcmpUo _ _ a b k _ => [s.useV .plain a, s.useB b, s.useK k]
  | .vabs _ _ a k | .vneg _ _ a k | .vlogNot _ _ a k | .vbitClz _ _ a k | .vbitCtz _ _ a k | .vbitFfs _ _ a k
  | .vbitPopc _ _ a k | .vredAdd _ _ a k | .vredMax _ _ a k | .vredMin _ _ a k | .vmov _ _ a k => [s.useV .plain a, s.useK k]
  | .vspecExp2 _ a k | .vspecLog2 _ a k | .vspecRcp _ a k | .vspecRsqrt _ a k | .vspecSqrt _ a k => [s.useV .plain a, s.useK k]
  | .vbcast _ _ a k => [s.useS .plain a, s.useK k]
  | .vext _ _ a b => [s.useV .plain a, s.useS .plain b]
  | .vld _ _ a _ k => [s.useS .strict a, s.useK k]
  | .vst _ d a _ k => [s.useV .data d, s.useS .strict a, s.useK k]
  | .vgath _ _ a b k => [s.useOffsets k a, s.useS .strict b, s.useWritten k]
  | .vscat _ d a b k | .vamoAdd _ d a b k | .vamoMin _ d a b k | .vamoMax _ d a b k | .vamoFmax _ d a b k => [s.useV .data d, s.useOffsets k a, s.useS .strict b, s.useWritten k]
  | .vamoAddSr d a b k => [s.useV .data d, s.useOffsets k a, s.useS .strict b, s.useWritten k]
  | .vqpt _ _ a b k => [s.useV .plain a, s.useS .plain b, s.useK k]
  | .vmaskAnd _ a b k | .vmaskOr _ a b k | .vmaskXor _ a b k | .vmaskAndn _ a b k => [s.useM a, s.useM b, s.useK k]
  | .vmaskNot _ a k | .vmaskMov _ a k => [s.useM a, s.useK k]
  | .mcall e _ _ => s.routineUses e
  | .mlds _ _ p q => [s.useQ p, s.useQ q]
  | .mstream _ t _ => [s.useQ t]
  | .mstreamEyepiece _ _ t _ => [s.useQ t]
  | .mdrain _ t _ _ => [s.useQ t]
  | .mzero q => [s.useQ q]
  | .mepl _ q => [s.useQ q]
  | .mqset _ a => [s.useS .plain a]
  | .mephw a b _ _ _ => [s.useQ a, s.useQ b]
  | .cpy _ _ a b c | .cfill _ _ a b c | .cred _ _ a b c => [s.useS .strict a, s.useS .strict b, s.useS .strict c] ++ s.useNext c (bits (s.readS c).val 24 24 != 0)
  | .cgath _ _ a b c | .cscat _ _ a b c | .cbcast _ _ a b c | .cxfm _ _ a b c => [s.useS .strict a, s.useS .strict b, s.useS .strict c] ++ s.useNext c true
  | .cringReduceScatter _ _ a b c | .cringAllGather _ _ a b c | .cringReduceScatterF32 _ _ a b c
  | .cringAllGatherF32 _ _ a b c => [s.useS .strict a, s.useS .strict b, s.useS .strict c] ++ s.useNext c (bits (s.readS c).val 31 2 == 1)
  | .cstashSave _ _ a b c | .cstashGet _ _ a b c | .csend _ _ a b c | .crecv _ _ a b c
  | .cmaintClean _ _ a b c | .cmaintFlush _ _ a b c | .cmaintInval _ _ a b c | .cmaintTlb _ _ a b c
  | .cpin _ _ a b c | .cpinUnpin _ _ a b c => [s.useS .strict a, s.useS .strict b, s.useS .strict c]
  | .cnred _ _ a b c => (if s.receives (s.readS c).val then [s.useS .strict a] else []) ++ [s.useS .strict b, s.useS .strict c]
  | .cstashPf _ _ c | .cstashDrop _ _ c => [s.useS .strict c]
  | .cverFork _ _ a | .cverRetire _ _ a | .cverSettle _ _ a => [s.useS .strict a]
  | .cmcast _ _ a b => [s.useS .strict a, s.useS .strict b]
  | .xcvt f g _ a => s.useGroup a (codeWidth f / codeWidth g)
  | .xcvtSr f g _ a b => s.useGroup a (codeWidth f / codeWidth g) ++ [s.useS .plain b]
  | .xq _ _ _ _ a _ => [s.useV .plain a]
  | .xdq _ _ _ _ a z => [s.useV .plain a, s.useZ .plain z]
  | .xsld _ _ _ _ _ _ b => [s.useS .strict b]
  | .xsst _ _ _ _ z _ b => [s.useZ .data z, s.useS .strict b]
  | .xtr w _ a => s.useGroup a (if w = 2 then 2 else 1)
  | .xperm _ d a b => [s.useV .plain d, s.useV .plain a, s.useS .strict b]
  | .xhad _ _ _ a b => [s.useV .plain a, s.useS .plain b]
  | .xamax _ _ a b => [s.useV .plain a, s.useS .plain b]
  | .xpack _ _ _ _ _ a => [s.useV .plain a]
  | .xunpk _ _ _ _ a => [s.useV .plain a]
  | .xexp w _ a m => s.useV .plain a :: s.useMasks m (4 / 2 ^ w.toNat)
  | .xtblPerm a b => [s.useS .strict a, s.useS .strict b]
  | .xtblKey a => [s.useS .strict a]
  | .li _ _ | .mfs _ _ | .clk _ | .coreidLog _ | .coreidPhys _ | .br _ | .call _ | .fenceC _ | .fenceP _ _
  | .trap _ | .pause _ _ | .phase _ _ | .mark _ _ | .mswap _ | .mmode _ _ _ _ _ | .mseg _ _ _ | .mstat _ _
  | .retire | .retu | .retl | .mOperationExecute _ | .mldsCompletion _ | .mdrainCompletion _ | .routineCompletion _
  | .packageReset _ | .loadDataArrival _ | .registerFill _ _ | .pageWalk _ _ | .releasedStorePerform _ _
  | .storeRefused _ _ _ | .rqctlRetry _ | .rqctlDrop _ | .commandExecute _ _ | .commandCompletion _ _ _
  | .ldBlkCompletion _ _ | .watchFire _ _ | .userInterruptDelivery _ | .rldDeadline _ | .rldReply _ _
  | .faultRecordWrite | .frqWrite _ | .taskStart _ | .preemptionDecision _ | .sliceFloorExpiry _ | .quantumExpiry _
  | .preemptForcedCheckpoint _ | .checkpointSwitchOut _ | .taskResume _ | .meridianFiring _
  | .channelMessageArrival _ _ _ _ _ _ | .stashPrefetch | .releaseFlush | .nredChunkArrival _ _ _ _ _ _ _
  | .nredDeadlineSpill _ _ _ | .ringStepArrival _ _ _ _ _ _ | .keyAgreement _ _ _ | .epochRotation _ _ _
  | .frameReceive _ _ _ _ | .roundTripMeasure _ _ _ | .packetReceive _ _ _ _ | .e2eResend _ | .heartbeat _
  | .deadPeerDeclaration _ | .deadNoticeReceive _ _ | .fabricRead _ _ | .fabricOwnership _ _
  | .fabricInvalidation _ _ | .invalidationAck _ _ | .fabricWriteBack _ _ _ | .fabricEviction _ _ | .hbmRefresh _ _
  | .lpddrRefresh _ | .linkRetrain _ _ _ | .scrub _ | .uncorrectableError _ _ | .correctedError _ | .shutterArm _ _
  | .shutterRelease _ | .shutterFire _ | .shutterLatch | .semaphoreAcquire _ _ | .semaphoreRenew _ _ _
  | .semaphoreRelease _ _ | .leaseExpiry | .guardedWrite _ _ | .managementRequest _ | .mgevtRead
  | .attestationQuote _ | .counterWrite _ _ _ | .mgclkWrite _ _ | .governorInterval _ _ _ _ | .coolantAlarm _ _
  | .thermalTrip | .railShutoff | .fctlResume _ | .fctlKill _ | .fctlSwitchOut _ | .flagsWrite _ _
  | .mquartWrite _ _ | .carveWrite _ _ | .hgWrite _ _ _ | .hsWrite _ _ _ | .watchEntryWrite _ _ _ _
  | .coreControlWrite _ _ _ _ | .frposWrite _ | .vrbWrite _ _ | .contextCreate _ _ _ | .counterAdd _ _
  | .forwardedRequest _ _ _ | .coolantRestored _ _ => []

/-! ## The checks of a bundle (R85) -/

/-- The first late group of an operand. -/
def Read.late (r : Read) : Option (Fin 4 × Fin 8 × Fin 64) :=
  (r.tags.find? fun t => t.2 == .late).map fun t => (r.cls, t.1, r.reg)

def Read.has (r : Read) (t : Tag) : Bool := r.tags.any fun p => p.2 == t

/-- A lost operand that is stopped (R84). -/
def Read.contain (r : Read) : Bool := (r.use == .strict || r.use == .spec) && r.has .lost

/-- A deferred operand that is stopped (R84). -/
def Read.poisonuse (r : Read) : Bool := (r.use == .strict || r.use == .data) && r.has .deferred

/-- The recovery target of a `chk` whose register is deferred (R117). -/
def Read.recovery (r : Read) : Option (BitVec 56) :=
  match r.use with
  | .chk t => if r.has .deferred then some t else none
  | _ => none

/-- What the operands of a bundle's slots do to it, and in which slot: a late one before a lost one, a lost one before a
deferred one, and these before a redirect (R85). In a handler a late operand is the fault LATE (R276). -/
def operandStop (handler : Bool) (rs : List (SlotPos × Read)) : Option (SlotPos × Stop) :=
  match rs.findSome? fun p => p.2.late.map (p.1, ·) with
  | some (p, cls, grp, reg) => some (p, if handler then .raise .late Info.none else .late cls grp reg)
  | none =>
    match rs.find? fun p => p.2.contain with
    | some (p, _) => some (p, .raise .contain Info.none)
    | none =>
      match rs.find? fun p => p.2.poisonuse with
      | some (p, _) => some (p, .raise .poisonuse Info.none)
      | none => rs.findSome? fun p => p.2.recovery.map fun t => (p.1, .redirect t)

/-- The operands of a bundle's slots. -/
def State.bundleReads (s : State) (ops : List (SlotPos × Instr)) : List (SlotPos × Read) :=
  ops.flatMap fun p => ({ s with cur := { s.cur with pos := p.1 } }.uses p.2).map (p.1, ·)

/-- The checks of R85 for one instruction in its slot. -/
def State.operandCheck (s : State) (i : Instr) : Except Stop Unit :=
  match operandStop s.bank?.isSome ((s.uses i).map (s.cur.pos, ·)) with
  | some (_, e) => .error e
  | none => .ok ()

end Sys2Proof.Machine
end

