-- ==== Sys2Proof/Machine/Issue.lean ====
section
/-! DEFINITION. The frame every slot instruction is issued in: its checks in order (R27, R85, R319), forced checkpoints
before it, and what its bundle's commit does beside it (R48, R50, R55, R115, R320). -/

namespace Sys2Proof.Machine

/-! ## Which bundles commit as checkpoints, and what they withhold (R318, R319) -/

/-- The instructions that commit as a checkpoint bundle (R319). -/
def commitsAsCheckpoint (i : Instr) : Bool :=
  match i with
  | .amo32 _ _ _ _ _ | .amo64 _ _ _ _ _ | .fenceC _ | .fenceP _ _ | .carve _ _ | .launch _ _ _ | .launchQF _ _
  | .launchQB _ _ | .launchQW _ _ | .retire | .trap _ => true
  | _ => false

/-- An `mts` to %carve, whose bundle commits as a checkpoint bundle without a forced checkpoint before it (R221). -/
def writesCarve (i : Instr) : Bool :=
  match i with
  | .mts _ n => n.toNat == 0x020
  | _ => false

/-- The S opcodes that may not stand in a delay bundle: the transfers, `chk`, `launch`, `retire`, `trap`, `retu`, `retl`
(R56). -/
def barredFromDelay (op : Nat) : Bool := [0x18, 0x19, 0x1A, 0x1B, 0x1C, 0x37, 0x38, 0x3A, 0x3B, 0x3C].contains op

/-- The S opcodes whose instructions commit as checkpoint bundles (R276, R319): `amo`, the fences, `launch`, `retire`,
`carve`, `trap`. -/
def checkpointOpcode (op : Nat) : Bool := [0x2E, 0x2F, 0x31, 0x32, 0x37, 0x38, 0x39, 0x3A].contains op

/-- Instructions that take a withhold entry (R318). -/
def withholds (i : Instr) : Bool :=
  match i with
  | .st8 _ _ _ _ | .st16 _ _ _ _ | .st32 _ _ _ _ | .st64 _ _ _ _ | .vst _ _ _ _ _ | .vscat _ _ _ _ _ | .vamoAdd _ _ _ _ _
  | .vamoAddSr _ _ _ _ | .vamoMin _ _ _ _ _ | .vamoMax _ _ _ _ _ | .vamoFmax _ _ _ _ _ | .qsave _ _ _
  | .xsst _ _ _ _ _ _ _ | .seqadd _ _ => true
  | _ => false

/-- C-slot commands, which take a command entry (R318). -/
def isCommand (i : Instr) : Bool :=
  match i with
  | .cpy _ _ _ _ _ | .cgath _ _ _ _ _ | .cscat _ _ _ _ _ | .cfill _ _ _ _ _ | .cred _ _ _ _ _ | .cbcast _ _ _ _ _
  | .cxfm _ _ _ _ _ | .cstashSave _ _ _ _ _ | .cstashGet _ _ _ _ _ | .cstashPf _ _ _ | .cstashDrop _ _ _ | .cverFork _ _ _
  | .cverRetire _ _ _ | .cverSettle _ _ _ | .csend _ _ _ _ _ | .crecv _ _ _ _ _ | .cringReduceScatter _ _ _ _ _
  | .cringAllGather _ _ _ _ _ | .cringReduceScatterF32 _ _ _ _ _ | .cringAllGatherF32 _ _ _ _ _ | .cnred _ _ _ _ _
  | .cmaintClean _ _ _ _ _ | .cmaintFlush _ _ _ _ _ | .cmaintInval _ _ _ _ _ | .cmaintTlb _ _ _ _ _ | .cpin _ _ _ _ _
  | .cpinUnpin _ _ _ _ _ | .cmcast _ _ _ _ => true
  | _ => false

/-! ## Before a bundle issues -/

/-- The entries in use and those of the bundle exceed what a context has (R318, R319). -/
def Ctx.overfull (c : Ctx) (ops : List (SlotPos × Instr)) : Bool :=
  decide (64 < c.withheld.length + (ops.filter fun p => withholds p.2).length) ||
  decide (16 < c.commands.length + (ops.filter fun p => isCommand p.2).length)

/-- The forced checkpoint before a bundle (R319), and whether the bundle may issue: it is held while the release waits for
room (R320). -/
def State.allow (s : State) (ops : List (SlotPos × Instr)) : State × Bool :=
  let c := s.cx
  let forced : Option Forced :=
    if c.overfull ops then some .full
    else if (ops.any fun p => commitsAsCheckpoint p.2) && !c.atCkpt then some .sync else none
  match forced with
  | none => (s, true)
  | some f =>
    let s := s.forceCheckpoint s.cur.ctx f
    (s, s.cx.releasing.isNone)

/-- The checks an instruction makes before its forced checkpoint: containment for `retire` (R304, R331), the word of
`carve` (R221). -/
def State.earlyCheck (s : State) (ops : List (SlotPos × Instr)) : Except Stop Unit :=
  match ops with
  | [] => .ok ()
  | (_, .retire) :: ops => if s.cx.reg.lostw then raise .contain else s.earlyCheck ops
  | (_, .carve _ a) :: ops => if carveBad (s.readS a).val then raise .carve else s.earlyCheck ops
  | _ :: ops => s.earlyCheck ops

/-- The frame of a slot instruction: BADOP for operands its word may not have (R35), the operand checks of R85, the
forced checkpoint of R319, and then its effect; a stop of the effect finds the forced checkpoint taken. -/
def issue (i : Instr) (s : State) (act : State → Except Stop State) : Host.Outcome State Fault Refusal :=
  if !i.wf then finish s (raise .badop)
  else match s.operandCheck i with
    | .error e => finish s (.error e)
    | .ok _ =>
      match s.earlyCheck [(s.cur.pos, i)] with
      | .error e => finish s (.error e)
      | .ok _ =>
        let (t, go) := s.allow [(s.cur.pos, i)]
        if go then finish t (act t) else finish t (.error .hold)

/-! ## The fetch path after a bundle (R23, R24, R114) -/

/-- The line a context's bundle lies in, as its fetch reads it. -/
def State.lineAt (s : State) (x : CtxId) (a : BitVec 56) : List Byte :=
  match s.fetchLine x (s.ctx x).reg.ptroot (s.ctx x).sup .device a with
  | .ok b => b
  | .error _ => []

/-- The address after the bundle at an address: the next byte, or offset 0 of the next line after the line's last bundle
(R23). -/
def State.nextAddr (s : State) (x : CtxId) (a : BitVec 56) : BitVec 56 :=
  let b := s.lineAt x a
  let h := b.getD (a.toNat % 64) 0
  if h = 0 then lineOf a + 64
  else
    let n := afterBundle a h
    if n.toNat % 64 = 0 then n else skipFiller b n

/-- The next bundle along the path: lines that begin with a filler are passed. -/
def State.nextBundle (s : State) (x : CtxId) (a : BitVec 56) (fuel : Nat) : BitVec 56 :=
  match fuel with
  | 0 => a
  | f + 1 =>
    match (s.lineAt x a)[a.toNat % 64]? with
    | some h => if h = 0 then s.nextBundle x (lineOf a + 64) f else a
    | none => a

/-- The link of a call: the address after its third delay bundle (R55, R114); offset 0 of the next line where that bundle ends
a line (DESIGN CHOICE, notes/assumptions/83.md). -/
def State.linkAddr (s : State) (x : CtxId) (a : BitVec 56) : BitVec 56 :=
  let d1 := s.nextBundle x (s.nextAddr x a) 64
  let d2 := s.nextBundle x (s.nextAddr x d1) 64
  let d3 := s.nextBundle x (s.nextAddr x d2) 64
  s.nextAddr x d3

/-! ## Transfers (R55, R115) -/

/-- A transfer issued by the current bundle: it counts its own bundle and the three delay bundles. -/
def State.setTransfer (s : State) (taken : Bool) (target : Word) : State :=
  let t : Transfer := { taken := taken, target := target, due := 4, src := s.cur.addr }
  match s.bank? with
  | some _ => s.modBank fun b => { b with transfer := some t }
  | none => s.modCx fun c => { c with transfer := some t }

/-- Where fetch continues after a bundle with a transfer pending: the next bundle's address, the transfer left, and the
transfer that is made now. -/
def passTransfer (t : Option Transfer) : Option Transfer × Option Transfer :=
  match t with
  | none => (none, none)
  | some t =>
    if t.due ≤ 1 then (none, if t.taken then some t else none)
    else (some { t with due := t.due - 1 }, none)

/-! ## Commit -/

/-- The context after one of its bundles: a context cycle passes and fetch goes on (R48, R55). -/
def Ctx.pass (c : Ctx) (next : BitVec 56) : Ctx :=
  let c := { c.tick with walk := none, refusal := none, lateHeld := none }
  let (left, made) := passTransfer c.transfer
  match made with
  | some t => { c with transfer := left, pc := field t.target 0 56, high := field t.target 56 8, checked := false, cameFrom := some t.src, atCkpt := false }
  | none => { c with transfer := left, pc := next, high := 0, checked := true, cameFrom := none, atCkpt := false }

/-- A handler after one of its bundles, on the bank's own delay line and transfer (R50, R81). -/
def Bank.pass (b : Bank) (next : BitVec 56) : Bank :=
  let (left, made) := passTransfer b.transfer
  let b := { b with delay := nearer b.delay }
  match made with
  | some t => { b with transfer := left, pc := field t.target 0 56, high := field t.target 56 8, checked := false, cameFrom := some t.src }
  | none => { b with transfer := left, pc := next, high := 0, checked := true, cameFrom := none }

/-- A context's bundle commits (R48, R320): its cycle passes, a checkpoint bundle releases and keeps, and results that are
due land; a release that finds no room holds the context before they do. -/
def State.commit (s : State) (x : CtxId) (ckpt : Bool) : State :=
  let next := s.nextBundle x (s.nextAddr x s.cur.addr) 64
  let ends := match (s.ctx x).transfer with
    | some t => decide (t.due ≤ 1)
    | none => false
  let s := s.modCtx x fun c => c.pass next
  let s := if ckpt then s.release x (.bundle ends) else s
  if (s.ctx x).releasing.isSome then s else s.boundary x

/-- A context still runs: no fault was met while its bundle committed. -/
def State.runs (s : State) (x : CtxId) : Bool := (s.ctx x).status == .running

/-- The record of a `trap` follows the boundary after its bundle, unless that boundary has raised a fault (R328). -/
def State.trapAfter (s : State) (x : CtxId) (n : BitVec 14) (src : BitVec 56) : State :=
  if s.runs x then s.takeTrap x n src else s

/-- A context held at the boundary of a checkpoint goes on with its release (R320). -/
def State.proceed (s : State) (x : CtxId) : State :=
  match (s.ctx x).releasing with
  | none => s
  | some r =>
    let s := s.release x r
    match (s.ctx x).releasing, r with
    | none, .bundle _ => s.boundary x
    | none, .trap _ n src => (s.boundary x).trapAfter x n src
    | _, _ => s

/-- A handler's bundle commits (R50). -/
def State.commitHandler (s : State) (x : CtxId) : State :=
  match s.kr.bank with
  | none => s
  | some b =>
    ((s.modCtx x fun c => { c with walk := none, lateHeld := none }).modCore x.core fun k => { k with
      bank := some (b.pass (s.nextAddr x s.cur.addr)) }).bankBoundary x

end Sys2Proof.Machine
end

