-- ==== Sys2Proof/Machine/Carve.lean ====
section
/-! DEFINITION. The carve-out's renegotiation (R220 to R222): the team's barrier, the quiet of its cores, the spills, and
the change. -/

namespace Sys2Proof.Machine

/-- The logical cores of a slot's team (R292). -/
def teamCores (team : Word) : List (Fin 1792) :=
  (List.range (teamCount team)).map fun i => ⟨(teamFirst team + i) % 1792, Nat.mod_lt _ (by decide)⟩

/-- A handler of a context runs. -/
def State.handles (s : State) (x : CtxId) : Bool := (s.core x.core).bank.any (·.slot == x.slot)

/-- A context that presents a `carve` for a logical core, with its word; one whose handler runs presents none (R221). -/
def State.presentsCarve (s : State) (l : Fin 1792) : Option (CtxId × Word) :=
  (s.slotsOf l).findSome? fun x => match (s.ctx x).carveWord with
    | some (w, false) => if s.handles x then none else some (x, w)
    | _ => none

/-- The members that have come to the barrier of a context that presents a word; none while one is missing. A context
outside its team acts on its own core alone (R244). -/
def State.carveMembers (s : State) (x : CtxId) (w : Word) : Option (List (CtxId × Word)) :=
  if !((teamCores (s.ctx x).reg.team).contains (s.logicalOf x)) then some [(x, w)]
  else (teamCores (s.ctx x).reg.team).mapM fun l => if s.logicalOf x = l then some (x, w) else s.presentsCarve l

/-- The carve word of the other logical core of a host core, if a slot's core hosts two (R220). -/
def State.otherCarve (s : State) (x : CtxId) : Option Word :=
  if s.hostsTwo x.core then some ((s.core x.core).carve.get (otherCtx x).slot) else none

/-- The cache share would keep a granule (R220, R221), by the other context's word in force (DESIGN CHOICE,
notes/assumptions/91.md). -/
def State.carveFits (s : State) (x : CtxId) (w : Word) : Bool :=
  match s.otherCarve x with
  | some o => decide (max (bits w 0 6) (bits o 0 6) + bits w 16 6 + bits o 16 6 < 32)
  | none => true

/-- The word that the other logical core of a member's host core will have: its own new one, where it is a member too
(R220, R221). -/
def State.otherNew (s : State) (ms : List (CtxId × Word)) (x : CtxId) : Option Word :=
  (s.otherCarve x).map fun o => ((ms.find? (·.1 == otherCtx x)).map (·.2)).getD o

/-- The vector slots of the register share that the members' new words give a member's core (R73, R220). -/
def State.carveSlots (s : State) (ms : List (CtxId × Word)) (x : CtxId) (w : Word) : Nat :=
  128 * (match s.otherNew ms x with | some o => max (bits w 0 6) (bits o 0 6) | none => bits w 0 6) - 1

/-- A core is quiet (R221 step 5): the other context stands at a checkpoint with nothing withheld, the command queues are
empty, every load block is filled, and nothing is parked. -/
def State.coreSettled (s : State) (x : CtxId) : Bool :=
  let k := s.core x.core
  let y := s.ctx (otherCtx x)
  (!y.resident || (y.atCkpt && y.withheld.isEmpty && y.commands.isEmpty)) &&
  (k.queue.get 0).isEmpty && (k.queue.get 1).isEmpty && (k.blocks.all fun b => b.due.isNone) &&
  (s.ctx x).parked.isEmpty && y.parked.isEmpty

/-- A context is held because the other of its core stands at a barrier that is complete (R221 step 5). -/
def State.carveHolds (s : State) (x : CtxId) : Bool :=
  ((s.ctx x).carveWord.isNone || s.handles x) && !(s.handles (otherCtx x)) &&
  match (s.ctx (otherCtx x)).carveWord with
  | some (w, alone) => alone || (s.carveMembers (otherCtx x) w).isSome
  | none => false

/-- A context at a barrier may go on: to its change or to its fault. -/
def State.carveReady (s : State) (x : CtxId) (w : Word) (alone : Bool) : Bool :=
  if alone then s.coreSettled x
  else match s.carveMembers x w with
    | none => false
    | some ms => ms.any (fun m => m.2 != w || !(s.carveFits m.1 m.2)) || ms.all fun m => s.coreSettled m.1

/-- Every member spills down to its new register share; the member whose spill fails is named (R221 step 6). -/
def State.spillEach (s : State) (all ms : List (CtxId × Word)) : Except (CtxId × BackFail) State :=
  match ms with
  | [] => .ok s
  | (x, w) :: ms =>
    match s.spillDown x.core (s.carveSlots all x w) 256 with
    | .error e => .error (x, e)
    | .ok s => s.spillEach all ms

def State.carveSpill (s : State) (ms : List (CtxId × Word)) : Except (CtxId × BackFail) State := s.spillEach ms ms

/-- A member's shares change, and its `carve` will answer the old word (R221 step 7). -/
def State.carveChange (s : State) (ms : List (CtxId × Word)) : State :=
  match ms with
  | [] => s
  | (x, w) :: ms =>
    let old := (s.core x.core).carve.get x.slot
    ((s.changeCarve x w).modCtx x fun c => { c with carveWord := none, carveOld := some old }).carveChange ms

/-- What a failed spill says in a fault (R76). -/
def regfillInfo (e : BackFail) : Info := { Info.none with addr := e.addr, sub := BitVec.ofNat 8 (causeCode e.cause) }

/-- A `carve` whose change is made issues and answers the old word (R221). -/
def State.carveAnswer (s : State) (d : Fin 64) (old : Word) : State :=
  (s.modCx fun c => { c with carveWord := none, carveOld := none }).pushS 1 d old .clean

/-- `carve` after its forced checkpoint (R221 steps 3 to 7). -/
def State.carveAct (s : State) (d : Fin 64) (w : Word) : Except Stop State :=
  let x := s.cur.ctx
  match s.cx.carveOld with
  | some old => .ok (s.carveAnswer d old)
  | none =>
    match s.carveMembers x w with
    | none => .error (.barrier w false)
    | some ms =>
      if ms.any fun m => m.2 != w || !(s.carveFits m.1 m.2) then .error (.faults (ms.map fun m => (m.1, .carve, Info.none)))
      else if !(ms.all fun m => s.coreSettled m.1) then .error (.barrier w false)
      else match s.carveSpill ms with
        | .error (y, e) => .error (.faults (ms.map fun m => if m.1 = y then (y, .regfill, regfillInfo e) else (m.1, .carve, Info.none)))
        | .ok s =>
          let s := s.carveChange ms
          .ok (s.carveAnswer d ((s.cx.carveOld).getD 0))

/-- An `mts` to `%carve`: the checks, the hold and the spills; the change itself lands with the value (R221). -/
def State.carveAlone (s : State) (w : Word) : Except Stop State :=
  let x := s.cur.ctx
  if !(s.carveFits x w) then raise .carve
  else if !(s.coreSettled x) then .error (.barrier w true)
  else match s.carveSpill [(x, w)] with
    | .error (_, e) => .error (.raise .regfill (regfillInfo e))
    | .ok s => .ok (s.modCx fun c => { c with carveWord := none })

/-- Renegotiates the team's carve-out (R221). -/
def execCarve (d a : Fin 64) (s : State) : Host.Outcome State Fault Refusal :=
  issue (.carve d a) s fun s => s.carveAct d (s.readS a).val

end Sys2Proof.Machine
end

