-- ==== Sys2Proof/Machine/Scalar.lean ====
section
/-! DEFINITION. The scalar computation instructions (R98 to R111), the timing reads (R339, R340), and the sequence unit's
scalar point (R157 is in SeqUnit). Each writes one scalar register with the tag of everything it reads. -/

namespace Sys2Proof.Machine

/-! ## Shared forms -/

/-- A result of two registers. -/
def scalar2 (i : Instr) (l : Nat) (d a b : Fin 64) (f : Word → Word → Word) (s : State) : Host.Outcome State Fault Refusal :=
  issue i s fun s =>
    .ok (s.pushS l d (f (s.readS a).val (s.readS b).val) (maxTag (s.readS a).tag (s.readS b).tag))

/-- A result of one register. -/
def scalar1 (i : Instr) (d a : Fin 64) (f : Word → Word) (s : State) : Host.Outcome State Fault Refusal :=
  issue i s fun s => .ok (s.pushS 1 d (f (s.readS a).val) (s.readS a).tag)

/-- A result of three registers. -/
def scalar3 (i : Instr) (d a b c : Fin 64) (f : Word → Word → Word → Word) (s : State) : Host.Outcome State Fault Refusal :=
  issue i s fun s =>
    .ok (s.pushS 1 d (f (s.readS a).val (s.readS b).val (s.readS c).val)
      (maxTag (maxTag (s.readS a).tag (s.readS b).tag) (s.readS c).tag))

/-- 1 or 0. -/
def truth (p : Bool) : Word := if p then 1 else 0

/-! ## Bit counts (R100, R134) -/

/-- Leading zeros of a number of w bits. -/
def leadingZeros (w x : Nat) : Nat := if x = 0 then w else w - 1 - Nat.log2 x

/-- Index of the lowest set bit among w; w for 0. -/
def trailingZeros (w x : Nat) : Nat :=
  match (List.range w).find? fun i => x / 2 ^ i % 2 == 1 with
  | some i => i
  | none => w

/-- Index of the lowest set bit plus one; 0 for 0. -/
def firstSet (w x : Nat) : Nat := if x = 0 then 0 else trailingZeros w x + 1

/-- The number of set bits among w. -/
def popCount (w x : Nat) : Nat := ((List.range w).filter fun i => x / 2 ^ i % 2 == 1).length

/-! ## Products and quotients (R101) -/

/-- The high half of the signed product. -/
def mulHigh (a b : Word) : Word := BitVec.ofInt 64 (a.toInt * b.toInt / 2 ^ 64)

/-- Signed division, toward zero. -/
def divS (a b : Word) : Word := if b = 0 then BitVec.allOnes 64 else BitVec.ofInt 64 (a.toInt.tdiv b.toInt)

def divU (a b : Word) : Word := if b = 0 then BitVec.allOnes 64 else BitVec.ofNat 64 (a.toNat / b.toNat)

/-- Signed remainder, with the sign of the dividend. -/
def remS (a b : Word) : Word := if b = 0 then a else BitVec.ofInt 64 (a.toInt.tmod b.toInt)

def remU (a b : Word) : Word := if b = 0 then a else BitVec.ofNat 64 (a.toNat % b.toNat)

/-! ## Fields and funnels (R107 to R109) -/

/-- Bits [pos + len − 1 : pos], zero-extended or sign-extended. -/
def fieldN (a : Word) (len pos : Nat) : Word := BitVec.ofNat 64 (bits a pos len)
def fieldI (a : Word) (len pos : Nat) : Word := trunc (sext (BitVec.ofNat 64 (bits a pos len)) len) 64

/-- The low bits of a put into a field of d. -/
def insert (d a : Word) (len pos : Nat) : Word := putField d pos len a.toNat

/-- The 128-bit value a:b, shifted left, and its high half. -/
def funnelLeft (a b : Word) (n : Nat) : Word := BitVec.ofNat 64 ((a.toNat * 2 ^ 64 + b.toNat) * 2 ^ n / 2 ^ 64)
/-- The 128-bit value a:b, shifted right, and its low half. -/
def funnelRight (a b : Word) (n : Nat) : Word := BitVec.ofNat 64 ((a.toNat * 2 ^ 64 + b.toNat) / 2 ^ n)

/-! ## The ALU group (R100) -/

/-- R100. -/
def execAdd (d a b : Fin 64) (s : State) : Host.Outcome State Fault Refusal :=
  scalar2 (.add d a b) 1 d a b (fun a b => a + b) s

/-- R100. -/
def execSub (d a b : Fin 64) (s : State) : Host.Outcome State Fault Refusal :=
  scalar2 (.sub d a b) 1 d a b (fun a b => a - b) s

/-- R100. -/
def execAnd (d a b : Fin 64) (s : State) : Host.Outcome State Fault Refusal :=
  scalar2 (.and d a b) 1 d a b (fun a b => a &&& b) s

/-- R100. -/
def execOr (d a b : Fin 64) (s : State) : Host.Outcome State Fault Refusal :=
  scalar2 (.or d a b) 1 d a b (fun a b => a ||| b) s

/-- R100. -/
def execXor (d a b : Fin 64) (s : State) : Host.Outcome State Fault Refusal :=
  scalar2 (.xor d a b) 1 d a b (fun a b => a ^^^ b) s

/-- R100. -/
def execAndn (d a b : Fin 64) (s : State) : Host.Outcome State Fault Refusal :=
  scalar2 (.andn d a b) 1 d a b (fun a b => a &&& ~~~b) s

/-- R100. -/
def execShl (d a b : Fin 64) (s : State) : Host.Outcome State Fault Refusal :=
  scalar2 (.shl d a b) 1 d a b (fun a b => a <<< (b.toNat % 64)) s

/-- R100. -/
def execShr (d a b : Fin 64) (s : State) : Host.Outcome State Fault Refusal :=
  scalar2 (.shr d a b) 1 d a b (fun a b => a >>> (b.toNat % 64)) s

/-- R100. -/
def execSar (d a b : Fin 64) (s : State) : Host.Outcome State Fault Refusal :=
  scalar2 (.sar d a b) 1 d a b (fun a b => a.sshiftRight (b.toNat % 64)) s

/-- R100. -/
def execRol (d a b : Fin 64) (s : State) : Host.Outcome State Fault Refusal :=
  scalar2 (.rol d a b) 1 d a b (fun a b => a.rotateLeft (b.toNat % 64)) s

/-- R100. -/
def execMin (d a b : Fin 64) (s : State) : Host.Outcome State Fault Refusal :=
  scalar2 (.min d a b) 1 d a b (fun a b => if b.toInt < a.toInt then b else a) s

/-- R100. -/
def execMax (d a b : Fin 64) (s : State) : Host.Outcome State Fault Refusal :=
  scalar2 (.max d a b) 1 d a b (fun a b => if a.toInt < b.toInt then b else a) s

/-- R100. -/
def execMinn (d a b : Fin 64) (s : State) : Host.Outcome State Fault Refusal :=
  scalar2 (.minn d a b) 1 d a b (fun a b => if b.toNat < a.toNat then b else a) s

/-- R100. -/
def execMaxn (d a b : Fin 64) (s : State) : Host.Outcome State Fault Refusal :=
  scalar2 (.maxn d a b) 1 d a b (fun a b => if a.toNat < b.toNat then b else a) s

/-- R100. -/
def execCmpEq (d a b : Fin 64) (s : State) : Host.Outcome State Fault Refusal :=
  scalar2 (.cmpEq d a b) 1 d a b (fun a b => truth (a == b)) s

/-- R100. -/
def execCmpNe (d a b : Fin 64) (s : State) : Host.Outcome State Fault Refusal :=
  scalar2 (.cmpNe d a b) 1 d a b (fun a b => truth (a != b)) s

/-- R100. -/
def execCmpLt (d a b : Fin 64) (s : State) : Host.Outcome State Fault Refusal :=
  scalar2 (.cmpLt d a b) 1 d a b (fun a b => truth (decide (a.toInt < b.toInt))) s

/-- R100. -/
def execCmpLe (d a b : Fin 64) (s : State) : Host.Outcome State Fault Refusal :=
  scalar2 (.cmpLe d a b) 1 d a b (fun a b => truth (decide (a.toInt ≤ b.toInt))) s

/-- R100. -/
def execCmpLtn (d a b : Fin 64) (s : State) : Host.Outcome State Fault Refusal :=
  scalar2 (.cmpLtn d a b) 1 d a b (fun a b => truth (decide (a.toNat < b.toNat))) s

/-- R100. -/
def execCmpLen (d a b : Fin 64) (s : State) : Host.Outcome State Fault Refusal :=
  scalar2 (.cmpLen d a b) 1 d a b (fun a b => truth (decide (a.toNat ≤ b.toNat))) s

/-- R100. -/
def execClz (d a : Fin 64) (s : State) : Host.Outcome State Fault Refusal :=
  scalar1 (.clz d a) d a (fun a => BitVec.ofNat 64 (leadingZeros 64 a.toNat)) s

/-- R100. -/
def execCtz (d a : Fin 64) (s : State) : Host.Outcome State Fault Refusal :=
  scalar1 (.ctz d a) d a (fun a => BitVec.ofNat 64 (trailingZeros 64 a.toNat)) s

/-- R100. -/
def execFfs (d a : Fin 64) (s : State) : Host.Outcome State Fault Refusal :=
  scalar1 (.ffs d a) d a (fun a => BitVec.ofNat 64 (firstSet 64 a.toNat)) s

/-- R100. -/
def execPopc (d a : Fin 64) (s : State) : Host.Outcome State Fault Refusal :=
  scalar1 (.popc d a) d a (fun a => BitVec.ofNat 64 (popCount 64 a.toNat)) s

/-- R100. -/
def execBrev (d a : Fin 64) (s : State) : Host.Outcome State Fault Refusal :=
  scalar1 (.brev d a) d a (fun a => a.reverse) s

/-! ## The multiplier and the divider (R97, R101) -/

/-- R101. -/
def execMul (d a b : Fin 64) (s : State) : Host.Outcome State Fault Refusal :=
  scalar2 (.mul d a b) 3 d a b (fun a b => a * b) s

/-- R101. -/
def execMulh (d a b : Fin 64) (s : State) : Host.Outcome State Fault Refusal :=
  scalar2 (.mulh d a b) 3 d a b (fun a b => mulHigh a b) s

/-- R101. -/
def execMulhn (d a b : Fin 64) (s : State) : Host.Outcome State Fault Refusal :=
  scalar2 (.mulhn d a b) 3 d a b (fun a b => BitVec.ofNat 64 (a.toNat * b.toNat / 2 ^ 64)) s

/-- R101. -/
def execDiv (d a b : Fin 64) (s : State) : Host.Outcome State Fault Refusal :=
  scalar2 (.div d a b) 20 d a b (fun a b => divS a b) s

/-- R101. -/
def execDivn (d a b : Fin 64) (s : State) : Host.Outcome State Fault Refusal :=
  scalar2 (.divn d a b) 20 d a b (fun a b => divU a b) s

/-- R101. -/
def execRem (d a b : Fin 64) (s : State) : Host.Outcome State Fault Refusal :=
  scalar2 (.rem d a b) 20 d a b (fun a b => remS a b) s

/-- R101. -/
def execRemn (d a b : Fin 64) (s : State) : Host.Outcome State Fault Refusal :=
  scalar2 (.remn d a b) 20 d a b (fun a b => remU a b) s

/-! ## Immediate forms (R102 to R104) -/

/-- R102. -/
def execAddi (d a : Fin 64) (i : BitVec 14) (s : State) : Host.Outcome State Fault Refusal :=
  scalar1 (.addi d a i) d a (fun a => a + (i.signExtend 64)) s

/-- R102. -/
def execAndi (d a : Fin 64) (i : BitVec 14) (s : State) : Host.Outcome State Fault Refusal :=
  scalar1 (.andi d a i) d a (fun a => a &&& (i.signExtend 64)) s

/-- R102. -/
def execOri (d a : Fin 64) (i : BitVec 14) (s : State) : Host.Outcome State Fault Refusal :=
  scalar1 (.ori d a i) d a (fun a => a ||| (i.signExtend 64)) s

/-- R102. -/
def execXori (d a : Fin 64) (i : BitVec 14) (s : State) : Host.Outcome State Fault Refusal :=
  scalar1 (.xori d a i) d a (fun a => a ^^^ (i.signExtend 64)) s

/-- R103. -/
def execShli (d a : Fin 64) (n : BitVec 6) (s : State) : Host.Outcome State Fault Refusal :=
  scalar1 (.shli d a n) d a (fun a => a <<< n.toNat) s

/-- R103. -/
def execShri (d a : Fin 64) (n : BitVec 6) (s : State) : Host.Outcome State Fault Refusal :=
  scalar1 (.shri d a n) d a (fun a => a >>> n.toNat) s

/-- R103. -/
def execSari (d a : Fin 64) (n : BitVec 6) (s : State) : Host.Outcome State Fault Refusal :=
  scalar1 (.sari d a n) d a (fun a => a.sshiftRight n.toNat) s

/-- R103. -/
def execRoli (d a : Fin 64) (n : BitVec 6) (s : State) : Host.Outcome State Fault Refusal :=
  scalar1 (.roli d a n) d a (fun a => a.rotateLeft n.toNat) s

/-- R104. -/
def execCmpiEq (d a : Fin 64) (i : BitVec 11) (s : State) : Host.Outcome State Fault Refusal :=
  scalar1 (.cmpiEq d a i) d a (fun a => truth (a == (i.signExtend 64))) s

/-- R104. -/
def execCmpiNe (d a : Fin 64) (i : BitVec 11) (s : State) : Host.Outcome State Fault Refusal :=
  scalar1 (.cmpiNe d a i) d a (fun a => truth (a != (i.signExtend 64))) s

/-- R104. -/
def execCmpiLt (d a : Fin 64) (i : BitVec 11) (s : State) : Host.Outcome State Fault Refusal :=
  scalar1 (.cmpiLt d a i) d a (fun a => truth (decide (a.toInt < (i.signExtend 64).toInt))) s

/-- R104. -/
def execCmpiLe (d a : Fin 64) (i : BitVec 11) (s : State) : Host.Outcome State Fault Refusal :=
  scalar1 (.cmpiLe d a i) d a (fun a => truth (decide (a.toInt ≤ (i.signExtend 64).toInt))) s

/-- R104. -/
def execCmpiLtn (d a : Fin 64) (i : BitVec 11) (s : State) : Host.Outcome State Fault Refusal :=
  scalar1 (.cmpiLtn d a i) d a (fun a => truth (decide (a.toNat < (i.signExtend 64).toNat))) s

/-- R104. -/
def execCmpiLen (d a : Fin 64) (i : BitVec 11) (s : State) : Host.Outcome State Fault Refusal :=
  scalar1 (.cmpiLen d a i) d a (fun a => truth (decide (a.toNat ≤ (i.signExtend 64).toNat))) s

/-! ## Fields, funnels, selection (R107 to R110) -/

/-- R107. -/
def execBfxN (d a : Fin 64) (l p : BitVec 6) (s : State) : Host.Outcome State Fault Refusal :=
  scalar1 (.bfxN d a l p) d a (fun a => fieldN a (l.toNat + 1) p.toNat) s

/-- R107. -/
def execBfxI (d a : Fin 64) (l p : BitVec 6) (s : State) : Host.Outcome State Fault Refusal :=
  scalar1 (.bfxI d a l p) d a (fun a => fieldI a (l.toNat + 1) p.toNat) s

/-- R108: d is read. -/
def execBfi (d a : Fin 64) (l p : BitVec 6) (s : State) : Host.Outcome State Fault Refusal :=
  scalar2 (.bfi d a l p) 1 d d a (fun d a => insert d a (l.toNat + 1) p.toNat) s

/-- R109. -/
def execFshl (d a b : Fin 64) (n : BitVec 6) (s : State) : Host.Outcome State Fault Refusal :=
  scalar2 (.fshl d a b n) 1 d a b (fun a b => funnelLeft a b n.toNat) s

/-- R109. -/
def execFshr (d a b : Fin 64) (n : BitVec 6) (s : State) : Host.Outcome State Fault Refusal :=
  scalar2 (.fshr d a b n) 1 d a b (fun a b => funnelRight a b n.toNat) s

/-- R109. -/
def execFshlv (d a b c : Fin 64) (s : State) : Host.Outcome State Fault Refusal :=
  scalar3 (.fshlv d a b c) d a b c (fun a b c => funnelLeft a b (c.toNat % 64)) s

/-- R109. -/
def execFshrv (d a b c : Fin 64) (s : State) : Host.Outcome State Fault Refusal :=
  scalar3 (.fshrv d a b c) d a b c (fun a b c => funnelRight a b (c.toNat % 64)) s

/-- R110. -/
def execSel (d a b c : Fin 64) (s : State) : Host.Outcome State Fault Refusal :=
  scalar3 (.sel d a b c) d a b c (fun a b c => if c = 0 then b else a) s

/-! ## Constants (R105, R106) -/

/-- R105. -/
def execLi (d : Fin 64) (i : BitVec 20) (s : State) : Host.Outcome State Fault Refusal :=
  issue (.li d i) s fun s => .ok (s.pushS 1 d (i.signExtend 64) .clean)

/-- R106: d is read. -/
def execLiu (d : Fin 64) (i : BitVec 20) (s : State) : Host.Outcome State Fault Refusal :=
  scalar1 (.liu d i) d d (fun d => d <<< 20 ||| i.setWidth 64) s

/-! ## Control registers (R69, R71, R111) -/

/-- A control register read at issue. -/
def State.mfsAct (s : State) (d : Fin 64) (n : BitVec 14) : Except Stop State :=
  match ctlAllowed n.toNat false s.supervisor with
  | .error e => .error e
  | .ok _ => .ok (s.pushS 1 d (s.readCtl s.cur.ctx n.toNat) .clean)

/-- R111. -/
def execMfs (d : Fin 64) (n : BitVec 14) (s : State) : Host.Outcome State Fault Refusal :=
  issue (.mfs d n) s fun s => s.mfsAct d n

/-- A control register written: PRIV, the field map's fault, then the value, which stands from the next bundle on. A write
to `%carve` makes the core quiet first (R221), one to `%mquart` waits for the mirror queue (R184). -/
def State.mtsAct (s : State) (a : Fin 64) (n : BitVec 14) : Except Stop State :=
  let v := (s.readS a).val
  match ctlAllowed n.toNat true s.supervisor with
  | .error e => .error e
  | .ok _ =>
    if ctlIgnored n.toNat then .ok s
    else match s.ctlBad s.cur.ctx n.toNat v with
      | some c => raise c
      | none =>
        if n = 0x020 then (s.carveAlone v).map (·.push 1 (.ctl n v))
        else if n = 0x040 ∧ s.mirrorBusy s.cur.ctx then .error .hold
        else .ok (s.push 1 (.ctl n v))

/-- R111. -/
def execMts (a : Fin 64) (n : BitVec 14) (s : State) : Host.Outcome State Fault Refusal :=
  issue (.mts a n) s fun s => s.mtsAct a n

/-! ## Timing reads (R337, R339, R340) -/

/-- A read that deterministic mode logs. -/
def State.loggedRead (s : State) (k : LogKind) (d : Fin 64) (v : Word) : Except Stop State :=
  match s.logRead s.cur.ctx k v with
  | .error e => .error e
  | .ok (v, s) => .ok (s.pushS 1 d v .clean)

/-- R339. -/
def execClk (d : Fin 64) (s : State) : Host.Outcome State Fault Refusal :=
  issue (.clk d) s fun s => s.loggedRead .clk d s.kr.clock

/-- The identity words of R340. -/
def State.coreWord (s : State) (slot core : Nat) : Word :=
  BitVec.ofNat 64 (s.fabric.dom.val * 2 ^ 23 + s.fabric.coord.toNat * 2 ^ 12 + slot * 2 ^ 11 + core)

/-- R340. -/
def execCoreidLog (d : Fin 64) (s : State) : Host.Outcome State Fault Refusal :=
  issue (.coreidLog d) s fun s => s.loggedRead .coreid d (s.coreWord 0 (s.logicalOf s.cur.ctx).val)

/-- R340. -/
def execCoreidPhys (d : Fin 64) (s : State) : Host.Outcome State Fault Refusal :=
  issue (.coreidPhys d) s fun s => s.loggedRead .coreid d (s.coreWord s.cur.slot.val s.cur.core.val)

end Sys2Proof.Machine
end

