-- ==== Sys2Proof/Machine/Branch.lean ====
section
/-! DEFINITION. Transfers (R112 to R115), `chk` (R117), `launch` (R301, R302), `retire` (R304), `trap` (R328), and the
returns of handlers (R277, R330). -/

namespace Sys2Proof.Machine

/-! ## Branches (R113) -/

/-- The target of a displacement from the bundle's header, modulo 2^56 (DESIGN CHOICE, notes/assumptions/82.md). -/
def State.relative (s : State) {w : Nat} (i : BitVec w) : Word := (s.cur.addr + i.signExtend 56).setWidth 64

/-- A branch whose outcome is known. -/
def State.branchAct (s : State) (taken : Bool) (i : BitVec 16) : State :=
  (s.traceOutcome s.cur.ctx taken).setTransfer taken (s.relative i)

/-- A conditional branch on the signed value of a. -/
def branch (i : Instr) (a : Fin 64) (disp : BitVec 16) (f : Int → Bool) (s : State) : Host.Outcome State Fault Refusal :=
  issue i s fun s => .ok (s.branchAct (f (s.readS a).val.toInt) disp)

/-- R113. -/
def execBrZ (a : Fin 64) (i : BitVec 16) (s : State) : Host.Outcome State Fault Refusal :=
  branch (.brZ a i) a i (fun x => x == 0) s

/-- R113. -/
def execBrNz (a : Fin 64) (i : BitVec 16) (s : State) : Host.Outcome State Fault Refusal :=
  branch (.brNz a i) a i (fun x => x != 0) s

/-- R113. -/
def execBrNeg (a : Fin 64) (i : BitVec 16) (s : State) : Host.Outcome State Fault Refusal :=
  branch (.brNeg a i) a i (fun x => decide (x < 0)) s

/-- R113. -/
def execBrNneg (a : Fin 64) (i : BitVec 16) (s : State) : Host.Outcome State Fault Refusal :=
  branch (.brNneg a i) a i (fun x => decide (0 ≤ x)) s

/-- R113. -/
def execBrPos (a : Fin 64) (i : BitVec 16) (s : State) : Host.Outcome State Fault Refusal :=
  branch (.brPos a i) a i (fun x => decide (0 < x)) s

/-- R113. -/
def execBrNpos (a : Fin 64) (i : BitVec 16) (s : State) : Host.Outcome State Fault Refusal :=
  branch (.brNpos a i) a i (fun x => decide (x ≤ 0)) s

/-- R113: always taken. -/
def execBr (i : BitVec 16) (s : State) : Host.Outcome State Fault Refusal :=
  issue (.br i) s fun s => .ok (s.branchAct true i)

/-! ## Jumps and calls (R112, R114) -/

/-- R112. -/
def execJmp (a : Fin 64) (s : State) : Host.Outcome State Fault Refusal :=
  issue (.jmp a) s fun s => .ok (s.setTransfer true (s.readS a).val)

/-- The link of a call lands in `s63` at the next boundary (R114). -/
def State.callAct (s : State) (target : Word) : State :=
  (s.pushS 1 63 ((s.linkAddr s.cur.ctx s.cur.addr).setWidth 64) .clean).setTransfer true target

/-- R112, R114. -/
def execCall (i : BitVec 20) (s : State) : Host.Outcome State Fault Refusal :=
  issue (.call i) s fun s => .ok (s.callAct (s.relative i))

/-- R112, R114. -/
def execCallr (a : Fin 64) (s : State) : Host.Outcome State Fault Refusal :=
  issue (.callr a) s fun s => .ok (s.callAct (s.readS a).val)

/-- R117: the redirect is among the operand checks (R85); a tag that is not deferred has no effect. -/
def execChk (a : Fin 64) (i : BitVec 16) (s : State) : Host.Outcome State Fault Refusal :=
  issue (.chk a i) s fun s => .ok (s.traceOutcome s.cur.ctx false)

/-! ## `launch` (R301, R302) -/

/-- The control word: tag, priority (not above a user's `%team.pmin`), tokens. -/
def launchTag (w : Word) : BitVec 32 := field w 0 32
def State.launchPrio (s : State) (w : Word) : Fin 128 :=
  let p := bits w 32 7
  let p := if !s.cx.sup && decide (p < teamPmin s.cx.reg.team) then teamPmin s.cx.reg.team else p
  ⟨p % 128, Nat.mod_lt _ (by decide)⟩
def launchTokens (w : Word) : Nat := bits w 40 4

/-- The bundle waits until what it released has performed, as a class-15 store does, and is then a release itself, which
carries at least to domain scope (R254, R261, R383, R407). -/
def State.releaseHere (s : State) : Except Stop State :=
  let scope : Fin 8 := if s.cur.scope.val < 4 then 4 else s.cur.scope
  if s.cx.released.isEmpty && !(s.releaseWaits s.cur.ctx scope) then .ok (s.publish s.cur.ctx scope) else .error .hold

/-- Lines read through the tables stand in the TLBs. -/
def State.touchAll (s : State) (l : List (BitVec 56)) : State :=
  l.foldl (fun s a => s.touch s.cur.ctx s.cx.reg.ptroot a) s

/-- `launch` of a graph. -/
def State.launchAct (s : State) (arg addr w : Word) : Except Stop State :=
  let c := s.cx
  if addr.toNat % 64 ≠ 0 then raiseAt .align (field addr 0 56)
  else if 2 ^ 56 ≤ addr.toNat then raiseAt .xlate (field addr 0 56)
  else match s.readGraph s.cur.ctx c.sup .bundle (field addr 0 56) c.regs.stencil c.reg.seqwin with
    | .error e => raiseRead e
    | .ok g =>
      if !c.sup && g.sup then raise .priv
      else if !g.valid || decide (16 ≤ s.teamInFlight c.reg.team) then raise .engine
      else match (s.touchAll (field addr 0 56 :: g.nodes.map (·.head))).releaseHere with
        | .error e => .error e
        | .ok s => .ok (s.newInst c.reg.team c.reg.seqwin (launchTag w) (s.launchPrio w) (launchTokens w) arg g none)

/-- R301, R302. -/
def execLaunch (d a b : Fin 64) (s : State) : Host.Outcome State Fault Refusal :=
  issue (.launch d a b) s fun s => s.launchAct (s.readS d).val (s.readS a).val (s.readS b).val

/-- An entry into a queue of the team's meridian. -/
def State.enqueueAct (s : State) (q : Fin 3) (arg w : Word) : Except Stop State :=
  let m := teamStage s.cx.reg.team
  if !((s.meridian.get m).room q) then raise .engine
  else match s.releaseHere with
    | .error e => .error e
    | .ok s => .ok (s.addEntry m q (launchTag w) arg)

/-- R301, R302. -/
def execLaunchQF (d b : Fin 64) (s : State) : Host.Outcome State Fault Refusal :=
  issue (.launchQF d b) s fun s => s.enqueueAct 0 (s.readS d).val (s.readS b).val

/-- R301, R302. -/
def execLaunchQB (d b : Fin 64) (s : State) : Host.Outcome State Fault Refusal :=
  issue (.launchQB d b) s fun s => s.enqueueAct 1 (s.readS d).val (s.readS b).val

/-- R301, R302. -/
def execLaunchQW (d b : Fin 64) (s : State) : Host.Outcome State Fault Refusal :=
  issue (.launchQW d b) s fun s => s.enqueueAct 2 (s.readS d).val (s.readS b).val

/-! ## The ends of a run -/

/-- `retire` after its forced checkpoint: the bundle commits, and the task ends once nothing of it is outstanding
(R304). -/
def State.retireAct (s : State) : State :=
  let x := s.cur.ctx
  let s := s.commit x true
  if !(s.runs x) then s
  else if s.mayRetire x then s.retireTask x
  else s.modCtx x fun c => { c with status := .retiring }

/-- R304. -/
def execRetire (s : State) : Host.Outcome State Fault Refusal :=
  issue .retire s fun s => .ok s.retireAct

/-- `trap` after its forced checkpoint: the bundle commits, and the record is taken at the boundary after it (R328). -/
def State.trapAct (s : State) (n : BitVec 14) : State :=
  let x := s.cur.ctx
  let s := s.commit x true
  match (s.ctx x).releasing with
  | some (.bundle ended) => s.modCtx x fun c => { c with releasing := some (.trap ended n s.cur.addr) }
  | _ => s.trapAfter x n s.cur.addr

/-- R328. -/
def execTrap (n : BitVec 14) (s : State) : Host.Outcome State Fault Refusal :=
  issue (.trap n) s fun s => .ok (s.trapAct n)

/-! ## Returns of handlers -/

/-- A handler ends after its last bundle: results due land; whether those still in flight land is free
(notes/assumptions/20.md). -/
def State.leaveHandler (s : State) (x : CtxId) : State :=
  let s := s.modCore x.core fun k => { k with bank := k.bank.map fun b => { b with delay := nearer b.delay } }
  let s := s.bankBoundary x
  match (s.core x.core).bank with
  | none => s
  | some b =>
    let s := (s.modCore x.core fun k => k.endHandler x.slot).traceEvent x 0xF6
    if b.delay.isEmpty then s
    else
      let (land, s) := s.freeBit
      if land then (s.landEach x true b.delay).1 else s

/-- A return from the handler of a kind (R277, R330): BADOP outside it; the interrupted bundle is next. -/
def State.returnAct (s : State) (late : Bool) : Except Stop State :=
  let x := s.cur.ctx
  if s.bank?.map (·.late) ≠ some late then raise .badop
  else
    .ok ((s.modReg x fun r =>
      if late then { r with lstat := putField r.lstat 63 1 0 } else { r with uistat := putField r.uistat 13 1 0 }).leaveHandler x)

/-- R277. -/
def execRetu (s : State) : Host.Outcome State Fault Refusal :=
  issue .retu s fun s => s.returnAct false

/-- R330. -/
def execRetl (s : State) : Host.Outcome State Fault Refusal :=
  issue .retl s fun s => s.returnAct true

end Sys2Proof.Machine
end

