-- ==== Sys2Proof/Machine/CoreCtl.lean ====
section
/-! DEFINITION. Core control (R228, R467, R472): reads of a slot's registers and of the core-wide ones, and writes that act
as an `mts` of the slot's context. -/

namespace Sys2Proof.Machine

/-! ## Reads -/

/-- Whether a word of a slot's snapshot, at an offset, by the snapshot's fields (R467). -/
def SnapSlot.word (p : SnapSlot) (o : Nat) : Word :=
  if o = 0 then p.pc.setWidth 64
  else if o = 0x008 then BitVec.ofNat 64 p.pos
  else if o = 0x010 then BitVec.ofNat 64 p.cycles
  else if o = 0x018 then p.flags
  else if o < 0x220 then (nth p.s ((o - 0x20) / 8)).val
  else if o < 0x230 then
    BitVec.ofNat 64 (ofElems 2 ((List.range 32).map fun i => BitVec.ofNat 2 (tagCode (nth p.s ((o - 0x220) / 8 * 32 + i)).tag)))
  else match p.transfer with
    | none => 0
    | some t => BitVec.ofNat 64 (2 ^ 63 + t.taken.toNat * 2 ^ 62 + t.due % 4 * 2 ^ 56 + t.target.toNat % 2 ^ 56)

/-- A doubleword of core control, at an offset that has one. -/
def State.readCoreCtl (s : State) (c : Fin 1792) (off : Nat) : Word :=
  let k := s.core c
  if off < 0x40000 then s.readCtl { core := c, slot := ⟨off / 0x20000 % 2, Nat.mod_lt _ (by decide)⟩ } (off % 0x20000 / 8)
  else if off = 0x40000 then k.clock
  else if off = 0x40008 then k.snapClock
  else if off = 0x40010 then k.corrected.setWidth 64
  else if off = 0x40018 then s.mgmt.duty.setWidth 64
  else match k.snap with
    | none => 0
    | some v => (v.get ⟨off / 0x800 % 2, Nat.mod_lt _ (by decide)⟩).word (off % 0x800)

/-! ## Writes -/

/-- The number is a register of a task's state (R65, R472). -/
def taskCtl (n : Nat) : Bool :=
  (decide (1 ≤ n) && decide (n ≤ 3)) || (decide (0x010 ≤ n) && decide (n ≤ 0x017)) || (decide (0x080 ≤ n) && decide (n ≤ 0x09F)) ||
  n == 0x144 || n == 0x186

/-- What a write of core control comes to. -/
inductive CtlResult where
  | done (s : State)
  | bad (c : Cause)
  | wait (s : State)       -- the context is not ready for it (R184, R221)

/-- A new carve word for a slot's logical core alone (R221): the core becomes quiet, spills, and changes. -/
def State.coreCarve (s : State) (x : CtxId) (v : Word) : CtlResult :=
  if !(s.carveFits x v) then .bad .carve
  else if !(s.coreSettled x) then .wait (s.modCtx x fun c => { c with carveWord := some (v, true) })
  else match s.carveSpill [(x, v)] with
    | .error _ => .bad .regfill
    | .ok s => .done ((s.changeCarve x v).modCtx x fun c => { c with carveWord := none })

/-- A context stands at a boundary where a write lands: it is resident and nothing freezes it. -/
def Ctx.atBoundary (c : Ctx) : Bool := c.resident && !c.frozen

/-- A write acts as an `mts` by the slot's context, at the boundary it stands at; core-wide registers ignore it. Those that
land at a boundary wait for one, where the context is frozen or none is resident (R271, R281), and the watches are looked
at there. -/
def State.writeCoreCtl (s : State) (c : Fin 1792) (off : Nat) (v : Word) : CtlResult :=
  if 0x40000 ≤ off then .done s
  else
    let x : CtxId := { core := c, slot := ⟨off / 0x20000 % 2, Nat.mod_lt _ (by decide)⟩ }
    let n := off % 0x20000 / 8
    if ctlIgnored n then .done s
    else if !((s.ctx x).resident) && taskCtl n then .bad .engine
    else match s.ctlBad x n v with
      | some e => .bad e
      | none =>
        if n = 0x020 then s.coreCarve x v
        else if boundaryCtl n then
          if (s.ctx x).atBoundary then .done ((s.writeCtl x n v).lookAround x)
          else .done { s with ctlWrites := s.ctlWrites ++ [({ core := c, off := BitVec.ofNat 22 off, val := v, writer := .store x 0 } : CtlWrite)] }
        else if n = 0x040 ∧ s.mirrorBusy x then .wait s
        else .done (s.writeCtl x n v)

/-- A write with its report (R228): to the storing context's supervisor by a notice, or to a copy by its flag's error
status. A write that must wait stays pending. -/
def State.applyCtl (s : State) (w : CtlWrite) : State :=
  match s.writeCoreCtl w.core w.off.toNat w.val with
  | .done s => s
  | .wait s => { s with ctlWrites := s.ctlWrites ++ [w] }
  | .bad e =>
    match w.writer with
    | .copy id => s.failDone id
    | .store x va => s.notice .controlw x va (causeCode e)

def State.applyCtls (s : State) (l : List CtlWrite) : State :=
  match l with
  | [] => s
  | w :: l => (s.applyCtl w).applyCtls l

/-- The writes of core control that have performed act. -/
def State.settleCtl (s : State) : State :=
  if s.ctlWrites.isEmpty then s else { s with ctlWrites := [] }.applyCtls s.ctlWrites

end Sys2Proof.Machine
end

