-- ==== Sys2Proof/Machine/LoadStore.lean ====
section
/-! DEFINITION. S-slot loads and stores (R231), speculative loads (R116), load blocks (R230), atomics (R232, R233, R255)
and remote loads with a declared latency (R380, R381). -/

namespace Sys2Proof.Machine

/-! ## The checks of an access (R231) -/

/-- The phase an access is checked against, as a fault's detail says it. -/
def phaseDetail (p : Option (BitVec 12)) : BitVec 14 := (p.getD 0).setWidth 14

/-- A scratchpad access that its phase does not allow raises PHASE (R335). -/
def State.phaseCheck (s : State) (p : Path) (a : Acc) (va : BitVec 56) (l : Loc) (n : Nat) : Except Stop Unit :=
  let ph := s.cx.regs.phase
  if s.phaseBreaks s.cur.ctx ph p a l n then
    .error (.raise .phase { Info.none with addr := va, detail := phaseDetail ph })
  else .ok ()

/-- Translation and the refusals of the place, at issue (R231): a store's home answers later (R261). -/
def State.locate (s : State) (a : Acc) (va : BitVec 56) (n : Nat) : Except Stop Loc :=
  let x := s.cur.ctx
  match s.xlate x s.cx.reg.ptroot s.supervisor a va with
  | .error e => .error e
  | .ok l =>
    let no := if a == .write then s.refusesHere x.core va l n a .scalar s.supervisor else s.refuses x.core va l n a .scalar s.supervisor
    if no then .error (.raise .prot { Info.none with addr := va, looked := [va] }) else .ok l

/-- The checks of an S access of n bytes, in order (R231), and its place. -/
def State.reachS (s : State) (a : Acc) (addr : Word) (n : Nat) : Except Stop (BitVec 56 × Loc) :=
  let va : BitVec 56 := field addr 0 56
  if 2 ^ 56 ≤ addr.toNat then raiseAt .xlate va
  else if addr.toNat % n ≠ 0 then raiseAt .align va
  else match s.locate a va n with
    | .error e => .error e
    | .ok l => match s.phaseCheck .l a va l n with
      | .error e => .error (e.lookedUp [va])
      | .ok _ => .ok (va, l)

/-- The address of an SM form (R231). -/
def smAddr (base : Word) (o : BitVec 10) (n : Nat) : Word := BitVec.ofInt 64 ((base.toNat : Int) + sext o 10 * n)

/-! ## Loads -/

/-- The result of an S load lands with its class's latency, if its data has arrived by then (R52, R226). -/
def State.landLoad (s : State) (l : Loc) (d : Fin 64) (v : Word) (t : Tag) : State :=
  s.pushLoad (classOf s.cur.core l.pa.toNat).latency d v t (s.fabric.dom, l.home)

/-- The access goes through the tables and the L1 (R229, R352). -/
def State.passes (s : State) (va : BitVec 56) (l : Loc) (dist : Nat) : State :=
  let x := s.cur.ctx
  let s := s.touch x s.cx.reg.ptroot va
  if isWindow l.pa.toNat then s else s.cacheAccess x.core (s.keyOf l) dist

/-- What an S load reads: memory, or a register of core control (R228). -/
def State.loadBytes (s : State) (c : Fin 16) (l : Loc) (n : Nat) : ReadOut × State :=
  let pa := l.pa.toNat
  if isWindow pa && windowSpace pa == 5 then
    ({ bytes := bytesOf 8 (s.readCoreCtl ⟨windowCore pa % 1792, Nat.mod_lt _ (by decide)⟩ (windowOff pa)).toNat, lost := false }, s)
  else s.readAs (s.me s.cur.ctx) .l c l n

/-- The value of n loaded bytes in a register (R231). -/
def loadValue (signed : Bool) (n : Nat) (b : List Byte) : Word :=
  let v := ofBytes b
  if signed then trunc (sext (BitVec.ofNat 64 v) (8 * n)) 64 else BitVec.ofNat 64 v

def lostTag (lost : Bool) : Tag := if lost then .lost else .clean

/-- The load of n bytes, of a class, at a place that passed its checks. -/
def State.loadFrom (s : State) (va : BitVec 56) (c : Fin 16) (l : Loc) (n : Nat) (signed : Bool) (d : Fin 64) : State :=
  let s := s.passes va l (bits s.kr.ldhint 0 2)
  let (r, s) := s.loadBytes c l n
  s.landLoad l d (loadValue signed n r.bytes) (lostTag r.lost)

def State.loadAct (s : State) (n : Nat) (signed : Bool) (d b : Fin 64) (c : Fin 16) (o : BitVec 10) : Except Stop State :=
  match s.reachS .read (smAddr (s.readS b).val o n) n with
  | .error e => .error e
  | .ok (va, l) => .ok (s.loadFrom va c l n signed d)

/-- R231. -/
def execLdI8 (d b : Fin 64) (c : Fin 16) (o : BitVec 10) (s : State) : Host.Outcome State Fault Refusal :=
  issue (.ldI8 d b c o) s fun s => s.loadAct 1 true d b c o

/-- R231. -/
def execLdN8 (d b : Fin 64) (c : Fin 16) (o : BitVec 10) (s : State) : Host.Outcome State Fault Refusal :=
  issue (.ldN8 d b c o) s fun s => s.loadAct 1 false d b c o

/-- R231. -/
def execLdI16 (d b : Fin 64) (c : Fin 16) (o : BitVec 10) (s : State) : Host.Outcome State Fault Refusal :=
  issue (.ldI16 d b c o) s fun s => s.loadAct 2 true d b c o

/-- R231. -/
def execLdN16 (d b : Fin 64) (c : Fin 16) (o : BitVec 10) (s : State) : Host.Outcome State Fault Refusal :=
  issue (.ldN16 d b c o) s fun s => s.loadAct 2 false d b c o

/-- R231. -/
def execLdI32 (d b : Fin 64) (c : Fin 16) (o : BitVec 10) (s : State) : Host.Outcome State Fault Refusal :=
  issue (.ldI32 d b c o) s fun s => s.loadAct 4 true d b c o

/-- R231. -/
def execLdN32 (d b : Fin 64) (c : Fin 16) (o : BitVec 10) (s : State) : Host.Outcome State Fault Refusal :=
  issue (.ldN32 d b c o) s fun s => s.loadAct 4 false d b c o

/-- R231. -/
def execLdI64 (d b : Fin 64) (c : Fin 16) (o : BitVec 10) (s : State) : Host.Outcome State Fault Refusal :=
  issue (.ldI64 d b c o) s fun s => s.loadAct 8 true d b c o

/-! ## Speculative loads (R116) -/

/-- The latency of a deferred result: 4 for an alias address or one that translates into the scratchpad class, 8 for
every other. -/
def State.deferLatency (s : State) (addr : Word) (n : Nat) : Nat :=
  let va : BitVec 56 := field addr 0 56
  if 2 ^ 56 ≤ addr.toNat then 8
  else if isAlias va then 4
  else if (s.lookup s.cur.core s.cx.reg.ptroot va).isNone && (s.walkFailed s.cur.ctx s.cx.reg.ptroot va (some (s.supervisor, n))).isSome then 8
  else match s.translate s.cur.core s.cx.reg.ptroot s.supervisor .read va with
    | .ok l => (classOf s.cur.core l.pa.toNat).latency
    | .error _ => 8

/-- The address of a speculative load goes to the tables: it is aligned and of 56 bits. -/
def looksUp (addr : Word) (n : Nat) : Bool := decide (addr.toNat < 2 ^ 56) && addr.toNat % n == 0

/-- The place of a speculative load, if a plain load would reach it; core control defers. -/
def State.reachSpec (s : State) (addr : Word) (n : Nat) : Option (BitVec 56 × Loc) :=
  let x := s.cur.ctx
  let pt := s.cx.reg.ptroot
  let va : BitVec 56 := field addr 0 56
  if !(looksUp addr n) || (s.walkFailed x pt va (some (s.supervisor, n))).isSome && (s.lookup x.core pt va).isNone then none
  else match s.translate x.core pt s.supervisor .read va with
    | .ok l =>
      if s.refuses x.core va l n .read .scalar s.supervisor || isWindow l.pa.toNat && windowSpace l.pa.toNat == 5 then none
      else match s.phaseCheck .l .read va l n with
        | .error _ => none
        | .ok _ => some (va, l)
    | .error _ => none

/-- R116. The walk of one that is deferred at core control has installed its entry (DESIGN CHOICE, notes/assumptions/84.md). -/
def State.specAct (s : State) (n : Nat) (d b : Fin 64) (c : Fin 16) (o : BitVec 10) : Except Stop State :=
  let base := s.readS b
  let addr := smAddr base.val o n
  if base.tag = .deferred then .ok (s.pushS (s.deferLatency addr n) d 0 .deferred)
  else if looksUp addr n && s.mustWalk s.cur.ctx s.cx.reg.ptroot (field addr 0 56) (some (s.supervisor, n)) then
    .error (.walk (field addr 0 56) (some n))
  else match s.reachSpec addr n with
    | none =>
      let t := if looksUp addr n then s.touchHit s.cur.ctx s.cx.reg.ptroot (field addr 0 56) else s
      .ok (t.pushS (s.deferLatency addr n) d 0 .deferred)
    | some (va, l) => .ok (s.loadFrom va c l n false d)

/-- R116. -/
def execLdSN32 (d b : Fin 64) (c : Fin 16) (o : BitVec 10) (s : State) : Host.Outcome State Fault Refusal :=
  issue (.ldSN32 d b c o) s fun s => s.specAct 4 d b c o

/-- R116. -/
def execLdSI64 (d b : Fin 64) (c : Fin 16) (o : BitVec 10) (s : State) : Host.Outcome State Fault Refusal :=
  issue (.ldSI64 d b c o) s fun s => s.specAct 8 d b c o

/-! ## Stores (R231) -/

/-- A store of n bytes is withheld, with its class and scope. -/
def State.storeAct (s : State) (n : Nat) (d b : Fin 64) (c : Fin 16) (o : BitVec 10) : Except Stop State :=
  match s.reachS .write (smAddr (s.readS b).val o n) n with
  | .error e => .error e
  | .ok (va, l) =>
    let x := s.readS d
    .ok ((s.touch s.cur.ctx s.cx.reg.ptroot va).withhold .plain
      [{ va := va, loc := l, bytes := bytesOf n x.val.toNat, lost := x.tag == .lost }] c .l)

/-- R231. -/
def execSt8 (d b : Fin 64) (c : Fin 16) (o : BitVec 10) (s : State) : Host.Outcome State Fault Refusal :=
  issue (.st8 d b c o) s fun s => s.storeAct 1 d b c o

/-- R231. -/
def execSt16 (d b : Fin 64) (c : Fin 16) (o : BitVec 10) (s : State) : Host.Outcome State Fault Refusal :=
  issue (.st16 d b c o) s fun s => s.storeAct 2 d b c o

/-- R231. -/
def execSt32 (d b : Fin 64) (c : Fin 16) (o : BitVec 10) (s : State) : Host.Outcome State Fault Refusal :=
  issue (.st32 d b c o) s fun s => s.storeAct 4 d b c o

/-- R231. -/
def execSt64 (d b : Fin 64) (c : Fin 16) (o : BitVec 10) (s : State) : Host.Outcome State Fault Refusal :=
  issue (.st64 d b c o) s fun s => s.storeAct 8 d b c o

/-! ## Load blocks (R230) -/

/-- The places of the lines of a block: each translated, and of the cacheable class. -/
def State.blockLines (s : State) (va : BitVec 56) (n : Nat) : Except Stop (List Loc) :=
  match n with
  | 0 => .ok []
  | n + 1 =>
    match s.locate .read va 128 with
    | .error e => .error e
    | .ok l =>
      if isWindow l.pa.toNat then .error (.raise .prot { Info.none with addr := va, looked := [va] })
      else match s.blockLines (va + 128) n with
        | .error e => .error (e.lookedUp [va])
        | .ok ls => .ok (l :: ls)

/-- The re-reference value of a block. One whose lines later blocks have all adopted is no block any more, and is not counted
among the 16 (DESIGN CHOICE, notes/assumptions/114.md). -/
def Core.blockValue (k : Core) (b : Block) : Nat :=
  match k.l1.find? fun l => l.block == some b.id with
  | some l => l.rrpv
  | none => 0

/-- The block to evict before a 17th: the highest value, the oldest on a tie. -/
def Core.worstBlock (k : Core) : Option Block :=
  (k.blocks.filter fun b => !b.lines.isEmpty).foldl (fun w b => match w with
    | none => some b
    | some a => if k.blockValue a < k.blockValue b then some b else some a) none

/-- Room for one more block. -/
def Core.blockRoom (k : Core) : Core :=
  if (k.blocks.filter fun b => !b.lines.isEmpty).length < 16 then k
  else match k.worstBlock with
    | some b => k.evict (k.l1.filter fun l => l.block == some b.id)
    | none => k

/-- A line joins a block: adopted if it is in the L1, out of the block it was in, else filled. -/
def Core.blockLine (k : Core) (sets id dist line : Nat) : Core :=
  let k := (k.access sets line dist).leaveBlocks [line]
  { k with l1 := k.l1.map fun l => if l.line = line then { l with block := some id, rrpv := dist } else l }

def State.allocBlock (s : State) (f : Fin 32) (dist : Nat) (lines : List Nat) : State :=
  let x := s.cur.ctx
  let sets := max 1 (32 * s.cacheGranules x.core)
  let owner : Owner := { ctx := x, serial := s.cx.serial }
  let (id, s) := s.fresh
  s.modKr fun k =>
    let k := lines.foldl (fun k n => k.blockLine sets id dist n) k.blockRoom
    { k with blocks := k.blocks ++ [{ id := id, due := some { owner := owner, flag := f, err := none, what := .block, first := id, id := id }, lines := lines }] }

def State.ldBlkAct (s : State) (f : Fin 32) (addr : Word) (count dist : Nat) : Except Stop State :=
  let va : BitVec 56 := field addr 0 56
  if addr.toNat % 128 ≠ 0 then raiseAt .align va
  else if 2 ^ 56 ≤ addr.toNat then raiseAt .xlate va
  else match s.blockLines va count with
    | .error e => .error e
    | .ok ls =>
      let s := s.touchAll ((List.range count).map fun i => va + BitVec.ofNat 56 (128 * i))
      .ok (s.allocBlock f dist (ls.map fun l => s.keyOf l / 128))

/-- R230: b holds the number of lines less one. -/
def execLdBlk (f : Fin 32) (a b : Fin 64) (r : BitVec 2) (c : Fin 16) (s : State) : Host.Outcome State Fault Refusal :=
  issue (.ldBlk f a b r c) s fun s => s.ldBlkAct f (s.readS a).val (b.val + 1) r.toNat

/-! ## Atomics (R232, R233, R255) -/

/-- The floating format of an atomic's width. -/
def amoFmt (n : Nat) : FFmt := if n = 4 then .f32 else .f64

/-- The new value at the location: `p` the operation's code, all values of 8n bits. -/
def amoValue (p n old x cmp : Nat) : Nat :=
  let w := 8 * n
  let si (v : Nat) : Int := sext (BitVec.ofNat 64 v) w
  match p with
  | 0 => (old + x) % 2 ^ w
  | 1 => old &&& x
  | 2 => old ||| x
  | 3 => old ^^^ x
  | 4 => x
  | 5 => if si x < si old then x else old
  | 6 => if si old < si x then x else old
  | 7 => if x < old then x else old
  | 8 => if old < x then x else old
  | 9 => ((amoFmt n).minMax false old x).1
  | 10 => ((amoFmt n).minMax true old x).1
  | _ => if old = cmp then x else old

/-- A released store keeps an atomic of a class waiting (R251, R254, R255, R261). -/
def State.amoWaits (s : State) (va : BitVec 56) (l : Loc) (n : Nat) (c : Fin 16) : Bool :=
  let o : StoreOp := {
    id := 0, kind := .plain, lanes := [{ va := va, loc := l, bytes := List.replicate n 0, lost := false }], cls := c
    scope := s.cur.scope, path := .l, parked := none, resent := none, phase := none }
  s.cx.released.any fun a => a.blocks o

/-- The old value of an atomic, as deterministic mode has it (R336, R337), and its landing. -/
def State.amoReturns (s : State) (l : Loc) (d : Fin 64) (v : Word) (lost : Bool) : Except Stop (Word × State) :=
  match s.logRead s.cur.ctx .amo v with
  | .error e => .error e
  | .ok (v, s) => .ok (v, s.landLoad l d v (lostTag lost))

/-- The atomic at its place: the old value and the write. A place of a dead package reads lost and takes nothing
(R398). -/
def State.amoPerform (s : State) (va : BitVec 56) (l : Loc) (n : Nat) (c : Fin 16) (d : Fin 64) (p : Nat) (x cmp : Word)
    (lost : Bool) : Except Stop State :=
  let who := s.cur.ctx
  let owner : Owner := { ctx := who, serial := s.cx.serial }
  let s := s.passes va l 2
  if s.homeDead l.home then (s.amoReturns l d 0 true).map (·.2)
  else
    let s := s.privatise l
    let k := s.keyOf l
    let s := s.claim (k / 128)
    let old := ofBytes (s.bytesAt k n)
    let lost := lost || s.lostAt k
    let hit := s.damagedAt k
    let seen := if hit then ofBytes (scramble s.free (bytesOf n old)) else old
    let s := if hit then { s with free := s.free + n } else s
    match s.amoReturns l d (BitVec.ofNat 64 seen) lost with
    | .error e => .error e
    | .ok (_, s) =>
      let new := amoValue p n old (x.toNat % 2 ^ (8 * n)) (cmp.toNat % 2 ^ (8 * n))
      let s := if c = 15 then s.publish who s.cur.scope else s
      let ks := (List.range n).map (k + ·)
      let s := (s.markSeen owner .l ((s.views.filter fun v => ks.contains v.key).map (·.n))).orderLoads who (laterClasses c)
      let s := if isWindow l.pa.toNat then s else s.dirtyLine who.core (k / 128) ks
      let a : Author := { owner := owner, path := some .l, cmd := none, cls := c, scope := s.cur.scope }
      let ws : List ByteWrite := (bytesOf n new).mapIdx fun i b => { key := k + i, val := b, lost := lost }
      let s := (s.writeUnit a ws).tagAll a ws
      .ok (if lost then s.setLostw owner else s)

def State.amoAct (s : State) (n : Nat) (d a b : Fin 64) (p : BitVec 4) (c : Fin 16) : Except Stop State :=
  let cas := p.toNat == 11
  match s.reachS .atomic (s.readS a).val n with
  | .error e => .error e
  | .ok (va, l) =>
    match s.cx.refusal <|> (if s.homeRefuses l n then some .prot else none) with
    | some e => raiseAt e va
    | none =>
    if s.cx.deterministic && (cas || p.toNat == 4) then
      .error (.raise .phase { Info.none with addr := va, detail := phaseDetail s.cx.regs.phase })
    else if s.amoWaits va l n c || s.contested (s.keyOf l / 128) || (c == 15 && s.releaseWaits s.cur.ctx s.cur.scope) then
      .error .hold
    else if (s.lineEntry (s.keyOf l / 128)).isSome then .error (.claim (s.keyOf l / 128))
    else
      let lost := (s.readS b).tag == .lost || (cas && (s.readS d).tag == .lost)
      s.amoPerform va l n c d p.toNat (s.readS b).val (s.readS d).val lost

/-- R232. -/
def execAmo32 (d a b : Fin 64) (p : BitVec 4) (c : Fin 16) (s : State) : Host.Outcome State Fault Refusal :=
  issue (.amo32 d a b p c) s fun s => s.amoAct 4 d a b p c

/-- R232. -/
def execAmo64 (d a b : Fin 64) (p : BitVec 4) (c : Fin 16) (s : State) : Host.Outcome State Fault Refusal :=
  issue (.amo64 d a b p c) s fun s => s.amoAct 8 d a b p c

/-! ## Remote loads with a declared latency (R380, R381) -/

/-- The read of an `rld`; whether its reply comes by its deadline is free (notes/assumptions/24.md). -/
def State.rldFrom (s : State) (va : BitVec 56) (l : Loc) (d : Fin 64) (lat : Nat) : State :=
  let s := s.touch s.cur.ctx s.cx.reg.ptroot va
  let (r, s) := s.readAs (s.me s.cur.ctx) .l 0 l 8
  let (soon, s) := s.freeBit
  if d = 0 then s
  else s.enter { left := lat, landing := .s d { val := BitVec.ofNat 64 (ofBytes r.bytes), tag := lostTag r.lost }, arrived := soon, rld := true, peer := some (s.fabric.dom, l.home) }

def State.rldAct (s : State) (d a : Fin 64) (lat : Nat) : Except Stop State :=
  let addr := (s.readS a).val
  let va : BitVec 56 := field addr 0 56
  if 2 ^ 56 ≤ addr.toNat then raiseAt .xlate va
  else if addr.toNat % 8 ≠ 0 then raiseAt .align va
  else match s.locate .read va 8 with
    | .error e => .error e
    | .ok l =>
      if isWindow l.pa.toNat then .error (.raise .prot { Info.none with addr := va, looked := [va] })
      else .ok (s.rldFrom va l d lat)

/-- R380. -/
def execRld (d a : Fin 64) (l : BitVec 14) (s : State) : Host.Outcome State Fault Refusal :=
  issue (.rld d a l) s fun s => s.rldAct d a l.toNat

end Sys2Proof.Machine
end

