-- ==== Sys2Proof/Machine/Sync.lean ====
section
/-! DEFINITION. Fences (R256 to R258), flags (R272), rings (R285, R286), and sequence counters (R279, R280, R282). -/

namespace Sys2Proof.Machine

/-! ## Classes and paths of commands (R38, R245) -/

/-- The class of a command. -/
def cmdClass (i : Instr) : Fin 16 :=
  match i with
  | .cpy n _ _ _ _ | .cgath n _ _ _ _ | .cscat n _ _ _ _ | .cfill n _ _ _ _ | .cred n _ _ _ _ | .cbcast n _ _ _ _
  | .cxfm n _ _ _ _ | .cstashSave n _ _ _ _ | .cstashGet n _ _ _ _ | .cstashPf n _ _ | .cstashDrop n _ _ | .cverFork n _ _
  | .cverRetire n _ _ | .cverSettle n _ _ | .csend n _ _ _ _ | .crecv n _ _ _ _ | .cringReduceScatter n _ _ _ _
  | .cringAllGather n _ _ _ _ | .cringReduceScatterF32 n _ _ _ _ | .cringAllGatherF32 n _ _ _ _ | .cnred n _ _ _ _
  | .cmaintClean n _ _ _ _ | .cmaintFlush n _ _ _ _ | .cmaintInval n _ _ _ _ | .cmaintTlb n _ _ _ _ | .cpin n _ _ _ _
  | .cpinUnpin n _ _ _ _ | .cmcast n _ _ _ => n
  | _ => 0

/-- The flag a command completes. -/
def cmdFlag (i : Instr) : Fin 32 :=
  match i with
  | .cpy _ f _ _ _ | .cgath _ f _ _ _ | .cscat _ f _ _ _ | .cfill _ f _ _ _ | .cred _ f _ _ _ | .cbcast _ f _ _ _
  | .cxfm _ f _ _ _ | .cstashSave _ f _ _ _ | .cstashGet _ f _ _ _ | .cstashPf _ f _ | .cstashDrop _ f _ | .cverFork _ f _
  | .cverRetire _ f _ | .cverSettle _ f _ | .csend _ f _ _ _ | .crecv _ f _ _ _ | .cringReduceScatter _ f _ _ _
  | .cringAllGather _ f _ _ _ | .cringReduceScatterF32 _ f _ _ _ | .cringAllGatherF32 _ f _ _ _ | .cnred _ f _ _ _
  | .cmaintClean _ f _ _ _ | .cmaintFlush _ f _ _ _ | .cmaintInval _ f _ _ _ | .cmaintTlb _ f _ _ _ | .cpin _ f _ _ _
  | .cpinUnpin _ f _ _ _ | .cmcast _ f _ _ => f
  | _ => 0

/-- The path letters of R38 by code. -/
def pathOf (n : Nat) : Path :=
  match n with
  | 0 => .l | 1 => .c | 2 => .a | 3 => .x | 4 => .n | _ => .k

/-- A command of a context of some class stands issued and not completed; a posted receive completes when its window closes
(R377). -/
def State.commandsOpen (s : State) (serial : Nat) (mask : BitVec 16) : Bool :=
  let mine (c : Command) : Bool := c.owner.serial == serial && mask.getLsbD (cmdClass c.instr).val
  (s.cores.any fun (p : Fin 1792 × Core) => (List.finRange 2).any fun q => (p.2.queue.get q).any mine) || s.receiveOpen mine

/-! ## Fences -/

/-- `fence.c` keeps waiting for a released store (R257). -/
def State.fenceWaits (s : State) (mask : BitVec 16) : Bool :=
  (s.cx.released.any fun o => o.path == .l && mask.getLsbD o.cls.val) || (mask.getLsbD 15 && !s.cx.parked.isEmpty)

/-- A fence at domain scope or wider waits for the acknowledgments of the invalidations that the context's own writes on
some paths, of the classes in a mask, have asked for (R247, R383; notes/assumptions/63.md). -/
def State.domainWaits (s : State) (paths : List Path) (mask : BitVec 16) : Bool :=
  decide (4 ≤ s.cur.scope.val) && s.acksFor fun v =>
    v.owner.serial == s.cx.serial && v.path.any paths.contains && v.done && mask.getLsbD v.cls.val

/-- R257. -/
def State.fenceCAct (s : State) (mask : BitVec 16) : Except Stop State :=
  if s.fenceWaits mask || s.commandsOpen s.cx.serial mask || s.domainWaits [.l, .c, .n, .k] mask then .error .hold
  else .ok ((s.widen s.cur.ctx [.l, .c, .n, .k] mask s.cur.scope).orderLoads s.cur.ctx mask)

/-- R257. -/
def execFenceC (m : BitVec 16) (s : State) : Host.Outcome State Fault Refusal :=
  issue (.fenceC m) s fun s => s.fenceCAct m

/-- What `fence.p` waits for on a path (R258). -/
def State.pathWaits (s : State) (p : Path) : Bool :=
  match p with
  | .l => (s.cx.released.any fun o => o.path == .l) || !s.cx.parked.isEmpty
  | .x => s.cx.released.any fun o => o.path == .x
  | _ => false

/-- R258. -/
def State.fencePAct (s : State) (p q : Path) : Except Stop State :=
  let x := s.cur.ctx
  let waited := [p, q].filter fun r => r == .l || r == .x
  if s.pathWaits p || s.pathWaits q || s.domainWaits waited (BitVec.allOnes 16) then .error .hold
  else
    let t := ((s.widen x waited (BitVec.allOnes 16) s.cur.scope).bridge x p q).bridge x q p
    .ok (if waited.contains .l then t.orderLoads x (BitVec.allOnes 16) else t)

/-- R258. -/
def execFenceP (p q : BitVec 3) (s : State) : Host.Outcome State Fault Refusal :=
  issue (.fenceP p q) s fun s => s.fencePAct (pathOf p.toNat) (pathOf q.toNat)

/-! ## Flags (R272) -/

def flagMask (v : Word) : BitVec 32 := field v 0 32

/-- R272. -/
def execSig (a : Fin 64) (s : State) : Host.Outcome State Fault Refusal :=
  issue (.sig a) s fun s => .ok (s.push 1 (.sig (flagMask (s.readS a).val)))

/-- R272. -/
def execClrf (a : Fin 64) (s : State) : Host.Outcome State Fault Refusal :=
  issue (.clrf a) s fun s => .ok (s.push 1 (.clr (flagMask (s.readS a).val)))

/-- R272. -/
def execClrfErr (a : Fin 64) (s : State) : Host.Outcome State Fault Refusal :=
  issue (.clrfErr a) s fun s => .ok (s.push 1 (.clrErr (flagMask (s.readS a).val)))

/-! ## Rings (R285, R286) -/

/-- `%hs` with the producer or the consumer moved forward by n, or none where n exceeds what is free or filled (R285). -/
def ringAdvance (consumer : Bool) (hg hs : Word) (n : Nat) : Option Word :=
  let slots := hgSlots hg
  if !(hgValid hg) || decide ((if consumer then ringFilled hg hs else ringFree hg hs) < n) then none
  else if consumer then
    let (c, w) := ringMove slots (hsC hs) (flag hs 25) n
    some (putField (putField hs 13 12 c) 25 1 w.toNat)
  else
    let (p, w) := ringMove slots (hsP hs) (flag hs 12) n
    some (putField (putField hs 0 12 p) 12 1 w.toNat)

def State.advAct (s : State) (consumer : Bool) (h : Fin 16) (v : Word) : Except Stop State :=
  match ringAdvance consumer (s.cx.regs.hg.get h) (s.cx.regs.hs.get h) (bits v 0 13) with
  | some hs => .ok (s.push 1 (.ring h hs))
  | none => raise .prot

/-- R285. -/
def execAdvP (h : Fin 16) (b : Fin 64) (s : State) : Host.Outcome State Fault Refusal :=
  issue (.advP h b) s fun s => s.advAct false h (s.readS b).val

/-- R285. -/
def execAdvC (h : Fin 16) (b : Fin 64) (s : State) : Host.Outcome State Fault Refusal :=
  issue (.advC h b) s fun s => s.advAct true h (s.readS b).val

/-- A binding of a handle: its field starts at bit 46 for the fill binding and at bit 28 for the free one (R283). -/
def bindRing (hs : Word) (lo : Nat) (f : Fin 32) (k : Nat) : Word :=
  if k = 0 then putField hs lo 18 0
  else putField (dropBindings f hs) lo 18 (2 ^ 17 + f.val * 2 ^ 12 + (k - 1))

def State.bindAct (s : State) (lo : Nat) (f : Fin 32) (h : Fin 16) (v : Word) : Except Stop State :=
  let hg := s.cx.regs.hg.get h
  let k := bits v 0 13
  if !(hgValid hg) || decide (hgSlots hg < k) then raise .prot
  else .ok (s.push 1 (.bind h (bindRing (s.cx.regs.hs.get h) lo f k) (if k = 0 then none else some f)))

/-- R286. -/
def execRfill (f : Fin 32) (h : Fin 16) (b : Fin 64) (s : State) : Host.Outcome State Fault Refusal :=
  issue (.rfill f h b) s fun s => s.bindAct 46 f h (s.readS b).val

/-- R286. -/
def execRfree (f : Fin 32) (h : Fin 16) (b : Fin 64) (s : State) : Host.Outcome State Fault Refusal :=
  issue (.rfree f h b) s fun s => s.bindAct 28 f h (s.readS b).val

/-! ## Sequence counters -/

/-- The counter a name reaches through the slot's window (R278). -/
def State.nameCounter (s : State) (name : Word) : Except Stop (Fin 4096) :=
  match counterOf s.cx.reg.seqwin name with
  | .error e => raise e
  | .ok n => .ok n

/-- R279: the add is withheld, and performs as a release. -/
def State.seqaddAct (s : State) (name v : Word) : Except Stop State :=
  match s.nameCounter name with
  | .error e => .error e
  | .ok n =>
    if flag v 63 then raise .seqback
    else .ok (s.withhold (.counter (nameFar name) (nameDom name) (namePkg name) n v) [] 0 .l)

/-- R279. -/
def execSeqadd (a b : Fin 64) (s : State) : Host.Outcome State Fault Refusal :=
  issue (.seqadd a b) s fun s => s.seqaddAct (s.readS a).val (s.readS b).val

/-- R280: an acquire; logged in deterministic mode; lost where the named package is dead. A read of another domain's counter
is a packet, and waits for its port (R396). -/
def State.seqrdAct (s : State) (d : Fin 64) (name : Word) : Except Stop State :=
  match s.nameCounter name with
  | .error e => .error e
  | .ok n =>
    match s.askCounter s.cur.ctx name (.read n) with
    | none => .error .hold
    | some s =>
    let (v, s) := s.counterValue name n
    match s.logRead s.cur.ctx .seqrd v with
    | .error e => .error e
    | .ok (v, s) => .ok ((s.orderLoads s.cur.ctx (BitVec.allOnes 16)).pushLoad 8 d v (lostTag (s.nameDead name)) (s.namePeer name))

/-- R280. -/
def execSeqrd (d a : Fin 64) (s : State) : Host.Outcome State Fault Refusal :=
  issue (.seqrd d a) s fun s => s.seqrdAct d (s.readS a).val

/-- The entry a binding of a flag takes: its own, else the lowest free one (R282). -/
def Ctx.watchEntry (c : Ctx) (f : Fin 32) : Option (Fin 4) :=
  match (List.finRange 4).find? fun j => flag (c.wn.get j) 63 && bits (c.wn.get j) 57 5 == f.val with
  | some j => some j
  | none => (List.finRange 4).find? fun j => !(flag (c.wn.get j) 63)

/-- The name word of a watch entry, armed (R281). -/
def watchWord (f : Fin 32) (name : Word) (n : Fin 4096) : Word :=
  BitVec.ofNat 64 (2 ^ 63 + f.val * 2 ^ 57 + bits name 16 15 * 2 ^ 16 + n.val)

/-- The microbatch tag of the context's task; 0 where it holds none. -/
def Ctx.tag (c : Ctx) : BitVec 32 := ((c.task.map (·.tag)).getD 0)

/-- R282: a watch on another domain's counter is asked for in a packet, and waits for its port (R396). -/
def State.watchAct (s : State) (f : Fin 32) (name thr : Word) : Except Stop State :=
  match s.nameCounter name with
  | .error e => .error e
  | .ok n =>
    match s.cx.watchEntry f with
    | none => raise .engine
    | some j => match s.askCounter s.cur.ctx name (.watch n thr) with
      | none => .error .hold
      | some s => .ok (s.push 1 (.watch j (watchWord f name n) thr))

/-- R282. -/
def execSeqwatch (f : Fin 32) (a b : Fin 64) (s : State) : Host.Outcome State Fault Refusal :=
  issue (.seqwatch f a b) s fun s => s.watchAct f (s.readS a).val (s.readS b).val

/-- R282. -/
def execSeqwatchTag (f : Fin 32) (a b : Fin 64) (s : State) : Host.Outcome State Fault Refusal :=
  issue (.seqwatchTag f a b) s fun s => s.watchAct f (s.readS a).val (satAdd (s.readS b).val (s.cx.tag.setWidth 64))

end Sys2Proof.Machine
end

