-- ==== Sys2Proof/Machine/SeqUnit.lean ====
section
/-! DEFINITION. The sequence unit: points (R149, R150), and `qseed`, `qldt`, `qpt` and `qsave` (R153 to R157). -/

namespace Sys2Proof.Machine

/-! ## Points -/

/-- Direction number b of a dimension record (R147). -/
def direction (r : BitVec 1088) (b : Nat) : BitVec 32 := field r (32 * b) 32
def recordSeed (r : BitVec 1088) : Word := field r 1024 64

/-- The unscrambled coordinate: the direction numbers that the Gray code of the index selects. -/
def grayPoint (r : BitVec 1088) (i : BitVec 32) : BitVec 32 :=
  let g := i ^^^ (i >>> 1)
  (List.range 32).foldl (fun y b => if g.getLsbD b then y ^^^ direction r b else y) 0

/-- The nested-uniform scramble: bit j is flipped by a hash of the seed, j and the bits above it. -/
def scrambleBits (seed : Word) (y : BitVec 32) : BitVec 32 :=
  (List.range 32).foldl (fun z j =>
    let p := y.toNat / 2 ^ (j + 1)
    let f := (hash seed (BitVec.ofNat 64 (j * 2 ^ 32 + p))).getLsbD 63
    if y.getLsbD j != f then z ||| BitVec.ofNat 32 (2 ^ j) else z) 0

/-- `qpoint` (R149). -/
def qpoint (r : BitVec 1088) (i : BitVec 32) : BitVec 32 :=
  let y := grayPoint r i
  if recordSeed r = 0 then y else scrambleBits (recordSeed r) y

/-- A coordinate in its form (R150): f32 is exact. -/
def pointForm (f32 : Bool) (y : BitVec 32) : BitVec 32 :=
  if f32 then BitVec.ofNat 32 (FFmt.f32.round .rne false (y.toNat / 2 ^ 8) (-24)).1 else y

/-- The dimension of a number. -/
def Regs.dim (r : Regs) (n : Nat) : BitVec 1088 := nth r.dims n

/-! ## Spans of memory -/

/-- A span of bytes cut where 64 KiB pages end. -/
def pagePieces (va : BitVec 56) (n fuel : Nat) : List (BitVec 56 × Nat) :=
  match fuel with
  | 0 => []
  | f + 1 =>
    let k := min n (2 ^ 16 - va.toNat % 2 ^ 16)
    if n = 0 then [] else (va, k) :: pagePieces (va + BitVec.ofNat 56 k) (n - k) f

/-- The places of a span's pieces: every byte is translated and allowed (R155). -/
def State.locatePieces (s : State) (a : Acc) (l : List (BitVec 56 × Nat)) : Except Stop (List Piece) :=
  match l with
  | [] => .ok []
  | (va, n) :: l =>
    match s.locate a va n with
    | .error e => .error e
    | .ok loc => match s.phaseCheck .l a va loc n with
      | .error e => .error (e.lookedUp [va])
      | .ok _ => match s.locatePieces a l with
        | .error e => .error (e.lookedUp [va])
        | .ok ps => .ok ({ va := va, loc := loc, len := n } :: ps)

/-- The checks of an access to a span (R155, R156). -/
def State.reachSpan (s : State) (a : Acc) (addr : Word) (n : Nat) : Except Stop (List Piece) :=
  let va : BitVec 56 := field addr 0 56
  if 2 ^ 56 ≤ addr.toNat then raiseAt .xlate va
  else if addr.toNat % 8 ≠ 0 then raiseAt .align va
  else s.locatePieces a (pagePieces va n 4)

/-- A span is read on path L, with an access of a class. -/
def State.readPieces (s : State) (c : Fin 16) (l : List Piece) : ReadOut × State :=
  match l with
  | [] => ({ bytes := [], lost := false }, s)
  | p :: l =>
    let s := s.passes p.va p.loc 2
    let (r, s) := s.readEach (s.me s.cur.ctx) .l c p.loc p.len
    let (r', s) := s.readPieces c l
    ({ bytes := r.bytes ++ r'.bytes, lost := r.lost || r'.lost }, s)

/-! ## Instructions -/

/-- R154. -/
def execQseed (a b : Fin 64) (s : State) : Host.Outcome State Fault Refusal :=
  issue (.qseed a b) s fun s =>
    .ok (s.push 1 (.seed ⟨bits (s.readS a).val 0 6, Nat.mod_lt _ (by decide)⟩ (s.readS b).val))

/-- First dimension and count of `qldt` and `qsave`. -/
def runFirst (v : Word) : Nat := bits v 0 6
def runCount (v : Word) : Nat := bits v 6 6 + 1
def dimOf (n : Nat) : Fin 64 := ⟨n % 64, Nat.mod_lt _ (by decide)⟩

/-- The records of a run land in their entries, once the last byte has arrived (R155). -/
def State.pushDims (s : State) (first : Nat) (b : List Byte) (n : Nat) : State :=
  match n with
  | 0 => s
  | n + 1 =>
    (s.enter { left := 1, landing := .dim (dimOf first) (BitVec.ofNat 1088 (ofBytes (b.take 136))), arrived := false, rld := false
               peer := none }).pushDims (first + 1) (b.drop 136) n

/-- R155. -/
def State.qldtAct (s : State) (c : Fin 16) (addr v : Word) : Except Stop State :=
  match s.reachSpan .read addr (136 * runCount v) with
  | .error e => .error e
  | .ok ps =>
    let (r, s) := s.readPieces c ps
    if r.lost then .error (.raise .contain { Info.none with addr := field addr 0 56, looked := ps.map (·.va) })
    else .ok (s.pushDims (runFirst v) r.bytes (runCount v))

/-- R155. -/
def execQldt (c : Fin 16) (a b : Fin 64) (s : State) : Host.Outcome State Fault Refusal :=
  issue (.qldt c a b) s fun s => s.qldtAct c (s.readS a).val (s.readS b).val

/-- R157. -/
def execQpt (d a b : Fin 64) (s : State) : Host.Outcome State Fault Refusal :=
  issue (.qpt d a b) s fun s =>
    let x := s.readS a
    let y := s.readS b
    .ok (s.pushS 6 d ((pointForm (flag y.val 6) (qpoint (s.cx.regs.dim (bits y.val 0 6)) (field x.val 0 32))).setWidth 64)
      (maxTag x.tag y.tag))

/-- R156. -/
def State.qsaveAct (s : State) (addr v : Word) (c : Fin 16) : Except Stop State :=
  match s.reachSpan .write addr (136 * runCount v) with
  | .error e => .error e
  | .ok ps =>
    let b := (List.range (runCount v)).flatMap fun i => bytesOf 136 (s.cx.regs.dim ((runFirst v + i) % 64)).toNat
    .ok ((s.touchAll (ps.map (·.va))).withhold .span (spanLanes ps b false) c .l)

/-- R156. -/
def execQsave (c : Fin 16) (a b : Fin 64) (s : State) : Host.Outcome State Fault Refusal :=
  issue (.qsave c a b) s fun s => s.qsaveAct (s.readS a).val (s.readS b).val c

end Sys2Proof.Machine
end

