-- ==== Sys2Proof/Machine/Gates.lean ====
section
/-! DEFINITION. The gate kinds: PAUSE (R51), PHASE (R334, R335) and MARK (R30, R341). Waits, scopes and checkpoints of a
gate belong to its bundle's issue. -/

namespace Sys2Proof.Machine

/-! ## PAUSE -/

/-- The bundle is followed by the pause cycles of its aux field and one (R30, R51). -/
def State.setPause (s : State) (n : Nat) : State :=
  match s.bank? with
  | some _ => s.modBank fun b => { b with pause := n }
  | none => s.modCx fun c => { c with pause := n }

/-- R30, R51. -/
def execPause (g : Gate) (n : BitVec 12) (s : State) : Host.Outcome State Fault Refusal :=
  issue (.pause g n) s fun s => .ok (s.setPause (n.toNat + 1))

/-! ## PHASE -/

/-- A range of a phase entry that is valid or wholly zero, with no reserved bit set (R334). -/
def rangeOk (r : Word) : Bool := if flag r 63 then bits r 0 22 == 0 else r == 0

/-- Two ranges share a byte of some scratchpad of the cluster. -/
def rangesMeet (a b : Word) : Bool :=
  flag a 63 && flag b 63 && (flag a 62 || flag b 62 || bits a 56 6 == bits b 56 6) &&
  decide (bits a 39 17 < bits b 39 17 + bits b 22 17 + 1) && decide (bits b 39 17 < bits a 39 17 + bits a 22 17 + 1)

/-- The path of the j-th ranges of an entry. -/
def phasePaths : List Path := [.l, .c, .a, .x]

/-- The ranges of an entry's bytes. -/
def entryRanges (owner : Owner) (id : BitVec 12) (b : List Byte) : List Registered :=
  (List.range 4).flatMap fun j =>
    let p : Path := phasePaths.getD j .l
    [{ owner := owner, id := id, path := p, write := false, range := BitVec.ofNat 64 (leAt b (16 * j) 8) },
     { owner := owner, id := id, path := p, write := true, range := BitVec.ofNat 64 (leAt b (16 * j + 8) 8) }]

/-- A range that would be registered conflicts with one that is (R335). -/
def conflicts (new old : Registered) : Bool :=
  (new.owner.serial != old.owner.serial || new.path != old.path) && (new.write || old.write) && rangesMeet new.range old.range

/-- A context has an access under a phase that has not performed. -/
def Ctx.under (c : Ctx) (id : BitVec 12) : Bool :=
  c.regs.phase == some id || (c.withheld.any fun o => o.phase == some id) || (c.released.any fun o => o.phase == some id) ||
  (c.commands.any fun o => o.phase == some id) || (c.mqueue.any fun o => o.phase == some id)

/-- A phase stays registered until every access and command issued under it has performed or completed (R335). -/
def State.phaseLive (s : State) (r : Registered) : Bool :=
  (match s.findSerial r.owner with
   | some x => (s.ctx x).under r.id
   | none => false) ||
  s.cores.any fun (p : Fin 1792 × Core) =>
    let mine (c : Command) : Bool := c.owner.serial == r.owner.serial && c.phase == some r.id
    (List.finRange 2).any (fun q => (p.2.queue.get q).any mine) || p.2.done.any (fun d => mine d.cmd) ||
    s.fabric.windows.any fun (w : Fin 256 × Window) => mine w.2.cmd

def State.prunePhases (s : State) : State := { s with phases := s.phases.filter fun p => s.phaseLive p.2 }

/-- Phase n of the current context is opened: its entry is read, its ranges checked and registered (R335). -/
def State.openPhase (s : State) (n : BitVec 12) : Except Stop State :=
  let x := s.cur.ctx
  let bad : Except Stop State := .error (.raise .phase { Info.none with detail := n.setWidth 14 })
  let addr := s.cx.reg.phbase.toNat + 64 * n.toNat
  let va : BitVec 56 := BitVec.ofNat 56 addr
  if 2 ^ 56 ≤ addr then raiseAt .xlate va
  else match s.locate .read va 64 with
    | .error e => .error e
    | .ok l =>
      let s := s.passes va l 2
      let (r, s) := s.readAs (s.me x) .l 0 l 64
      let new := entryRanges { ctx := x, serial := s.cx.serial } n r.bytes
      let cl : Fin 28 := ⟨x.core.val / 64, by have := x.core.isLt; omega⟩
      let s := s.prunePhases
      if !(new.all fun r => rangeOk r.range) then bad
      else if new.any fun r => s.phases.any fun p => p.1 == cl && conflicts r p.2 then bad
      else
        let mine (p : Fin 28 × Registered) : Bool := p.2.owner.serial == s.cx.serial && p.2.id == n
        let s := { s with phases := (s.phases.filter fun p => !(mine p)) ++ (new.filter fun (r : Registered) => flag r.range 63).map fun r => (cl, r) }
        .ok (s.modCx fun c => { c with regs := { c.regs with phase := some n }, rephase := false })

/-- A PHASE gate: outside deterministic mode it has no effect; 4095 closes the open phase (R335). -/
def State.phaseAct (s : State) (n : BitVec 12) : Except Stop State :=
  if !s.cx.deterministic then .ok s
  else if n = 4095 then .ok (s.modCx fun c => { c with regs := { c.regs with phase := none }, rephase := false })
  else s.openPhase n

/-- The open phase is registered again before the first bundle after a rollback or a resumption (R335). -/
def State.reopenPhase (s : State) : Except Stop State :=
  match s.cx.rephase, s.cx.regs.phase with
  | true, some n => if s.cx.deterministic then s.openPhase n else .ok s
  | _, _ => .ok s

/-- R30, R335. -/
def execPhase (g : Gate) (n : BitVec 12) (s : State) : Host.Outcome State Fault Refusal :=
  issue (.phase g n) s fun s => s.phaseAct n

/-! ## MARK -/

/-- R30, R341, R466. -/
def execMark (g : Gate) (n : BitVec 12) (s : State) : Host.Outcome State Fault Refusal :=
  issue (.mark g n) s fun s =>
    .ok ((s.traceWord s.cur.ctx (BitVec.ofNat 32 (3 * 2 ^ 28 + n.toNat))).fireShutter (.mark n))

end Sys2Proof.Machine
end

