-- ==== Sys2Proof/Machine/VFrame.lean ====
section
/-! DEFINITION. The frame of the V-slot instructions (R123 to R125): elements and lanes, tags by group, sticky flags of
written lanes in clean groups, and the hold latch (R82). -/

namespace Sys2Proof.Machine

/-! ## Formats -/

/-- The element width of a format (R34, R86). -/
def vwidth (t : VFmt) : Nat :=
  match t with
  | .i8 | .n8 => 8
  | .i16 | .f16 | .bf16 => 16
  | .i32 | .n32 | .f32 => 32

def vsigned (t : VFmt) : Bool :=
  match t with
  | .i8 | .i16 | .i32 => true
  | _ => false

/-- The floating format of a floating type; f32 for the others, where it is not used. -/
def vffmt (t : VFmt) : FFmt :=
  match t with
  | .f16 => .f16
  | .bf16 => .bf16
  | _ => .f32

/-- The value of an integer element (R126). -/
def elemInt (t : VFmt) (x : Nat) : Int := if vsigned t then sext (BitVec.ofNat 32 x) (vwidth t) else (x : Int)

/-- The bounds of an integer format (R86). -/
def elemLo (t : VFmt) : Int := if vsigned t then -(2 ^ (vwidth t - 1)) else 0
def elemHi (t : VFmt) : Int := if vsigned t then 2 ^ (vwidth t - 1) - 1 else 2 ^ vwidth t - 1

/-! ## Elements and lanes -/

/-- A result of one element or lane, with the flags it raises. -/
abbrev Flagged (α : Type) := α × FpFlags

/-- An operation on the elements x of a, y of b and e of the old d, as patterns. -/
abbrev ElemOp := Nat → Nat → Nat → Flagged Nat

/-- An exact integer result, wrapped or, with `sat`, clamped (R126). -/
def intResult (t : VFmt) (sat : Bool) (r : Int) : Flagged Nat :=
  if sat && (decide (r < elemLo t) || decide (elemHi t < r)) then
    ((trunc (clamp r (elemLo t) (elemHi t)) (vwidth t)).toNat, { FpFlags.none with sat := true })
  else ((trunc r (vwidth t)).toNat, FpFlags.none)

/-- The elements of three lanes put together again by an operation. -/
def laneOp (w : Nat) (f : ElemOp) (a b e : BitVec 32) : Flagged (BitVec 32) :=
  let rs := (List.range (32 / w)).map fun j => f (elem a w j).toNat (elem b w j).toNat (elem e w j).toNat
  (BitVec.ofNat 32 (ofElems w (rs.map fun r => BitVec.ofNat w r.1)), rs.foldl (fun fl r => fl.or r.2) FpFlags.none)

/-- Lane i of a register. -/
def VReg.lane (v : VReg) (i : Nat) : BitVec 32 := elem v.val 32 i

/-! ## Tags -/

/-- `maxtag` of several registers' tags, group by group (R83). -/
def joinTags (ts : List Tags) : Tags := Vector.ofFn fun g => maxTags (ts.map (·.get g))

/-- One tag in every group. -/
def evenTags (t : Tag) : Tags := Vector.replicate 8 t

/-- The group of a lane. -/
def laneGroup (i : Nat) : Fin 8 := ⟨i / 16 % 8, Nat.mod_lt _ (by decide)⟩

/-! ## Results -/

/-- The flags of written lanes in clean groups (R95, R125). -/
def laneFlags (lanes : Quad) (tags : Tags) (rs : List (Flagged (BitVec 32))) : FpFlags :=
  (rs.zipIdx).foldl (fun fl p => if flag lanes p.2 && tags.get (laneGroup p.2) == .clean then fl.or p.1.2 else fl) FpFlags.none

/-- Flags are ORed in when their result lands (R95). -/
def State.pushFlags (s : State) (l : Nat) (f : FpFlags) : State :=
  if f = FpFlags.none then s else s.push l (.fp f.bits)

/-- A vector result: the lanes in `lanes` are written, with the tags of what was read. -/
def State.putLanes (s : State) (l : Nat) (d : Fin 64) (lanes : Quad) (tags : Tags) (r : Nat → Flagged (BitVec 32)) : State :=
  let rs := (List.range 128).map fun i => if flag lanes i then r i else (0, FpFlags.none)
  (s.push l (.v d { val := BitVec.ofNat 4096 (ofElems 32 (rs.map (·.1))), tags := tags } lanes)).pushFlags l
    (laneFlags lanes tags rs)

/-- The write mask of a slot. -/
def State.wm (s : State) (k : Fin 4) : MReg := s.readM (maskOf k)

/-- An element-wise result under the write mask, with the write mask's tags joined in (R125). -/
def State.putV (s : State) (l : Nat) (d : Fin 64) (k : Fin 4) (srcs : List Tags) (r : Nat → Flagged (BitVec 32)) : State :=
  s.putLanes l d (s.wm k).val (joinTags (srcs ++ [(s.wm k).tags])) r

/-- H = 1 copies operand b into the slot's latch (R82). -/
def State.latch (s : State) (h : Bool) (b : Fin 64) : State := if h then s.push 1 (.hold s.vIndex (s.readB b)) else s

/-! ## Shared forms -/

/-- An instruction of two vector operands, lane by lane. -/
def vec2 (i : Instr) (l : Nat) (d a b : Fin 64) (k : Fin 4) (h : Bool) (f : BitVec 32 → BitVec 32 → Flagged (BitVec 32)) (s : State) :
    Host.Outcome State Fault Refusal :=
  issue i s fun s =>
    let x := s.readV a
    let y := s.readB b
    .ok ((s.latch h b).putV l d k [x.tags, y.tags] fun i => f (x.lane i) (y.lane i))

/-- One that also reads its old destination. -/
def vec3 (i : Instr) (l : Nat) (d a b : Fin 64) (k : Fin 4) (h : Bool) (f : BitVec 32 → BitVec 32 → BitVec 32 → Flagged (BitVec 32)) (s : State) :
    Host.Outcome State Fault Refusal :=
  issue i s fun s =>
    let x := s.readV a
    let y := s.readB b
    let e := s.readV d
    .ok ((s.latch h b).putV l d k [x.tags, y.tags, e.tags] fun i => f (x.lane i) (y.lane i) (e.lane i))

/-- An instruction of one vector operand. -/
def vec1 (i : Instr) (l : Nat) (d a : Fin 64) (k : Fin 4) (f : BitVec 32 → Flagged (BitVec 32)) (s : State) :
    Host.Outcome State Fault Refusal :=
  issue i s fun s =>
    let x := s.readV a
    .ok (s.putV l d k [x.tags] fun i => f (x.lane i))

/-- A result without flags. -/
def plainLane (x : BitVec 32) : Flagged (BitVec 32) := (x, FpFlags.none)

end Sys2Proof.Machine
end

