-- ==== Sys2Proof/Machine/VArith.lean ====
section
/-! DEFINITION. Vector arithmetic, logic, shifts, bit counts and fields, compares, selection, masks, reduction and moves
(R126 to R136, R139 to R141), and `vqpt` (R158). -/

namespace Sys2Proof.Machine

/-! ## Element operations -/

/-- An arithmetic element operation: by integers, or by the floating format under the context's rounding mode (R94, R126,
R128). -/
def arith (t : VFmt) (sat : Bool) (f : Int → Int → Int → Int) (g : FFmt → Nat → Nat → Nat → Flagged Nat) : ElemOp := fun x y e =>
  if t.integer then intResult t sat (f (elemInt t x) (elemInt t y) (elemInt t e)) else g (vffmt t) x y e

/-- The rounding mode of a V slot (R94, R128). -/
def State.vmode (s : State) : RMode := modeOf s.cx.regs.round

/-- The high half of a product (R126). -/
def mulHiElem (t : VFmt) : ElemOp := fun x y _ =>
  ((trunc (elemInt t x * elemInt t y / 2 ^ vwidth t) (vwidth t)).toNat, FpFlags.none)

/-- Products of the even elements at twice the width (R126). -/
def mulWideLane (t : VFmt) (a b : BitVec 32) : BitVec 32 :=
  let w := vwidth t
  let p (k : Nat) : BitVec (2 * w) := trunc (elemInt t (elem a w (2 * k)).toNat * elemInt t (elem b w (2 * k)).toNat) (2 * w)
  BitVec.ofNat 32 (ofElems (2 * w) ((List.range (16 / w)).map p))

/-- `vmin` and `vmax` (R126, R129). -/
def extremum (t : VFmt) (isMax : Bool) : ElemOp :=
  arith t false (fun x y _ => if isMax then (if x < y then y else x) else (if y < x then y else x))
    fun g x y _ => g.minMax isMax x y

/-- A floating element with its sign cleared or inverted: a NaN gives the canonical one (R129). -/
def signElem (g : FFmt) (f : Bool → Bool) (x : Nat) : Flagged Nat :=
  let v := g.decode x
  if v.isNan then (g.nan, { FpFlags.none with nv := v.isSnan })
  else
    let sb := 2 ^ (g.eb + g.fb)
    ((f (x / sb % 2 == 1)).toNat * sb + x % sb, FpFlags.none)

def absElem (t : VFmt) : ElemOp :=
  arith t false (fun x _ _ => if x < 0 then -x else x) fun g x _ _ => signElem g (fun _ => false) x
def negElem (t : VFmt) : ElemOp := arith t false (fun x _ _ => -x) fun g x _ _ => signElem g not x

/-- Shifts by the element's low log2(w) bits (R127): fmt chooses only the width. -/
def shiftElem (t : VFmt) (f : (w : Nat) → BitVec w → Nat → BitVec w) : ElemOp := fun x y _ =>
  ((f (vwidth t) (BitVec.ofNat (vwidth t) x) (y % vwidth t)).toNat, FpFlags.none)

/-- A count over an element (R134). -/
def countElem (t : VFmt) (f : Nat → Nat → Nat) : ElemOp := fun x _ _ => (f (vwidth t) x, FpFlags.none)

/-! ## Arithmetic (R126, R128, R129) -/

/-- R126, R128. -/
def execVadd (t : VFmt) (d a b : Fin 64) (k : Fin 4) (h : Bool) (s : State) : Host.Outcome State Fault Refusal :=
  vec2 (.vadd t d a b k h) 2 d a b k h (fun x y => laneOp (vwidth t) (arith t false (fun x y _ => x + y) fun g x y _ => g.add s.vmode x y) x y 0) s

/-- R126. -/
def execVaddSat (t : VFmt) (d a b : Fin 64) (k : Fin 4) (h : Bool) (s : State) : Host.Outcome State Fault Refusal :=
  vec2 (.vaddSat t d a b k h) 2 d a b k h (fun x y => laneOp (vwidth t) (arith t true (fun x y _ => x + y) fun g x y _ => g.add s.vmode x y) x y 0) s

/-- R126, R128. -/
def execVsub (t : VFmt) (d a b : Fin 64) (k : Fin 4) (h : Bool) (s : State) : Host.Outcome State Fault Refusal :=
  vec2 (.vsub t d a b k h) 2 d a b k h (fun x y => laneOp (vwidth t) (arith t false (fun x y _ => x - y) fun g x y _ => g.sub s.vmode x y) x y 0) s

/-- R126. -/
def execVsubSat (t : VFmt) (d a b : Fin 64) (k : Fin 4) (h : Bool) (s : State) : Host.Outcome State Fault Refusal :=
  vec2 (.vsubSat t d a b k h) 2 d a b k h (fun x y => laneOp (vwidth t) (arith t true (fun x y _ => x - y) fun g x y _ => g.sub s.vmode x y) x y 0) s

/-- R126, R128. -/
def execVmul (t : VFmt) (d a b : Fin 64) (k : Fin 4) (h : Bool) (s : State) : Host.Outcome State Fault Refusal :=
  vec2 (.vmul t d a b k h) 4 d a b k h (fun x y => laneOp (vwidth t) (arith t false (fun x y _ => x * y) fun g x y _ => g.mul s.vmode x y) x y 0) s

/-- R126. -/
def execVmulHi (t : VFmt) (d a b : Fin 64) (k : Fin 4) (h : Bool) (s : State) : Host.Outcome State Fault Refusal :=
  vec2 (.vmulHi t d a b k h) 4 d a b k h (fun x y => laneOp (vwidth t) (mulHiElem t) x y 0) s

/-- R126. -/
def execVmulWide (t : VFmt) (d a b : Fin 64) (k : Fin 4) (h : Bool) (s : State) : Host.Outcome State Fault Refusal :=
  vec2 (.vmulWide t d a b k h) 4 d a b k h (fun x y => plainLane (mulWideLane t x y)) s

/-- R126, R128. -/
def execVfma (t : VFmt) (d a b : Fin 64) (k : Fin 4) (h : Bool) (s : State) : Host.Outcome State Fault Refusal :=
  vec3 (.vfma t d a b k h) 4 d a b k h
    (fun x y e => laneOp (vwidth t) (arith t false (fun x y e => e + x * y) fun g x y e => g.fma s.vmode x y e) x y e) s

/-- R126, R128. -/
def execVfmaFms (t : VFmt) (d a b : Fin 64) (k : Fin 4) (h : Bool) (s : State) : Host.Outcome State Fault Refusal :=
  vec3 (.vfmaFms t d a b k h) 4 d a b k h
    (fun x y e => laneOp (vwidth t) (arith t false (fun x y e => x * y - e) fun g x y e => g.fms s.vmode x y e) x y e) s

/-- R126, R128. -/
def execVfmaFnma (t : VFmt) (d a b : Fin 64) (k : Fin 4) (h : Bool) (s : State) : Host.Outcome State Fault Refusal :=
  vec3 (.vfmaFnma t d a b k h) 4 d a b k h
    (fun x y e => laneOp (vwidth t) (arith t false (fun x y e => e - x * y) fun g x y e => g.fnma s.vmode x y e) x y e) s

/-- R126, R129. -/
def execVmin (t : VFmt) (d a b : Fin 64) (k : Fin 4) (h : Bool) (s : State) : Host.Outcome State Fault Refusal :=
  vec2 (.vmin t d a b k h) 2 d a b k h (fun x y => laneOp (vwidth t) (extremum t false) x y 0) s

/-- R126, R129. -/
def execVmax (t : VFmt) (d a b : Fin 64) (k : Fin 4) (h : Bool) (s : State) : Host.Outcome State Fault Refusal :=
  vec2 (.vmax t d a b k h) 2 d a b k h (fun x y => laneOp (vwidth t) (extremum t true) x y 0) s

/-- R126, R129. -/
def execVabs (t : VFmt) (d a : Fin 64) (k : Fin 4) (s : State) : Host.Outcome State Fault Refusal :=
  vec1 (.vabs t d a k) 2 d a k (fun x => laneOp (vwidth t) (absElem t) x 0 0) s

/-- R126, R129. -/
def execVneg (t : VFmt) (d a : Fin 64) (k : Fin 4) (s : State) : Host.Outcome State Fault Refusal :=
  vec1 (.vneg t d a k) 2 d a k (fun x => laneOp (vwidth t) (negElem t) x 0 0) s

/-! ## Logic and shifts (R127, R133) -/

/-- R133. -/
def execVlogAnd (t : VFmt) (d a b : Fin 64) (k : Fin 4) (h : Bool) (s : State) : Host.Outcome State Fault Refusal :=
  vec2 (.vlogAnd t d a b k h) 2 d a b k h (fun x y => plainLane (x &&& y)) s

/-- R133. -/
def execVlogOr (t : VFmt) (d a b : Fin 64) (k : Fin 4) (h : Bool) (s : State) : Host.Outcome State Fault Refusal :=
  vec2 (.vlogOr t d a b k h) 2 d a b k h (fun x y => plainLane (x ||| y)) s

/-- R133. -/
def execVlogXor (t : VFmt) (d a b : Fin 64) (k : Fin 4) (h : Bool) (s : State) : Host.Outcome State Fault Refusal :=
  vec2 (.vlogXor t d a b k h) 2 d a b k h (fun x y => plainLane (x ^^^ y)) s

/-- R133. -/
def execVlogAndn (t : VFmt) (d a b : Fin 64) (k : Fin 4) (h : Bool) (s : State) : Host.Outcome State Fault Refusal :=
  vec2 (.vlogAndn t d a b k h) 2 d a b k h (fun x y => plainLane (x &&& ~~~y)) s

/-- R133. -/
def execVlogNot (t : VFmt) (d a : Fin 64) (k : Fin 4) (s : State) : Host.Outcome State Fault Refusal :=
  vec1 (.vlogNot t d a k) 2 d a k (fun x => plainLane (~~~x)) s

/-- R127. -/
def execVshShl (t : VFmt) (d a b : Fin 64) (k : Fin 4) (h : Bool) (s : State) : Host.Outcome State Fault Refusal :=
  vec2 (.vshShl t d a b k h) 2 d a b k h (fun x y => laneOp (vwidth t) (shiftElem t fun _ x n => x <<< n) x y 0) s

/-- R127. -/
def execVshShr (t : VFmt) (d a b : Fin 64) (k : Fin 4) (h : Bool) (s : State) : Host.Outcome State Fault Refusal :=
  vec2 (.vshShr t d a b k h) 2 d a b k h (fun x y => laneOp (vwidth t) (shiftElem t fun _ x n => x >>> n) x y 0) s

/-- R127. -/
def execVshSar (t : VFmt) (d a b : Fin 64) (k : Fin 4) (h : Bool) (s : State) : Host.Outcome State Fault Refusal :=
  vec2 (.vshSar t d a b k h) 2 d a b k h (fun x y => laneOp (vwidth t) (shiftElem t fun _ x n => x.sshiftRight n) x y 0) s

/-! ## Compares (R130) -/

/-- What a condition needs of a floating compare: the answer, and whether a quiet NaN is invalid. -/
structure Cond where
  int    : Int → Int → Bool
  flt    : FVal → FVal → Bool
  strict : Bool

def condEq : Cond := { int := fun x y => x == y, flt := eqVal, strict := false }
def condNe : Cond := { int := fun x y => x != y, flt := fun x y => !(eqVal x y), strict := false }
def condLt : Cond := { int := fun x y => decide (x < y), flt := fun x y => ltVal false x y, strict := true }
def condLe : Cond := {
  int := fun x y => decide (x ≤ y), flt := fun x y => ltVal false x y || eqVal x y, strict := true }
def condGt : Cond := { int := fun x y => decide (y < x), flt := fun x y => ltVal false y x, strict := true }
def condGe : Cond := {
  int := fun x y => decide (y ≤ x), flt := fun x y => ltVal false y x || eqVal x y, strict := true }
def condUo : Cond := { int := fun _ _ => false, flt := fun x y => x.isNan || y.isNan, strict := false }

/-- A condition on two elements. -/
def Cond.elem (c : Cond) (t : VFmt) (x y : Nat) : Flagged Bool :=
  if t.integer then (c.int (elemInt t x) (elemInt t y), FpFlags.none)
  else
    let a := (vffmt t).decode x
    let b := (vffmt t).decode y
    let nv := if c.strict then a.isNan || b.isNan else a.isSnan || b.isSnan
    (c.flt a b, { FpFlags.none with nv := nv })

/-- A condition holds for every element of a lane. -/
def Cond.lane (c : Cond) (t : VFmt) (a b : BitVec 32) : Flagged Bool :=
  let w := vwidth t
  let rs := (List.range (32 / w)).map fun j => c.elem t (Machine.elem a w j).toNat (Machine.elem b w j).toNat
  (rs.all (·.1), rs.foldl (fun fl r => fl.or r.2) FpFlags.none)

/-- A compare writes the mask bits of written lanes (R130); one aimed at `m0` writes nothing and raises no flag (R66). -/
def vecCmp (i : Instr) (c : Cond) (t : VFmt) (m : Fin 16) (a b : Fin 64) (k : Fin 4) (h : Bool) (s : State) : Host.Outcome State Fault Refusal :=
  issue i s fun s =>
    let x := s.readV a
    let y := s.readB b
    let wm := s.wm k
    let tags := joinTags [x.tags, y.tags, wm.tags]
    let rs := (List.range 128).map fun i => if flag wm.val i then c.lane t (x.lane i) (y.lane i) else (false, FpFlags.none)
    let out : Quad := BitVec.ofNat 128 (ofElems 1 (rs.map fun r => BitVec.ofBool r.1))
    let s := s.latch h b
    .ok (if m = 0 then s
      else (s.pushM 2 m { val := out, tags := tags } wm.val).pushFlags 2 (laneFlags wm.val tags (rs.map fun r => (0, r.2))))

/-- R130. -/
def execVcmpEq (t : VFmt) (m : Fin 16) (a b : Fin 64) (k : Fin 4) (h : Bool) (s : State) : Host.Outcome State Fault Refusal :=
  vecCmp (.vcmpEq t m a b k h) condEq t m a b k h s

/-- R130. -/
def execVcmpNe (t : VFmt) (m : Fin 16) (a b : Fin 64) (k : Fin 4) (h : Bool) (s : State) : Host.Outcome State Fault Refusal :=
  vecCmp (.vcmpNe t m a b k h) condNe t m a b k h s

/-- R130. -/
def execVcmpLt (t : VFmt) (m : Fin 16) (a b : Fin 64) (k : Fin 4) (h : Bool) (s : State) : Host.Outcome State Fault Refusal :=
  vecCmp (.vcmpLt t m a b k h) condLt t m a b k h s

/-- R130. -/
def execVcmpLe (t : VFmt) (m : Fin 16) (a b : Fin 64) (k : Fin 4) (h : Bool) (s : State) : Host.Outcome State Fault Refusal :=
  vecCmp (.vcmpLe t m a b k h) condLe t m a b k h s

/-- R130. -/
def execVcmpGt (t : VFmt) (m : Fin 16) (a b : Fin 64) (k : Fin 4) (h : Bool) (s : State) : Host.Outcome State Fault Refusal :=
  vecCmp (.vcmpGt t m a b k h) condGt t m a b k h s

/-- R130. -/
def execVcmpGe (t : VFmt) (m : Fin 16) (a b : Fin 64) (k : Fin 4) (h : Bool) (s : State) : Host.Outcome State Fault Refusal :=
  vecCmp (.vcmpGe t m a b k h) condGe t m a b k h s

/-- R130. -/
def execVcmpUo (t : VFmt) (m : Fin 16) (a b : Fin 64) (k : Fin 4) (h : Bool) (s : State) : Host.Outcome State Fault Refusal :=
  vecCmp (.vcmpUo t m a b k h) condUo t m a b k h s

/-! ## Selection and masks (R131, R132) -/

/-- R131: the selecting mask is named by the function code. -/
def execVsel (t : VFmt) (d a b : Fin 64) (k : Fin 4) (h : Bool) (m : Fin 8) (s : State) : Host.Outcome State Fault Refusal :=
  issue (.vsel t d a b k h m) s fun s =>
    let x := s.readV a
    let y := s.readB b
    let ms := s.readM (m.castLE (by decide))
    .ok ((s.latch h b).putV 2 d k [x.tags, y.tags, ms.tags] fun i => plainLane (if flag ms.val i then x.lane i else y.lane i))

/-- A combination of masks, bit by bit under the write mask (R132). -/
def maskOp (i : Instr) (d a b : Fin 16) (k : Fin 4) (two : Bool) (f : Quad → Quad → Quad) (s : State) : Host.Outcome State Fault Refusal :=
  issue i s fun s =>
    let x := s.readM a
    let y := s.readM b
    let tags := joinTags ([x.tags, (s.wm k).tags] ++ if two then [y.tags] else [])
    .ok (s.pushM 2 d { val := f x.val y.val, tags := tags } (s.wm k).val)

/-- R132. -/
def execVmaskAnd (d a b : Fin 16) (k : Fin 4) (s : State) : Host.Outcome State Fault Refusal :=
  maskOp (.vmaskAnd d a b k) d a b k true (fun x y => x &&& y) s

/-- R132. -/
def execVmaskOr (d a b : Fin 16) (k : Fin 4) (s : State) : Host.Outcome State Fault Refusal :=
  maskOp (.vmaskOr d a b k) d a b k true (fun x y => x ||| y) s

/-- R132. -/
def execVmaskXor (d a b : Fin 16) (k : Fin 4) (s : State) : Host.Outcome State Fault Refusal :=
  maskOp (.vmaskXor d a b k) d a b k true (fun x y => x ^^^ y) s

/-- R132. -/
def execVmaskAndn (d a b : Fin 16) (k : Fin 4) (s : State) : Host.Outcome State Fault Refusal :=
  maskOp (.vmaskAndn d a b k) d a b k true (fun x y => x &&& ~~~y) s

/-- R132. -/
def execVmaskNot (d a : Fin 16) (k : Fin 4) (s : State) : Host.Outcome State Fault Refusal :=
  maskOp (.vmaskNot d a k) d a a k false (fun x _ => ~~~x) s

/-- R132. -/
def execVmaskMov (d a : Fin 16) (k : Fin 4) (s : State) : Host.Outcome State Fault Refusal :=
  maskOp (.vmaskMov d a k) d a a k false (fun x _ => x) s

/-! ## Bit counts and fields (R134 to R136) -/

/-- R134. -/
def execVbitClz (t : VFmt) (d a : Fin 64) (k : Fin 4) (s : State) : Host.Outcome State Fault Refusal :=
  vec1 (.vbitClz t d a k) 2 d a k (fun x => laneOp (vwidth t) (countElem t leadingZeros) x 0 0) s

/-- R134. -/
def execVbitCtz (t : VFmt) (d a : Fin 64) (k : Fin 4) (s : State) : Host.Outcome State Fault Refusal :=
  vec1 (.vbitCtz t d a k) 2 d a k (fun x => laneOp (vwidth t) (countElem t trailingZeros) x 0 0) s

/-- R134. -/
def execVbitFfs (t : VFmt) (d a : Fin 64) (k : Fin 4) (s : State) : Host.Outcome State Fault Refusal :=
  vec1 (.vbitFfs t d a k) 2 d a k (fun x => laneOp (vwidth t) (countElem t firstSet) x 0 0) s

/-- R134. -/
def execVbitPopc (t : VFmt) (d a : Fin 64) (k : Fin 4) (s : State) : Host.Outcome State Fault Refusal :=
  vec1 (.vbitPopc t d a k) 2 d a k (fun x => laneOp (vwidth t) (countElem t popCount) x 0 0) s

/-- The field of a lane that b names: position b[4:0], length b[9:5] + 1; bits above 31 read as zero (R135). -/
def laneField (x y : BitVec 32) : Nat × Nat := (x.toNat / 2 ^ bits y 0 5 % 2 ^ (bits y 5 5 + 1), bits y 5 5 + 1)

/-- R135. -/
def execVbfxN32 (d a b : Fin 64) (k : Fin 4) (h : Bool) (s : State) : Host.Outcome State Fault Refusal :=
  vec2 (.vbfxN32 d a b k h) 2 d a b k h (fun x y => plainLane (BitVec.ofNat 32 (laneField x y).1)) s

/-- R135. -/
def execVbfxI32 (d a b : Fin 64) (k : Fin 4) (h : Bool) (s : State) : Host.Outcome State Fault Refusal :=
  vec2 (.vbfxI32 d a b k h) 2 d a b k h
    (fun x y => plainLane (trunc (sext (BitVec.ofNat 32 (laneField x y).1) (laneField x y).2) 32)) s

/-- R136. -/
def execVfshLeft (t : VFmt) (d a b : Fin 64) (k : Fin 4) (h : Bool) (s : State) : Host.Outcome State Fault Refusal :=
  vec3 (.vfshLeft t d a b k h) 2 d a b k h
    (fun x y e => plainLane (BitVec.ofNat 32 ((e.toNat * 2 ^ 32 + x.toNat) * 2 ^ bits y 0 5 / 2 ^ 32))) s

/-- R136. -/
def execVfshRight (t : VFmt) (d a b : Fin 64) (k : Fin 4) (h : Bool) (s : State) : Host.Outcome State Fault Refusal :=
  vec3 (.vfshRight t d a b k h) 2 d a b k h
    (fun x y e => plainLane (BitVec.ofNat 32 ((e.toNat * 2 ^ 32 + x.toNat) / 2 ^ bits y 0 5))) s

/-! ## Reduction (R139) -/

/-- Neighbours of a list combined. -/
def pairUp (f : Nat → Nat → Flagged Nat) (l : List (Flagged Nat)) : List (Flagged Nat) :=
  match l with
  | x :: y :: l => let r := f x.1 y.1; (r.1, (x.2.or y.2).or r.2) :: pairUp f l
  | l => l

/-- The tree over the 16 lanes of a group: four levels of neighbours. -/
def reduceGroup (f : Nat → Nat → Flagged Nat) (a : VReg) (g : Nat) : Flagged (BitVec 32) :=
  let xs := (List.range 16).map fun j => ((a.lane (16 * g + j)).toNat, FpFlags.none)
  let r := (pairUp f (pairUp f (pairUp f (pairUp f xs)))).headD (0, FpFlags.none)
  (BitVec.ofNat 32 r.1, r.2)

/-- The first lane of each group. -/
def firstLanes : Quad := BitVec.ofNat 128 (ofElems 16 (List.replicate 8 (1 : BitVec 16)))

/-- A reduction writes lane 16g of each group whose lane 16g is written; its tag joins the group's old one (DEDUCED,
notes/assumptions/85.md). -/
def vecRed (i : Instr) (d a : Fin 64) (k : Fin 4) (f : Nat → Nat → Flagged Nat) (s : State) : Host.Outcome State Fault Refusal :=
  issue i s fun s =>
    let x := s.readV a
    let wm := s.wm k
    .ok (s.putLanes 4 d (wm.val &&& firstLanes) (joinTags [x.tags, wm.tags]) fun i => reduceGroup f x (i / 16))

/-- R139. -/
def execVredAdd (t : VFmt) (d a : Fin 64) (k : Fin 4) (s : State) : Host.Outcome State Fault Refusal :=
  vecRed (.vredAdd t d a k) d a k (fun x y => arith t false (fun x y _ => x + y) (fun g x y _ => g.add s.vmode x y) x y 0) s

/-- R139. -/
def execVredMax (t : VFmt) (d a : Fin 64) (k : Fin 4) (s : State) : Host.Outcome State Fault Refusal :=
  vecRed (.vredMax t d a k) d a k (fun x y => extremum t true x y 0) s

/-- R139. -/
def execVredMin (t : VFmt) (d a : Fin 64) (k : Fin 4) (s : State) : Host.Outcome State Fault Refusal :=
  vecRed (.vredMin t d a k) d a k (fun x y => extremum t false x y 0) s

/-! ## Moves (R140, R141) -/

/-- R140. -/
def execVshuf (t : VFmt) (d a b : Fin 64) (k : Fin 4) (h : Bool) (s : State) : Host.Outcome State Fault Refusal :=
  issue (.vshuf t d a b k h) s fun s =>
    let x := s.readV a
    let y := s.readB b
    .ok ((s.latch h b).putV 2 d k [x.tags, y.tags] fun i => plainLane (x.lane (i / 16 * 16 + bits (y.lane i) 0 4)))

/-- R140. -/
def execVrot (t : VFmt) (d a b : Fin 64) (k : Fin 4) (h : Bool) (s : State) : Host.Outcome State Fault Refusal :=
  issue (.vrot t d a b k h) s fun s =>
    let x := s.readV a
    let y := s.readB b
    .ok ((s.latch h b).putV 2 d k [x.tags, y.tags] fun i =>
      plainLane (x.lane (i / 16 * 16 + (i % 16 + 16 - bits (y.lane i) 0 4) % 16)))

/-- The groups of a that the written lanes of a group read (R140). -/
def crossTag (x y : VReg) (wm : Quad) (g : Fin 8) : Tag :=
  maxTags ((List.range 16).map fun j =>
    let i := 16 * g.val + j
    if flag wm i then x.tags.get (laneGroup (bits (y.lane i) 0 7)) else .clean)

/-- R140. -/
def execVxg (t : VFmt) (d a b : Fin 64) (k : Fin 4) (h : Bool) (s : State) : Host.Outcome State Fault Refusal :=
  issue (.vxg t d a b k h) s fun s =>
    let x := s.readV a
    let y := s.readB b
    .ok ((s.latch h b).putV 4 d k [Vector.ofFn (crossTag x y (s.wm k).val), y.tags] fun i => plainLane (x.lane (bits (y.lane i) 0 7)))

/-- R141: a scalar in every element of every written lane. -/
def execVbcast (t : VFmt) (d a : Fin 64) (k : Fin 4) (s : State) : Host.Outcome State Fault Refusal :=
  issue (.vbcast t d a k) s fun s =>
    let x := s.readS a
    let w := vwidth t
    let lane : BitVec 32 := BitVec.ofNat 32 (ofElems w (List.replicate (32 / w) (x.val.setWidth w)))
    .ok (s.putV 2 d k [evenTags x.tag] fun _ => plainLane lane)

/-- R141: one element into a scalar register. -/
def execVext (t : VFmt) (d a b : Fin 64) (s : State) : Host.Outcome State Fault Refusal :=
  issue (.vext t d a b) s fun s =>
    let x := s.readV a
    let y := s.readS b
    let w := vwidth t
    let e := y.val.toNat % (4096 / w)
    let v : BitVec 64 := (elem x.val w e).setWidth 64
    .ok (s.pushS 3 d (if vsigned t then trunc (sext v w) 64 else v) (maxTag (x.tags.get (laneGroup (e * w / 32))) y.tag))

/-- R141. -/
def execVmov (t : VFmt) (d a : Fin 64) (k : Fin 4) (s : State) : Host.Outcome State Fault Refusal :=
  vec1 (.vmov t d a k) 2 d a k (fun x => plainLane x) s

/-! ## Points (R158) -/

/-- R158: the point of index base + a.lane[i] in every written lane. -/
def execVqpt (t : VFmt) (d a b : Fin 64) (k : Fin 4) (s : State) : Host.Outcome State Fault Refusal :=
  issue (.vqpt t d a b k) s fun s =>
    let x := s.readV a
    let y := s.readS b
    let r := s.cx.regs.dim (bits y.val 0 6)
    .ok (s.putV 8 d k [x.tags, evenTags y.tag] fun i => plainLane (pointForm (t == .f32) (qpoint r (field y.val 32 32 + x.lane i))))

end Sys2Proof.Machine
end

