-- ==== Sys2Proof/Machine/VSpec.lean ====
section
/-! DEFINITION. The special functions of `vspec` (R137, R138). Where the rules leave the last bits open within a bound, the
result is the constant `Config.vspecRaw` if it lies within the bound, and the correctly rounded value otherwise. -/

namespace Sys2Proof.Machine

/-! ## Values close to the exact ones -/

/-- floor(ln 2 · 2^96). -/
def ln2 : Nat := 54916777467707473351141471128

/-- The terms of exp from one on, each from the one before, in units of 2^-96. -/
def expSum (t term sum k fuel : Nat) : Nat :=
  match fuel with
  | 0 => sum
  | f + 1 => let next := term * t / 2 ^ 96 / k; expSum t next (sum + next) (k + 1) f

/-- 2^(f / 2^64) in units of 2^-96, for f below 2^64. -/
def expFrac (f : Nat) : Nat := expSum (f * ln2 / 2 ^ 64) (2 ^ 96) (2 ^ 96) 1 30

/-- The bits of log2 of m / 2^96, a number in [1, 2), from the highest down. -/
def logBits (m acc fuel : Nat) : Nat :=
  match fuel with
  | 0 => acc
  | f + 1 =>
    let q := m * m / 2 ^ 96
    if 2 ^ 97 ≤ q then logBits (q / 2) (2 * acc + 1) f else logBits q (2 * acc) f

/-- The integer square root, from bit b down. -/
def isqrt (n r b : Nat) : Nat :=
  match b with
  | 0 => if (r + 1) * (r + 1) ≤ n then r + 1 else r
  | b + 1 => isqrt n (if (r + 2 ^ (b + 1)) * (r + 2 ^ (b + 1)) ≤ n then r + 2 ^ (b + 1) else r) b

/-- A magnitude with an even exponent. -/
def evenExp (n : Nat) (e : Int) : Nat × Int := if e % 2 = 0 then (n, e) else (2 * n, e - 1)

def isPow2 (n : Nat) : Bool := n != 0 && n == 2 ^ Nat.log2 n

/-! ## Delivery -/

def f32One : Nat := 0x3F800000
def f32Inf (neg : Bool) : Nat := neg.toNat * 2 ^ 31 + 0x7F800000
def f32Zero (neg : Bool) : Nat := neg.toNat * 2 ^ 31
def nxFlag : FpFlags := { FpFlags.none with nx := true }
def nvFlag : FpFlags := { FpFlags.none with nv := true }
def dzFlag : FpFlags := { FpFlags.none with dz := true }
def flushed (neg : Bool) : Flagged Nat := (f32Zero neg, { FpFlags.none with uf := true, nx := true })
def overflowed (neg : Bool) : Flagged Nat := (f32Inf neg, { FpFlags.none with of := true, nx := true })

/-- A pattern lies within one unit in the last place of every magnitude less than w from n in n's binade, where the exact one
lies; with `abs24` within 2^-24 if that is more (R137). -/
def withinBound (abs24 neg : Bool) (n w : Nat) (e : Int) (p : Nat) : Bool :=
  match FFmt.f32.decode p with
  | .num s pn pe =>
    let ulp := msb n e - 23
    let bound := if abs24 then max ulp (-24) else ulp
    let g := min (min e pe) bound
    let far (n : Nat) : Nat := (signed s (pn * 2 ^ (pe - g).toNat) - signed neg (n * 2 ^ (e - g).toNat)).natAbs
    decide (far (max (n - w) (2 ^ Nat.log2 n)) ≤ 2 ^ (bound - g).toNat) &&
    decide (far (min (n + w) (2 ^ (Nat.log2 n + 1))) ≤ 2 ^ (bound - g).toNat)
  | _ => false

/-- A result that is no exact value, known to within w: nx, and zero for one below the normal range (R137). -/
def nearResult (fn : Nat) (x : BitVec 32) (abs24 neg : Bool) (n w : Nat) (e : Int) : Flagged Nat :=
  let r := FFmt.f32.round .rne neg n e
  if r.2.of then overflowed neg
  else
    let raw := (Config.vspecRaw fn x).toNat
    let p := if withinBound abs24 neg n w e raw then raw else r.1
    if decide (msb n e < -126) || p / 2 ^ 23 % 2 ^ 8 == 0 then flushed neg else (p, nxFlag)

/-- An exact result. -/
def exactResult (neg : Bool) (n : Nat) (e : Int) : Flagged Nat := ((FFmt.f32.round .rne neg n e).1, FpFlags.none)

/-! ## Functions -/

/-- A NaN input of any function. -/
def specNan (s : Bool) : Flagged Nat := (FFmt.f32.nan, { FpFlags.none with nv := s })

def specExp2 (x : BitVec 32) : Flagged Nat :=
  match FFmt.f32.decode x.toNat with
  | .nan s => specNan s
  | .inf neg => (if neg then 0 else f32Inf false, FpFlags.none)
  | .num neg n e =>
    let v : Int := if 0 ≤ e + 64 then signed neg (n * 2 ^ (e + 64).toNat) else signed neg n / 2 ^ (-(e + 64)).toNat
    if n = 0 then (f32One, FpFlags.none)
    else if msb n e < -126 then (f32One, nxFlag)
    else if 128 * 2 ^ 64 ≤ v then overflowed false
    else if v < -(126 * 2 ^ 64) then flushed false
    else if decide (0 ≤ e) || n % 2 ^ (-e).toNat == 0 then exactResult false 1 (v / 2 ^ 64)
    else nearResult 0 x false false (expFrac (v % 2 ^ 64).toNat) (2 ^ 34) (v / 2 ^ 64 - 96)

def specLog2 (x : BitVec 32) : Flagged Nat :=
  match FFmt.f32.decode x.toNat with
  | .nan s => specNan s
  | .inf neg => if neg then (FFmt.f32.nan, nvFlag) else (f32Inf false, FpFlags.none)
  | .num neg n e =>
    if n = 0 then (f32Inf true, dzFlag)
    else if neg then (FFmt.f32.nan, nvFlag)
    else
      let k := msb n e
      if k = 0 ∧ isPow2 n then flushed false
      else if isPow2 n then exactResult (decide (k < 0)) k.natAbs 0
      else
        let v : Int := k * 2 ^ 64 + logBits (n * 2 ^ (96 - Nat.log2 n)) 0 64
        nearResult 1 x true (decide (v < 0)) v.natAbs 4 (-64)

def specRcp (x : BitVec 32) : Flagged Nat :=
  match FFmt.f32.decode x.toNat with
  | .nan s => specNan s
  | .inf neg => (f32Zero neg, FpFlags.none)
  | .num neg n e =>
    if n = 0 then (f32Inf neg, dzFlag)
    else if isPow2 n then
      let k := -(msb n e)
      if k < -126 then flushed neg else if 127 < k then overflowed neg else exactResult neg 1 k
    else nearResult 2 x false neg (2 ^ 128 / n) 2 (-128 - e)

def specRsqrt (x : BitVec 32) : Flagged Nat :=
  match FFmt.f32.decode x.toNat with
  | .nan s => specNan s
  | .inf neg => if neg then (FFmt.f32.nan, nvFlag) else (0, FpFlags.none)
  | .num neg n e =>
    if n = 0 then (f32Inf neg, dzFlag)
    else if neg then (FFmt.f32.nan, nvFlag)
    else
      let (m, g) := evenExp n e
      if isPow2 m && Nat.log2 m % 2 == 0 then exactResult false 1 (-(msb m g / 2))
      else nearResult 3 x false false (isqrt (2 ^ 200 / m) 0 100) 4 (-100 - g / 2)

def specSqrt (x : BitVec 32) : Flagged Nat :=
  match FFmt.f32.decode x.toNat with
  | .nan s => specNan s
  | .inf neg => if neg then (FFmt.f32.nan, nvFlag) else (f32Inf false, FpFlags.none)
  | .num neg n e =>
    if n = 0 then (f32Zero neg, FpFlags.none)
    else if neg then (FFmt.f32.nan, nvFlag)
    else
      let (m, g) := evenExp n e
      let q := isqrt (m * 2 ^ 80) 0 60
      let sticky := if q * q = m * 2 ^ 80 then 0 else 1
      FFmt.f32.round .rne false (2 * q + sticky) (g / 2 - 41)

/-- A special function of every written lane. -/
def vecSpec (i : Instr) (d a : Fin 64) (k : Fin 4) (f : BitVec 32 → Flagged Nat) (s : State) : Host.Outcome State Fault Refusal :=
  vec1 i 8 d a k (fun x => (BitVec.ofNat 32 (f x).1, (f x).2)) s

/-- R137, R138. -/
def execVspecExp2 (d a : Fin 64) (k : Fin 4) (s : State) : Host.Outcome State Fault Refusal :=
  vecSpec (.vspecExp2 d a k) d a k specExp2 s

/-- R137, R138. -/
def execVspecLog2 (d a : Fin 64) (k : Fin 4) (s : State) : Host.Outcome State Fault Refusal :=
  vecSpec (.vspecLog2 d a k) d a k specLog2 s

/-- R137, R138. -/
def execVspecRcp (d a : Fin 64) (k : Fin 4) (s : State) : Host.Outcome State Fault Refusal :=
  vecSpec (.vspecRcp d a k) d a k specRcp s

/-- R137, R138. -/
def execVspecRsqrt (d a : Fin 64) (k : Fin 4) (s : State) : Host.Outcome State Fault Refusal :=
  vecSpec (.vspecRsqrt d a k) d a k specRsqrt s

/-- R137, R138. -/
def execVspecSqrt (d a : Fin 64) (k : Fin 4) (s : State) : Host.Outcome State Fault Refusal :=
  vecSpec (.vspecSqrt d a k) d a k specSqrt s

end Sys2Proof.Machine
end

