-- ==== Sys2Proof/Machine/VMem.lean ====
section
/-! DEFINITION. The V slot's memory access: `vld`, `vst`, `vgath`, `vscat` (R142 to R144) and `vamo` (R234, R235). -/

namespace Sys2Proof.Machine

/-! ## Addresses and checks (R142) -/

/-- Translation of spans, in order, with no other check. -/
def State.translatePieces (s : State) (a : Acc) (l : List (BitVec 56 × Nat)) : Except Stop (List Piece) :=
  match l with
  | [] => .ok []
  | (va, n) :: l =>
    let x := s.cur.ctx
    match s.xlate x s.cx.reg.ptroot s.supervisor a va with
    | .error e => .error e
    | .ok loc => match s.translatePieces a l with
      | .error e => .error (e.lookedUp [va])
      | .ok ps => .ok ({ va := va, loc := loc, len := n } :: ps)

/-- The lanes written under a mask. -/
def writtenLanes (m : Quad) : List Nat := (List.range 128).filter fun i => flag m i

/-- A piece is within a scratchpad share of the cluster (R142). -/
def State.inScratch (s : State) (a : Acc) (p : Piece) : Bool :=
  classOf s.cur.core p.loc.pa.toNat == .scratch && !(s.refusesHere s.cur.core p.va p.loc p.len a .vector s.supervisor)

/-- The piece of a lane inside the pieces of a span. -/
def pieceAt (ps : List Piece) (va : BitVec 56) : Option Piece :=
  (ps.find? fun p => decide ((va - p.va).toNat < p.len)).map fun p =>
    { va := va, loc := p.loc.add (va - p.va).toNat, len := 4 }

/-- The phase checks of lanes (R335). -/
def State.phaseLanes (s : State) (a : Acc) (l : List Piece) : Except Stop Unit :=
  match l with
  | [] => .ok ()
  | p :: l => match s.phaseCheck .l a p.va p.loc p.len with
    | .error e => .error e
    | .ok _ => s.phaseLanes a l

/-- The first of some pieces that fails a check raises its cause. -/
def raisePiece (l : List Piece) (ok : Piece → Bool) (c : Cause) : Except Stop Unit :=
  match l.find? fun p => !(ok p) with
  | some p => raiseAt c p.va
  | none => .ok ()

/-- A check that follows the translation of some pieces. -/
def afterPieces {α : Type} (ps : List Piece) (r : Except Stop α) : Except Stop α :=
  match r with
  | .error e => .error (e.lookedUp (ps.map (·.va)))
  | .ok v => .ok v

/-- The lanes of `vld` and `vst`: translation of the 512 bytes, alignment, range, then the phase of the written lanes. -/
def State.reachRow (s : State) (a : Acc) (addr : Word) (m : Quad) : Except Stop (List (Nat × Piece)) :=
  let va : BitVec 56 := field addr 0 56
  if 2 ^ 56 ≤ addr.toNat then raiseAt .xlate va
  else match s.translatePieces a (pagePieces va 512 2) with
    | .error e => .error e
    | .ok ps => afterPieces ps
      (if addr.toNat % 4 ≠ 0 then raiseAt .align va
      else match raisePiece ps (s.inScratch a) .prot with
        | .error e => .error e
        | .ok _ =>
          let lanes := (writtenLanes m).filterMap fun i => (pieceAt ps (va + BitVec.ofNat 56 (4 * i))).map (i, ·)
          match s.phaseLanes a (lanes.map (·.2)) with
          | .error e => .error e
          | .ok _ => .ok lanes)

/-- The lanes of a gather or scatter at their addresses: `ok` is the range check of the form. The lowest of the lanes that fail
is recorded, an address past 2^56 first (DESIGN CHOICE, notes/assumptions/86.md). -/
def State.reachLanes (s : State) (a : Acc) (l : List (Nat × Word)) (ok : Piece → Bool) : Except Stop (List (Nat × Piece)) :=
  match l.find? fun p => decide (2 ^ 56 ≤ p.2.toNat) with
  | some p => raiseAt .xlate (field p.2 0 56)
  | none => match s.translatePieces a (l.map fun p => (field p.2 0 56, 4)) with
    | .error e => .error e
    | .ok ps => afterPieces ps
      (match raisePiece ps (fun p => p.va.toNat % 4 == 0) .align with
      | .error e => .error e
      | .ok _ => match raisePiece ps ok .prot with
        | .error e => .error e
        | .ok _ => match s.phaseLanes a ps with
          | .error e => .error e
          | .ok _ => .ok ((l.map (·.1)).zip ps))

/-- The class of `%vcls` (R39). -/
def State.vclass (s : State) : Fin 16 := ⟨bits s.cx.regs.vcls 0 4, Nat.mod_lt _ (by decide)⟩

/-! ## Loads -/

/-- The lanes are read one by one, each a single-copy atomic read (R142). -/
def State.readLanes (s : State) (l : List (Nat × Piece)) : List (Nat × ReadOut) × State :=
  match l with
  | [] => ([], s)
  | (i, p) :: l =>
    let (r, s) := (s.touch s.cur.ctx s.cx.reg.ptroot p.va).readAs (s.me s.cur.ctx) .l s.vclass p.loc 4
    let (rs, s) := s.readLanes l
    ((i, r) :: rs, s)

/-- The loaded lanes with the lost tags of the sectors they read (R143). -/
def loadedLanes (rs : List (Nat × ReadOut)) (mask : Tags) : VReg :=
  { val := BitVec.ofNat 4096 (ofElems 32 ((List.range 128).map fun i =>
      match rs.find? fun r => r.1 == i with
      | some r => BitVec.ofNat 32 (ofBytes r.2.bytes)
      | none => 0))
    tags := joinTags [Vector.ofFn fun (g : Fin 8) => lostTag (rs.any fun r => r.1 / 16 == g.val && r.2.lost), mask] }

/-- A loaded vector lands at its latency, if its lanes have arrived by then (R143, R226). -/
def State.landLanes (s : State) (n : Nat) (d : Fin 64) (m : Quad) (v : VReg) : State :=
  s.enter { left := n, landing := .v d v m, arrived := false, rld := false, peer := none }

def State.loadLanes (s : State) (n : Nat) (d : Fin 64) (k : Fin 4) (l : List (Nat × Piece)) : State :=
  let (rs, t) := s.readLanes l
  t.landLanes n d (s.wm k).val (loadedLanes rs (s.wm k).tags)

/-- The address of lane 0 of `vld` and `vst`: the sum is taken modulo 2^64, which R142 leaves open (DESIGN CHOICE,
notes/assumptions/109.md). -/
def State.rowAddr (s : State) (a b : Fin 64) : Word := (s.readS a).val + BitVec.ofNat 64 (512 * b.val)

/-- R142, R143: b is the offset divided by 512. -/
def execVld (t : VFmt) (d a b : Fin 64) (k : Fin 4) (s : State) : Host.Outcome State Fault Refusal :=
  issue (.vld t d a b k) s fun s =>
    match s.reachRow .read (s.rowAddr a b) (s.wm k).val with
    | .error e => .error e
    | .ok l => .ok (s.loadLanes 5 d k l)

/-- The addresses of written lanes: base plus offset (R142), modulo 2^64 (DESIGN CHOICE, notes/assumptions/109.md). -/
def State.laneAddrs (s : State) (a b : Fin 64) (k : Fin 4) : List (Nat × Word) :=
  (writtenLanes (s.wm k).val).map fun i => (i, (s.readS b).val + ((s.readV a).lane i).setWidth 64)

/-- R142, R143. -/
def execVgath (t : VFmt) (d a b : Fin 64) (k : Fin 4) (s : State) : Host.Outcome State Fault Refusal :=
  issue (.vgath t d a b k) s fun s =>
    match s.reachLanes .read (s.laneAddrs a b k) (s.inScratch .read) with
    | .error e => .error e
    | .ok l => .ok (s.loadLanes 7 d k l)

/-! ## Stores -/

/-- The written lanes of a register as the lanes of a store, ascending. -/
def storeLanes (v : VReg) (l : List (Nat × Piece)) : List Lane :=
  l.map fun p => { va := p.2.va, loc := p.2.loc, bytes := bytesOf 4 (v.lane p.1).toNat, lost := v.tags.get (laneGroup p.1) == .lost }

def State.storeLanesAct (s : State) (kind : StoreKind) (d : Fin 64) (l : List (Nat × Piece)) : State :=
  (s.touchAll (l.map (·.2.va))).withhold kind (storeLanes (s.readV d) l) s.vclass .l

/-- R142, R144. -/
def execVst (t : VFmt) (d a b : Fin 64) (k : Fin 4) (s : State) : Host.Outcome State Fault Refusal :=
  issue (.vst t d a b k) s fun s =>
    match s.reachRow .write (s.rowAddr a b) (s.wm k).val with
    | .error e => .error e
    | .ok l => .ok (s.storeLanesAct .plain d l)

/-- R142, R144. -/
def execVscat (t : VFmt) (d a b : Fin 64) (k : Fin 4) (s : State) : Host.Outcome State Fault Refusal :=
  issue (.vscat t d a b k) s fun s =>
    match s.reachLanes .write (s.laneAddrs a b k) (s.inScratch .write) with
    | .error e => .error e
    | .ok l => .ok (s.storeLanesAct .plain d l)

/-! ## Memory-side atomics (R234 to R236) -/

/-- The address of a lane: 56 bits of base plus offset. -/
def State.amoAddrs (s : State) (a b : Fin 64) (k : Fin 4) : List (Nat × Word) :=
  (writtenLanes (s.wm k).val).map fun i =>
    (i, (field ((s.readS b).val + ((s.readV a).lane i).setWidth 64) 0 56 : BitVec 56).setWidth 64)

/-- The scratchpad and the cacheable class are reached (R234). -/
def State.inVamo (s : State) (p : Piece) : Bool := !(isWindow p.loc.pa.toNat) || s.inScratch .atomic p

/-- A `vamo`: banned in deterministic mode where its outcome depends on order (R336), else withheld with `seed[63]`. -/
def vamo (i : Instr) (fn : Fin 8) (t : VFmt) (banned : Bool) (d a b : Fin 64) (k : Fin 4) (s : State) : Host.Outcome State Fault Refusal :=
  issue i s fun s =>
    match s.reachLanes .atomic (s.amoAddrs a b k) s.inVamo with
    | .error e => .error e
    | .ok l =>
      if s.cx.deterministic && banned then
        .error (.raise .phase { Info.none with detail := phaseDetail s.cx.regs.phase })
      else
        .ok (s.storeLanesAct (.vamo fn t (field (s.readS b).val 56 8) (recordSeed (s.cx.regs.dim 63))) d l)

/-- R234. -/
def execVamoAdd (t : VFmt) (d a b : Fin 64) (k : Fin 4) (s : State) : Host.Outcome State Fault Refusal :=
  vamo (.vamoAdd t d a b k) 0 t t.floating d a b k s

/-- R234, R235. -/
def execVamoAddSr (d a b : Fin 64) (k : Fin 4) (s : State) : Host.Outcome State Fault Refusal :=
  vamo (.vamoAddSr d a b k) 1 .bf16 true d a b k s

/-- R234. -/
def execVamoMin (t : VFmt) (d a b : Fin 64) (k : Fin 4) (s : State) : Host.Outcome State Fault Refusal :=
  vamo (.vamoMin t d a b k) 2 t false d a b k s

/-- R234. -/
def execVamoMax (t : VFmt) (d a b : Fin 64) (k : Fin 4) (s : State) : Host.Outcome State Fault Refusal :=
  vamo (.vamoMax t d a b k) 3 t false d a b k s

/-- R234. -/
def execVamoFmax (t : VFmt) (d a b : Fin 64) (k : Fin 4) (s : State) : Host.Outcome State Fault Refusal :=
  vamo (.vamoFmax t d a b k) 4 t false d a b k s

end Sys2Proof.Machine
end

