-- ==== Sys2Proof/Machine/Transform.lean ====
section
/-! DEFINITION. The X slot (R161 to R182): conversion, block quantisation, scales from and to rings, layout, permutation
and Hadamard transforms. -/

namespace Sys2Proof.Machine

/-! ## Positions and groups (R163) -/

/-- The bits of a group of r registers, the first lowest. -/
def State.groupVal (s : State) (n : Fin 64) (r : Nat) : Nat := ofElems 4096 ((group n r).map fun v => (s.readV v).val)

/-- Position p of width w. -/
def pos (w x p : Nat) : Nat := x / 2 ^ (w * p) % 2 ^ w

/-- The bits of positions of width w. -/
def ofPositions (w : Nat) (l : List Nat) : Nat := ofElems w (l.map (BitVec.ofNat w))

/-- `maxtag` of every tag an instruction reads. -/
def State.readTag (s : State) (i : Instr) : Tag := maxTags ((s.uses i).flatMap fun r => r.tags.map (·.2))

/-- Flags are raised when the result lands, and only where its tag is clean. -/
def State.pushXFlags (s : State) (l : Nat) (t : Tag) (f : FpFlags) : State := if t = .clean then s.pushFlags l f else s

/-- Every element of a group of r registers is written. -/
def State.putGroup (s : State) (l : Nat) (d : Fin 64) (r x : Nat) (t : Tag) : State :=
  (group d r).zipIdx.foldl (fun s p =>
    s.push l (.v p.1 { val := BitVec.ofNat 4096 (x / 2 ^ (4096 * p.2)), tags := evenTags t } (BitVec.allOnes 128))) s

/-- One element with its flags, for each of n positions. -/
def eachPos (n : Nat) (f : Nat → Flagged Nat) : List Nat × FpFlags :=
  let rs := (List.range n).map f
  (rs.map (·.1), rs.foldl (fun fl r => fl.or r.2) FpFlags.none)

/-- A result of one vector register from its positions, with its flags. -/
def State.putPos (s : State) (i : Instr) (l : Nat) (d : Fin 64) (r w : Nat) (x : List Nat × FpFlags) : State :=
  let t := s.readTag i
  (s.putGroup l d r (ofPositions w x.1) t).pushXFlags l t x.2

/-! ## Conversion (R164 to R166) -/

/-- An element format of R43. -/
inductive XFmt where
  | int (signed : Bool) (w : Nat)
  | float (f : FFmt)
deriving DecidableEq, Repr

/-- The format of a code; codes that are none do not get here. -/
def xfmt (c : BitVec 4) : XFmt :=
  match c.toNat with
  | 0x0 => .int true 8 | 0x1 => .int true 16 | 0x2 => .int true 32 | 0x3 => .int false 8 | 0x4 => .int false 32
  | 0x5 => .float .f16 | 0x6 => .float .bf16 | 0x7 => .float .f32 | 0x8 => .float .e4m3 | 0x9 => .float .e5m2
  | _ => .float .f64

/-- The least and the largest integer of a width. -/
def intLo (sg : Bool) (w : Nat) : Int := if sg then -(2 ^ (w - 1)) else 0
def intHi (sg : Bool) (w : Nat) : Int := if sg then 2 ^ (w - 1) - 1 else 2 ^ w - 1

/-- The value of an element: an integer is exact. -/
def XFmt.value (f : XFmt) (x : Nat) : FVal :=
  match f with
  | .float f => f.decode x
  | .int sg w => let v : Int := if sg then sext (BitVec.ofNat 64 x) w else x
                 .num (decide (v < 0)) v.natAbs 0

/-- An integer result, clamped to its range (R165): inexact where it was rounded and not clamped. -/
def clampInt (sg : Bool) (w : Nat) (v : Int) (inexact : Bool) : Flagged Nat :=
  let c := clamp v (intLo sg w) (intHi sg w)
  ((trunc c w).toNat, { FpFlags.none with sat := decide (c ≠ v), nx := inexact && decide (c = v) })

/-- A value in the to-format (R165). -/
def XFmt.convert (f : XFmt) (m : RMode) (v : FVal) : Flagged Nat :=
  match f, v with
  | .float f, .nan sn => (f.nan, { FpFlags.none with nv := sn })
  | .float f, .inf neg => ((f.encode m (.inf neg)).1, { FpFlags.none with of := f == .e4m3, nx := f == .e4m3 })
  | .float f, .num neg n e => f.round m neg n e
  | .int _ _, .nan _ => (0, { FpFlags.none with nv := true })
  | .int sg w, .inf neg => ((trunc (if neg then intLo sg w else intHi sg w) w).toNat, { FpFlags.none with sat := true })
  | .int sg w, .num neg n e =>
    let (q, x) := roundAt m neg n e 0
    clampInt sg w (signed neg q) x

/-- The conversion of a group, each position in its rounding mode. -/
def State.convert (s : State) (i : Instr) (f g : BitVec 4) (d a : Fin 64) (mode : Nat → RMode) : State :=
  let ws := codeWidth f
  let wd := codeWidth g
  let x := s.groupVal a (ws / wd)
  s.putPos i 3 d (wd / ws) wd (eachPos (4096 / min ws wd) fun p => (xfmt g).convert (mode p) ((xfmt f).value (pos ws x p)))

/-- R164, R165: f is the from-format and g the to-format. -/
def execXcvt (f g : BitVec 4) (d a : Fin 64) (s : State) : Host.Outcome State Fault Refusal :=
  issue (.xcvt f g d a) s fun s => .ok (s.convert (.xcvt f g d a) f g d a fun _ => modeOf s.cx.regs.round)

/-- The random bits of a destination position (R166). -/
def xcvtBits (seed sb : Word) (wd p : Nat) : Nat :=
  srbits seed (field sb 0 56 + BitVec.ofNat 56 (p * wd / 8)) (field sb 56 8) 16

/-- R166. -/
def execXcvtSr (f g : BitVec 4) (d a b : Fin 64) (s : State) : Host.Outcome State Fault Refusal :=
  issue (.xcvtSr f g d a b) s fun s =>
    .ok (s.convert (.xcvtSr f g d a b) f g d a fun p =>
      .sr (xcvtBits (recordSeed (s.cx.regs.dim 63)) (s.readS b).val (codeWidth g) p) 16)

/-! ## Block quantisation (R167, R168) -/

/-- The floating format of a source or destination code of `xq`, `xdq` and `xamax`. -/
def floatOf (c : BitVec 4) : FFmt :=
  match xfmt c with
  | .float f => f
  | .int _ _ => .f32

/-- A quantised block: its exponent byte, its mantissas as patterns of m bits, and its flags. -/
structure QBlock where
  ex : Nat
  qs : List Nat
  fl : FpFlags

/-- The exponent of the largest magnitude of finite values, if one is not zero. -/
def topExp (xs : List FVal) : Option Int :=
  xs.foldl (fun r v => match v with
    | .num _ n e => if n = 0 then r else match r with
      | none => some (msb n e)
      | some t => some (max t (msb n e))
    | _ => r) none

/-- One mantissa at a unit of 2^g: rounded to nearest even and clamped to m bits (R167). -/
def quantise (m : Nat) (g : Int) (v : FVal) : Flagged Nat :=
  match v with
  | .num neg n e =>
    let (q, x) := roundAt .rne neg n e g
    let i := signed neg q
    let c := clamp i (-(2 ^ (m - 1))) (2 ^ (m - 1) - 1)
    ((trunc c m).toNat, { FpFlags.none with nx := x || decide (c ≠ i), uf := decide (c = 0) && n != 0 })
  | _ => (0, FpFlags.none)

/-- A block to BFP-m (R167). -/
def quantBlock (m : Nat) (xs : List FVal) : QBlock :=
  let zeros := List.replicate xs.length 0
  if xs.any fun v => match v with
      | .num _ _ _ => false
      | _ => true then
    { ex := 255, qs := zeros, fl := { FpFlags.none with nv := xs.any fun v => v.isSnan || (match v with
        | .inf _ => true
        | _ => false) } }
  else match topExp xs with
    | none => { ex := 0, qs := zeros, fl := FpFlags.none }
    | some e =>
      let ex := clamp (e + 128) 1 254
      let (qs, fl) := eachPos xs.length fun i => quantise m (ex - 127 - (m - 1)) (xs.getD i (.num false 0 0))
      { ex := ex.toNat, qs := qs, fl := { fl with of := decide (254 < e + 128) } }

/-- The values of elements lo to lo + n − 1. -/
def valuesAt (f : FFmt) (x lo n : Nat) : List FVal := (List.range n).map fun i => f.decode (pos f.width x (lo + i))

/-- The number of elements in a block. -/
def blockLen (k : Bool) : Nat := if k then 32 else 16

/-- R167: k is the block length, m the format and s the source. -/
def execXq (k : Bool) (sf m : BitVec 4) (d a : Fin 64) (z : Fin 16) (s : State) : Host.Outcome State Fault Refusal :=
  issue (.xq k sf m d a z) s fun s =>
    let i : Instr := .xq k sf m d a z
    let f := floatOf sf
    let bl := blockLen k
    let bs := (List.range (4096 / f.width / bl)).map fun j =>
      quantBlock m.toNat (valuesAt f (s.readV a).val.toNat (bl * j) bl)
    let t := s.readTag i
    .ok (((s.putGroup 6 d 1 (ofPositions m.toNat (bs.flatMap (·.qs))) t).push 6
      (.z z { val := BitVec.ofNat 128 (ofPositions 8 (bs.map (·.ex))), tag := t })).pushXFlags 6 t
        (bs.foldl (fun fl b => fl.or b.fl) FpFlags.none))

/-- The value of a mantissa under an exponent byte (R90). -/
def bfpValue (m e q : Nat) : FVal :=
  if e = 0 then .num false 0 0
  else if e = 255 then .nan false
  else
    let v := sext (BitVec.ofNat 64 q) m
    .num (decide (v < 0)) v.natAbs ((e : Int) - 127 - (m - 1))

/-- R168. -/
def execXdq (k : Bool) (sf m : BitVec 4) (d a : Fin 64) (z : Fin 16) (s : State) : Host.Outcome State Fault Refusal :=
  issue (.xdq k sf m d a z) s fun s =>
    let f := floatOf sf
    let x := (s.readV a).val.toNat
    let es := (s.readZ z).val.toNat
    .ok (s.putPos (.xdq k sf m d a z) 4 d 1 f.width (eachPos (4096 / f.width) fun p =>
      (XFmt.float f).convert (modeOf s.cx.regs.round)
        (bfpValue m.toNat (pos 8 es (p / blockLen k)) (pos m.toNat x p))))

/-! ## Scales (R169 to R172) -/

/-- The count of a scale transfer does not agree with its contraction length (R171); with `s0` none is checked. -/
def countBad (b : Fin 64) (k bl c : Nat) : Bool := b != 0 && c != (k + bl - 1) / bl

/-- The address of slot i of a ring (R284). -/
def ringSlot (hg : Word) (i : Nat) : Nat := 0xFF * 2 ^ 48 + hgCore hg * 2 ^ 25 + 32 * hgBase hg + i * hgBytes hg

/-- The slot s counted from the consumer or the producer slot (R284). -/
def relSlot (hg hs : Word) (consumer : Bool) (n : Nat) : Nat := ((if consumer then hsC hs else hsP hs) + n) % hgSlots hg

/-- The checks of a scale transfer of n bytes at an offset of a ring slot, and its place (R170). -/
def State.reachScale (s : State) (a : Acc) (consumer : Bool) (h : Fin 16) (b : Fin 64) (bl c off n : Nat) :
    Except Stop (BitVec 56 × Loc) :=
  let hg := s.cx.regs.hg.get h
  let va : BitVec 56 := BitVec.ofNat 56 (ringSlot hg (relSlot hg (s.cx.regs.hs.get h) consumer 0) + off)
  if countBad b (bits (s.readS b).val 0 32) bl c then raise .scalecount
  else if !(hgValid hg) then raise .prot
  else if va.toNat % 4 ≠ 0 then raiseAt .align va
  else match s.translate s.cur.core s.cx.reg.ptroot s.supervisor a va with
    | .error e => raiseAt e.cause va
    | .ok l =>
      if s.refusesHere s.cur.core va l n a .unit s.supervisor then raiseAt .prot va
      else match s.phaseCheck .x a va l n with
        | .error e => .error e
        | .ok _ => .ok (va, l)

/-- The bytes of a transfer: c exponents or 4c bytes of scales. -/
def scaleBytes (v : Bool) (c : BitVec 4) : Nat := (c.toNat + 1) * (if v then 4 else 1)

/-- R169, R170. -/
def execXsld (v : Bool) (c : BitVec 4) (k : Bool) (o : BitVec 3) (z h : Fin 16) (b : Fin 64) (s : State) :
    Host.Outcome State Fault Refusal :=
  issue (.xsld v c k o z h b) s fun s =>
    match s.reachScale .read true h b (blockLen k) (c.toNat + 1) (16 * o.toNat) (scaleBytes v c) with
    | .error e => .error e
    | .ok (_, l) =>
      let tag := (s.readS b).tag
      let (r, s) := s.readEach (s.me s.cur.ctx) .x 0 l (scaleBytes v c)
      let e : InFlight := {
        left := 6, landing := .z z { val := BitVec.ofNat 128 (ofBytes r.bytes), tag := maxTag (lostTag r.lost) tag }
        arrived := false, rld := false, peer := none }
      .ok (s.enter e)

/-- R169, R170. -/
def execXsst (v : Bool) (c : BitVec 4) (k : Bool) (o : BitVec 3) (z h : Fin 16) (b : Fin 64) (s : State) :
    Host.Outcome State Fault Refusal :=
  issue (.xsst v c k o z h b) s fun s =>
    match s.reachScale .write false h b (blockLen k) (c.toNat + 1) (16 * o.toNat) (scaleBytes v c) with
    | .error e => .error e
    | .ok (va, l) =>
      let x := s.readZ z
      .ok (s.withhold .span (spanLanes [{ va := va, loc := l, len := scaleBytes v c }] (bytesOf (scaleBytes v c) x.val.toNat)
        (x.tag == .lost)) 0 .x)

/-! ## Layout (R178 to R180) -/

/-- The width a two-bit code names. -/
def xwidth (w : BitVec 2) : Nat := 8 * 2 ^ w.toNat

/-- Position p of the transposed matrices (R178). -/
def transposed (p : Nat) : Nat := p / 256 * 256 + p % 16 * 16 + p % 256 / 16

/-- R178. -/
def execXtr (w : BitVec 2) (d a : Fin 64) (s : State) : Host.Outcome State Fault Refusal :=
  issue (.xtr w d a) s fun s =>
    let r := if w = 2 then 2 else 1
    let x := s.groupVal a r
    let n := 4096 * r / xwidth w
    .ok (s.putGroup 8 d r (ofPositions (xwidth w) ((List.range n).map fun p => pos (xwidth w) x (transposed p))) (s.readTag (.xtr w d a)))

/-- A field of m bits from an element of w bits (R179). -/
def packField (m w : Nat) (sat sg : Bool) (x : Nat) : Flagged Nat :=
  if sat then
    let v : Int := if sg then sext (BitVec.ofNat 64 x) w else x
    let c := clamp v (intLo sg m) (intHi sg m)
    ((trunc c m).toNat, { FpFlags.none with sat := decide (c ≠ v) })
  else (x % 2 ^ m, FpFlags.none)

/-- R179: m holds the field width less one, g is 1 for a signed type. -/
def execXpack (m : BitVec 4) (w : BitVec 2) (sat g : Bool) (d a : Fin 64) (s : State) : Host.Outcome State Fault Refusal :=
  issue (.xpack m w sat g d a) s fun s =>
    let x := (s.readV a).val.toNat
    .ok (s.putPos (.xpack m w sat g d a) 3 d 1 (m.toNat + 1)
      (eachPos (4096 / xwidth w) fun p => packField (m.toNat + 1) (xwidth w) sat g (pos (xwidth w) x p)))

/-- An element of w bits from a field of m bits (R179). -/
def unpackField (m w : Nat) (sg : Bool) (x : Nat) : Nat := if sg then (trunc (sext (BitVec.ofNat 64 x) m) w).toNat else x

/-- R179. -/
def execXunpk (m : BitVec 4) (w : BitVec 2) (g : Bool) (d a : Fin 64) (s : State) : Host.Outcome State Fault Refusal :=
  issue (.xunpk m w g d a) s fun s =>
    let x := (s.readV a).val.toNat
    .ok (s.putPos (.xunpk m w g d a) 3 d 1 (xwidth w)
      (eachPos (4096 / xwidth w) fun p => (unpackField (m.toNat + 1) (xwidth w) g (pos (m.toNat + 1) x p), FpFlags.none)))

/-- The bits of a group of masks, the first lowest. -/
def State.maskBits (s : State) (m : Fin 16) (r : Nat) : Nat := ofElems 128 ((masks m r).map fun k => (s.readM k).val)

/-- The positions of a bitmap, filled from the elements in order (R180). -/
def expand (b : Nat) (n i k : Nat) (f : Nat → Nat) : List Nat :=
  match n with
  | 0 => []
  | n + 1 => if b / 2 ^ i % 2 = 1 then f k :: expand b n (i + 1) (k + 1) f else 0 :: expand b n (i + 1) k f

/-- R180. -/
def execXexp (w : BitVec 2) (d a : Fin 64) (m : Fin 16) (s : State) : Host.Outcome State Fault Refusal :=
  issue (.xexp w d a m) s fun s =>
    let x := (s.readV a).val.toNat
    .ok (s.putGroup 5 d 1 (ofPositions (xwidth w)
      (expand (s.maskBits m (4 / 2 ^ w.toNat)) (4096 / xwidth w) 0 0 fun k => pos (xwidth w) x k)) (s.readTag (.xexp w d a m)))

/-! ## The largest magnitude (R181) -/

def FVal.abs (v : FVal) : FVal :=
  match v with
  | .nan sn => .nan sn
  | .inf _ => .inf false
  | .num _ n e => .num false n e

/-- The largest of some magnitudes as an f32 pattern, with the flag of a signalling NaN. -/
def amax (vs : List FVal) : Flagged Nat :=
  if vs.any (·.isNan) then (FFmt.f32.nan, { FpFlags.none with nv := vs.any (·.isSnan) })
  else ((FFmt.f32.encode .rne (vs.foldl (fun y v => if ltVal false y v.abs then v.abs else y) (.num false 0 0))).1, FpFlags.none)

/-- R181; one aimed at `s0` writes nothing and raises no flag (R66). -/
def execXamax (f : BitVec 4) (d a b : Fin 64) (s : State) : Host.Outcome State Fault Refusal :=
  issue (.xamax f d a b) s fun s =>
    let t := s.readTag (.xamax f d a b)
    let ff := floatOf f
    let (y, fl) := amax (FFmt.f32.decode (bits (s.readS b).val 0 32) :: valuesAt ff (s.readV a).val.toNat 0 (4096 / ff.width))
    .ok (if d = 0 then s else (s.pushS 4 d (BitVec.ofNat 64 y) t).pushXFlags 4 t fl)

/-! ## Permutation (R173 to R175) -/

/-- An entry of the table, where the table has one. -/
def tableAt (len : Nat) (l : List (BitVec 13)) (t : Nat) : Option Nat :=
  if t < len then some ((l[t]?).getD 0).toNat else none

/-- The positions a permutation gives: an element of the source, or the old one (R175). -/
def permuted (len : Nat) (l : List (BitVec 13)) (e t0 c0 : Nat) (src old : Nat → Nat) : List Nat :=
  (List.range e).map fun j =>
    match tableAt len l (t0 + j) with
    | some c => if c0 ≤ c ∧ c - c0 < e then src (c - c0) else old j
    | none => old j

/-- R175. -/
def execXperm (w : BitVec 2) (d a b : Fin 64) (s : State) : Host.Outcome State Fault Refusal :=
  issue (.xperm w d a b) s fun s =>
    let v := (s.readS b).val
    let n := xwidth w
    if field v 32 16 ≠ s.kr.tblId then raise .engine
    else .ok (s.putGroup 5 d 1 (ofPositions n (permuted s.kr.tblLen s.kr.tbl (4096 / n) (bits v 0 13) (bits v 16 13)
      (pos n (s.readV a).val.toNat) (pos n (s.readV d).val.toNat))) (s.readTag (.xperm w d a b)))

/-- The bytes an `xtbl` reads on path X; a lost sector raises CONTAIN. The order of the checks is the model's (DESIGN CHOICE,
notes/assumptions/89.md). -/
def State.readTable (s : State) (va : BitVec 56) (n align : Nat) : Except Stop (List Byte × State) :=
  if va.toNat % align ≠ 0 then raiseAt .align va
  else match s.translatePieces .read (pagePieces va n 4) with
    | .error e => .error e
    | .ok ps => afterPieces ps <| match raisePiece ps (fun p => !(s.refuses s.cur.core p.va p.loc p.len .read .unit s.supervisor)) .prot with
      | .error e => .error e
      | .ok _ => match ps.find? fun p => s.phaseBreaks s.cur.ctx s.cx.regs.phase .x .read p.loc p.len with
        | some p => .error (.raise .phase { Info.none with addr := p.va, detail := phaseDetail s.cx.regs.phase })
        | none =>
          let (r, t) := ps.foldl (fun (q : ReadOut × State) p =>
            let (r, t) := (q.2.passes p.va p.loc 2).readEach (s.me s.cur.ctx) .x 0 p.loc p.len
            ({ bytes := q.1.bytes ++ r.bytes, lost := q.1.lost || r.lost }, t)) ({ bytes := [], lost := false }, s)
          if r.lost then raiseAt .contain va else .ok (r.bytes, t)

/-- The context is held until the data arrives, and then the store is replaced as a whole (R174). -/
def State.enterStore (s : State) (x : Landing) : State := s.enter { left := 1, landing := x, arrived := false, rld := false, peer := none }

/-- The 13-bit entries of a table from its bytes. -/
def tableEntries (b : List Byte) (n : Nat) : List (BitVec 13) :=
  match n with
  | 0 => []
  | n + 1 => BitVec.ofNat 13 (ofBytes (b.take 2)) :: tableEntries (b.drop 2) n

/-- R174. -/
def execXtblPerm (a b : Fin 64) (s : State) : Host.Outcome State Fault Refusal :=
  issue (.xtblPerm a b) s fun s =>
    let n := bits (s.readS b).val 0 14
    let addr := (s.readS a).val
    if n = 0 ∨ 8192 < n then raise .engine
    else if 2 ^ 56 ≤ addr.toNat then raiseAt .xlate (field addr 0 56)
    else match s.readTable (field addr 0 56) (2 * n) 2 with
      | .error e => .error e
      | .ok (bs, t) => .ok (t.enterStore (.table n (field (s.readS b).val 32 16) (tableEntries bs n)))

/-- The key field of a tensor header record (R92). -/
def headerSeed (b : List Byte) : Word := BitVec.ofNat 64 (leAt b 8 8)

/-- R174. -/
def execXtblKey (a : Fin 64) (s : State) : Host.Outcome State Fault Refusal :=
  issue (.xtblKey a) s fun s =>
    let addr := (s.readS a).val
    if 2 ^ 56 ≤ addr.toNat then raiseAt .xlate (field addr 0 56)
    else match s.readTable (field addr 0 56) 32 32 with
      | .error e => .error e
      | .ok (bs, t) => .ok (t.enterStore (.key (headerSeed bs)))

/-! ## Hadamard (R177) -/

/-- A sign flip of an f32 pattern; a NaN stays as it is (R89). -/
def flipSign (x : Nat) : Nat := if (FFmt.f32.decode x).isNan then x else if x < 2 ^ 31 then x + 2 ^ 31 else x - 2 ^ 31

/-- The sign of the element at a tensor position (R152, R177). -/
def hadSign (key p : Word) : Bool := (hash key p).getLsbD 63

def flipSigns (key p0 : Word) (x : List Nat) : List Nat :=
  x.mapIdx fun i v => if hadSign key (p0 + BitVec.ofNat 64 i) then flipSign v else v

/-- One stage: sums in the lower half of each run of 2h positions, differences in the upper. -/
def hadStage (h : Nat) (x : List Nat) : List (Flagged Nat) :=
  (List.range x.length).map fun i =>
    if i % (2 * h) < h then FFmt.f32.add .rne (x.getD i 0) (x.getD (i + h) 0)
    else FFmt.f32.sub .rne (x.getD (i - h) 0) (x.getD i 0)

/-- The flags of a list are joined to those so far. -/
def settle (l : List (Flagged Nat)) (fl : FpFlags) : List Nat × FpFlags :=
  (l.map (·.1), l.foldl (fun f r => f.or r.2) fl)

/-- The stages h, 2h, … of an n-point transform. -/
def hadStages (stages h : Nat) (x : List Nat × FpFlags) : List Nat × FpFlags :=
  match stages with
  | 0 => x
  | n + 1 => hadStages n (2 * h) (settle (hadStage h x.1) x.2)

/-- 2^(−k) as an f32 pattern. -/
def halves (k : Nat) : Nat := (127 - k) * 2 ^ 23

/-- The transform of R177 on n-point runs, n = 16 · 2^c. -/
def hadamard (c : Nat) (inv : Bool) (key p0 : Word) (x : List Nat) : List Nat × FpFlags :=
  let k := if inv then (if c = 0 then 2 else 3) else (if c = 2 then 3 else 2)
  let x := if inv then x else flipSigns key p0 x
  let y := hadStages (4 + c) 1 (x, FpFlags.none)
  let z := settle (y.1.map fun v => FFmt.f32.mul .rne v (halves k)) y.2
  (if inv then flipSigns key p0 z.1 else z.1, z.2)

/-- The latency of a transform by its length (R162). -/
def hadLatency (n : BitVec 2) : Nat := 8 + 2 * n.toNat

/-- R177. -/
def execXhad (n : BitVec 2) (inv : Bool) (d a b : Fin 64) (s : State) : Host.Outcome State Fault Refusal :=
  issue (.xhad n inv d a b) s fun s =>
    let x := (List.range 128).map (pos 32 (s.readV a).val.toNat)
    .ok (s.putPos (.xhad n inv d a b) (hadLatency n) d 1 32 (hadamard n.toNat inv s.kr.key (s.readS b).val x))

end Sys2Proof.Machine
end

