-- ==== Sys2Proof/Machine/MirrorNum.lean ====
section
/-! DEFINITION. The arithmetic of the mirror: modes (R187, R188), records (R189), block integers (R190), block sums and
accumulator entries (R191 to R195). -/

namespace Sys2Proof.Machine

/-! ## Modes (R187, R188) -/

def mmMode (m : BitVec 11) : Nat := bits m 8 3
def mmOpt (m : BitVec 11) : Bool := flag m 7
def mmBlk (m : BitVec 11) : Bool := flag m 6
def mmW (m : BitVec 11) : Nat := bits m 3 3 + 2
def mmA (m : BitVec 11) : Nat := bits m 0 3 + 2

/-- The word of a mode from the fields of `mmode`. -/
def modeWord (m : BitVec 3) (o b : Bool) (w a : BitVec 3) : BitVec 11 :=
  BitVec.ofNat 11 (m.toNat * 256 + o.toNat * 128 + b.toNat * 64 + w.toNat * 8 + a.toNat)

/-- Residuals are streamed and inexact blocks reported (R190). -/
def mmExact (m : BitVec 11) : Bool := decide (2 ≤ mmMode m) && mmOpt m

/-- The block length B. -/
def mmBlock (m : BitVec 11) : Nat := if mmMode m ≤ 1 then blockLen (mmBlk m) else 32

/-- The integer budget W of a float mode; 8 in int8. -/
def mmBudget (m : BitVec 11) : Nat :=
  match mmMode m with
  | 2 => 16 | 3 => 16 | 4 => 32 | 5 => 64 | _ => 8

/-- Weight slices per weight. -/
def mmSlices (m : BitVec 11) : Nat := if mmMode m ≤ 1 then 1 else mmBudget m / 8

/-- The entry size es. -/
def mmEntry (m : BitVec 11) : Nat :=
  match mmMode m with
  | 0 => 8 | 5 => 32 | _ => 16

/-- The significand's width. -/
def mmSig (m : BitVec 11) : Nat := if mmMode m = 5 then 160 else 96

/-- The elements' format in a float mode. -/
def mmFloat (m : BitVec 11) : FFmt :=
  match mmMode m with
  | 2 => .f16 | 3 => .bf16 | 5 => .f64 | _ => .f32

/-- The bytes of a record of k elements, an activation's or a weight's (R189). -/
def recordBytes (m : BitVec 11) (act : Bool) (k : Nat) : Nat :=
  match mmMode m with
  | 0 => k
  | 1 => 32 + (k * (if act then mmA m else mmW m) + 7) / 8
  | _ => k * mmBudget m / 8

/-! ## Block integers (R190) -/

/-- Status bits of an entry (R194). -/
def stLost : Nat := 128
def stNan : Nat := 64
def stSlice : Nat := 32
def stNv : Nat := 16
def stNx : Nat := 8
def stSat : Nat := 4

/-- A block as integers: its layers, each with mantissas and the exponent of their unit, and its status. -/
structure MBlock where
  layers : List (List Int × Int)
  status : Nat
deriving DecidableEq, Repr

/-- The exponent of the largest of some multiples of 2^g, if one is not zero. -/
def topOf (vs : List Int) (g : Int) : Option Int := topExp (vs.map fun v => .num false v.natAbs g)

/-- One layer of values v · 2^g at budget w whose largest has exponent e: mantissas, their unit, and the residuals as
multiples of 2^g. -/
def layerAt (w : Nat) (g e : Int) (vs : List Int) : (List Int × Int) × List Int :=
  let u := e - (w - 2)
  let qs := vs.map fun v => signed (decide (v < 0)) (roundAt .rne (decide (v < 0)) v.natAbs g u).1
  ((qs, u), if u ≤ g then vs.map fun _ => 0 else (vs.zip qs).map fun p => p.1 - p.2 * 2 ^ (u - g).toNat)

/-- Layers until nothing is left or n are made. -/
def layersOf (w : Nat) (g : Int) (vs : List Int) (n : Nat) : List (List Int × Int) × List Int :=
  match n with
  | 0 => ([], vs)
  | n + 1 =>
    match topOf vs g with
    | none => ([], vs)
    | some e =>
      let (l, rest) := layerAt w g e vs
      let (ls, r) := layersOf w g rest n
      (l :: ls, r)

/-- A finite value as a multiple of 2^g, for g no larger than its exponent. -/
def multiple (g : Int) (v : FVal) : Int :=
  match v with
  | .num neg n e => signed neg (n * 2 ^ (e - g).toNat)
  | _ => 0

/-- The least exponent of some values. -/
def leastExp (xs : List FVal) : Int :=
  xs.foldl (fun g v => match v with
    | .num _ _ e => min g e
    | _ => g) 0

/-- The feed converter on one K-block; a weight has no residual layers. -/
def convBlock (w : Nat) (exact act : Bool) (xs : List FVal) : MBlock :=
  if xs.any fun v => match v with
      | .num _ _ _ => false
      | _ => true then
    let nv := xs.any fun v => v.isSnan || (match v with
      | .inf _ => true
      | _ => false)
    { layers := [], status := stNan + nv.toNat * stNv }
  else
    let g := leastExp xs
    let (ls, rest) := layersOf w g (xs.map (multiple g)) (if exact && act then 4 else 1)
    let more := rest.any (· != 0)
    { layers := ls, status := more.toNat * stNx + (more && exact).toNat * stSlice }

/-- A BFP block under its exponent byte (R90). -/
def bfpBlock (m e : Nat) (qs : List Nat) : MBlock :=
  if e = 0 then { layers := [], status := 0 }
  else if e = 255 then { layers := [], status := stNan }
  else { layers := [(qs.map fun q => sext (BitVec.ofNat 64 q) m, (e : Int) - 127 - (m - 1))], status := 0 }

/-- Block j of a record of k elements (R189, R190); positions past k count as zero. -/
def recordBlock (m : BitVec 11) (act : Bool) (b : List Byte) (k j : Nat) : MBlock :=
  let bl := mmBlock m
  let n := min bl (k - bl * j)
  match mmMode m with
  | 0 => { layers := [((List.range n).map fun i => (b.getD (bl * j + i) 0).toInt, 0)], status := 0 }
  | 1 =>
    let mb := if act then mmA m else mmW m
    let x := ofBytes (b.drop 32)
    bfpBlock mb (b.getD j 0).toNat ((List.range n).map fun i => pos mb x (bl * j + i))
  | _ =>
    let w := mmBudget m / 8
    convBlock (mmBudget m) (mmExact m) act ((List.range n).map fun i => (mmFloat m).decode (leAt b (w * (bl * j + i)) w))

/-- The number of blocks of k elements. -/
def blockCount (m : BitVec 11) (k : Nat) : Nat := (k + mmBlock m - 1) / mmBlock m

/-! ## Entries (R192 to R194) -/

/-- An accumulator entry: a significand and an exponent, or in int8 a value and 0, and its status. -/
structure Entry where
  sig : Int
  ex  : Int
  st  : Nat
deriving DecidableEq, Repr

def Entry.zero : Entry := { sig := 0, ex := 0, st := 0 }

/-- `wadd` (R192): a sum that is zero has exponent 0 (notes/assumptions/21.md). -/
def wadd (wa : Nat) (a p : Int × Int) : Int × Int :=
  if p.1 = 0 then a
  else if a.1 = 0 then p
  else
    let t := max (msb a.1.natAbs a.2) (msb p.1.natAbs p.2)
    let g := t - (wa - 3)
    let e := min a.2 p.2
    let x := a.1 * 2 ^ (a.2 - e).toNat + p.1 * 2 ^ (p.2 - e).toNat
    let q := signed (decide (x < 0)) (roundAt .rne (decide (x < 0)) x.natAbs e g).1
    if q = 0 then (0, 0) else if q = 2 ^ (wa - 1) then (q / 2, g + 1) else (q, g)

/-- The sum of products of two lists of mantissas (R191). -/
def blockSum (a w : List Int) : Int := (a.zip w).foldl (fun r p => r + p.1 * p.2) 0

/-- One block sum enters an entry (R192, R193). -/
def Entry.add (e : Entry) (m : BitVec 11) (i ux uw : Int) : Entry :=
  if mmMode m = 0 then
    if mmOpt m then
      let c := clamp (e.sig + i) (-(2 ^ 31)) (2 ^ 31 - 1)
      { e with sig := c, st := if c = e.sig + i then e.st else e.st ||| stSat }
    else { e with sig := sext (BitVec.ofInt 64 (e.sig + i)) 32 }
  else
    let (sig, ex) := wadd (mmSig m) (e.sig, e.ex) (i, ux + uw)
    { e with sig := sig, ex := ex }

/-- The layers of an activation block against a weight block, in order. -/
def Entry.layers (e : Entry) (m : BitVec 11) (ls : List (List Int × Int)) (w : List Int × Int) : Entry :=
  match ls with
  | [] => e
  | l :: ls => (e.add m (blockSum l.1 w.1) l.2 w.2).layers m ls w

/-- An activation block meets a column's block: their sums enter, their status is joined (R191, R194). -/
def Entry.meet (e : Entry) (m : BitVec 11) (a w : MBlock) : Entry :=
  let e := { e with st := e.st ||| a.status ||| w.status }
  match w.layers with
  | [] => e
  | l :: _ => e.layers m a.layers l

def Entry.stream (e : Entry) (m : BitVec 11) (l : List (MBlock × MBlock)) : Entry :=
  match l with
  | [] => e
  | p :: l => (e.meet m p.1 p.2).stream m l

/-- An entry's bytes (R194). -/
def Entry.bytes (e : Entry) (m : BitVec 11) : List Byte :=
  match mmMode m with
  | 0 => bytesOf 4 (trunc e.sig 32).toNat ++ bytesOf 4 (e.st * 2 ^ 24)
  | 5 => bytesOf 20 (trunc e.sig 160).toNat ++ bytesOf 2 (trunc e.ex 16).toNat ++ bytesOf 10 (e.st * 2 ^ 72)
  | _ => bytesOf 12 (trunc e.sig 96).toNat ++ bytesOf 2 (trunc e.ex 16).toNat ++ bytesOf 2 (e.st * 2 ^ 8)

/-- The entry some bytes hold. -/
def entryOf (m : BitVec 11) (b : List Byte) : Entry :=
  let n := mmEntry m
  let st := (b.getD (n - 1) 0).toNat
  match mmMode m with
  | 0 => { sig := sext (BitVec.ofNat 64 (leAt b 0 4)) 32, ex := 0, st := st }
  | 5 => { sig := sext (BitVec.ofNat 160 (leAt b 0 20)) 160, ex := sext (BitVec.ofNat 64 (leAt b 20 2)) 16, st := st }
  | _ => { sig := sext (BitVec.ofNat 96 (leAt b 0 12)) 96, ex := sext (BitVec.ofNat 64 (leAt b 12 2)) 16, st := st }

/-! ## Drains (R195, R211) -/

/-- The mirror flags of a status, in the positions of `mstat`. -/
def statusFlags (st : Nat) : Nat :=
  (if st / stLost % 2 = 1 then 128 else 0) + (if st / stSlice % 2 = 1 then 64 else 0) + (if st / stSat % 2 = 1 then 32 else 0) +
    (if st / stNv % 2 = 1 then 16 else 0) + (if st / stNx % 2 = 1 then 1 else 0)

/-- The mirror flags of a drain's rounding. -/
def roundFlags (f : FpFlags) : Nat := f.of.toNat * 4 + f.uf.toNat * 2 + f.nx.toNat

/-- The output width of a drain's format code, in bytes. -/
def drainBytes (fmt : Fin 16) : Nat :=
  match fmt.val with
  | 0x5 | 0x6 => 2
  | 0xA => 8
  | _ => 4

/-- The floating format of a drain's code. -/
def drainFmt (fmt : Fin 16) : FFmt :=
  match fmt.val with
  | 0x5 => .f16 | 0x6 => .bf16 | 0xA => .f64 | _ => .f32

/-- An entry in a drain's format, with the mirror flags it raises. -/
def Entry.drain (e : Entry) (m : BitVec 11) (fmt : Fin 16) : Nat × Nat :=
  if mmMode m = 0 then ((trunc e.sig 32).toNat, statusFlags e.st)
  else if e.st / stNan % 2 = 1 then ((drainFmt fmt).nan, statusFlags e.st)
  else
    let (x, fl) := (drainFmt fmt).round .rne (decide (e.sig < 0)) e.sig.natAbs e.ex
    (x, statusFlags e.st ||| roundFlags fl)

end Sys2Proof.Machine
end

