-- ==== Sys2Proof/Machine/Mirror.lean ====
section
/-! DEFINITION. The mirror's operations: their checks (R203), their effects (R205 to R210), routines (R215), and what the
mirror does in the course of time (R196, R197). -/

namespace Sys2Proof.Machine

/-! ## Tile descriptors (R202) -/

structure Tile where
  rows : Nat
  base : Nat
  len  : Nat
  c    : Nat
  ring : Fin 16
  slot : Nat
  rsv  : Bool
deriving DecidableEq, Repr

def tileOf (q : Word) : Tile :=
  { rows := bits q 53 11 + 1, base := bits q 39 14, len := bits q 30 9 + 1, c := bits q 24 6,
    ring := ⟨bits q 20 4, Nat.mod_lt _ (by decide)⟩, slot := bits q 8 12, rsv := bits q 0 8 != 0 }

/-! ## Arrays (R185, R186) -/

def Core.segAt (k : Core) (n : Nat) : Segment := k.seg.get ⟨n % 16, Nat.mod_lt _ (by decide)⟩

/-- The rows and columns of segments in the array of a segment. -/
def Segment.gr (g : Segment) : Nat := 2 ^ g.grc.val
def Segment.gc (g : Segment) : Nat := 2 ^ g.gcc.val

/-- The segments of the array that a segment lies in. -/
def Core.arraySegs (k : Core) (a : Fin 16) : List (Fin 16) :=
  let g := k.seg.get a
  (List.finRange 16).filter fun i => decide (g.first.val ≤ i.val) && decide (i.val < g.first.val + g.gr * g.gc)

/-- The logical columns of an array (R188). -/
def arrayCols (g : Segment) (m : BitVec 11) : Nat := 128 * g.gc / mmSlices m

/-- Every quarter of some segments is owned. -/
def ownsSegs (q : BitVec 4) (l : List (Fin 16)) : Bool := l.all fun i => flag q (i.val / 4)

/-- A tile of some bytes from a unit lies in owned quarters and reaches no record area (R203). -/
def ownsTile (q : BitVec 4) (base n : Nat) : Bool :=
  decide (16 * base + n ≤ 2 ^ 18) &&
  (List.range 4).all fun j =>
    let lo := max (16 * base) (j * 2 ^ 16)
    let hi := min (16 * base + n) ((j + 1) * 2 ^ 16)
    decide (hi ≤ lo) || (flag q j && decide (hi ≤ j * 2 ^ 16 + 0xFF00))

/-- Every array that shares a segment with the new one is dissolved, and the new one is formed (R186). -/
def Core.regroup (k : Core) (f : Fin 16) (r c : BitVec 2) : Core :=
  let n := 2 ^ r.toNat * 2 ^ c.toNat
  let new : List (Fin 16) := (List.finRange 16).filter fun i => decide (f.val ≤ i.val) && decide (i.val < f.val + n)
  let hit (i : Fin 16) : Bool := (k.arraySegs i).any new.contains
  { k with seg := Vector.ofFn fun i =>
      let g := k.seg.get i
      if new.contains i then { g with first := f, grc := ⟨r.toNat, r.isLt⟩, gcc := ⟨c.toNat, c.isLt⟩, err := none }
      else if hit i then { g with first := i, grc := 0, gcc := 0, err := none }
      else g }

/-! ## Ring rows (R202, R284) -/

/-- The address of row i of a tile in its ring. -/
def MirrorOp.rowVa (o : MirrorOp) (t : Tile) (consumer : Bool) (i : Nat) : BitVec 56 :=
  let hg := o.hg.get t.ring
  BitVec.ofNat 56 (ringSlot hg (relSlot hg (o.hs.get t.ring) consumer (t.slot + i)))

/-- The place of n bytes of a row, or the cause that refuses it (R203 step 6). -/
def State.rowPlace (s : State) (x : CtxId) (o : MirrorOp) (va : BitVec 56) (n : Nat) (a : Acc) : Except Stop Loc :=
  match s.aliasLoc x.core va with
  | .error c => raiseAt c va
  | .ok l =>
    if s.refusesHere x.core va l n a .unit o.sup then raiseAt .prot va
    else if s.phaseBreaks x o.phase .a a l n then
      .error (.raise .phase { Info.none with addr := va, detail := phaseDetail o.phase })
    else .ok l

/-- Every row of a tile is within the rings' scratchpads. -/
def State.checkRows (s : State) (x : CtxId) (o : MirrorOp) (t : Tile) (consumer : Bool) (n : Nat) (a : Acc) (i left : Nat) :
    Except Stop Unit :=
  match left with
  | 0 => .ok ()
  | left + 1 =>
    match s.rowPlace x o (o.rowVa t consumer i) n a with
    | .error e => .error e
    | .ok _ => s.checkRows x o t consumer n a (i + 1) left

/-- Step 6 for a tile: a bound ring and its rows. -/
def State.checkRing (s : State) (x : CtxId) (o : MirrorOp) (t : Tile) (consumer : Bool) (n : Nat) (a : Acc) : Except Stop Unit :=
  if !(hgValid (o.hg.get t.ring)) then raise .prot else s.checkRows x o t consumer n a 0 t.rows

/-! ## Checks (R203) -/

/-- Checks in order, the first that fails raising its cause. -/
def checkAll (l : List (Bool × Cause)) : Except Stop Unit :=
  match l with
  | [] => .ok ()
  | (bad, c) :: l => if bad then raise c else checkAll l

/-- An array's live planes were loaded under another mode, B or mw. -/
def planesDiffer (k : Core) (a : Fin 16) (m : BitVec 11) : Bool :=
  (k.arraySegs a).any fun i => match (k.seg.get i).live.mode with
    | none => false
    | some n => mmMode n != mmMode m || mmBlk n != mmBlk m || (mmMode m == 1 && mmW n != mmW m)

/-- An eyepiece holds no valid record, or one of another mode or length. -/
def eyeDiffers (e : Eyepiece) (m : BitVec 11) (k : Nat) : Bool :=
  !(flag e.record 127) || bits e.record 124 3 != mmMode m || flag e.record 123 != mmBlk m ||
  (mmMode m == 1 && bits e.record 120 3 + 2 != mmA m) || bits e.record 92 9 + 1 != k

/-- The pieces of a weight tile, each translated and allowed (R203 step 7). -/
def State.tilePieces (s : State) (x : CtxId) (o : MirrorOp) (w : Waiting) (l : List (BitVec 56 × Nat)) : Except Stop (List Piece) :=
  match l with
  | [] => .ok []
  | (va, n) :: l =>
    match s.xlateFor x o.ptroot o.sup w .read va with
    | .error e => raiseRead e
    | .ok loc =>
      if s.refuses x.core va loc n .read .unit o.sup then .error (.raise .prot { Info.none with addr := va, looked := [va] })
      else if s.phaseBreaks x o.phase .a .read loc n then
        .error (.raise .phase { Info.none with addr := va, detail := phaseDetail o.phase, looked := [va] })
      else match s.tilePieces x o w l with
        | .error e => .error (e.lookedUp [va])
        | .ok ps => .ok ({ va := va, loc := loc, len := n } :: ps)

/-- The number of columns, the stride and the bytes of a weight tile (R189). -/
def tileStride (m : BitVec 11) (k : Nat) : Nat := roundUp (recordBytes m false k) 32
def tileBytes (m : BitVec 11) (k n : Nat) : Nat := (n - 1) * tileStride m k + recordBytes m false k

def State.checkLoad (s : State) (x : CtxId) (o : MirrorOp) (a : Fin 16) (p q : Fin 8) : Except Stop (List Piece) :=
  let k := s.core x.core
  let g := k.seg.get a
  let m := (s.ctx x).mmode
  let w := o.q.get p
  let v := o.q.get q
  let va : BitVec 56 := field w 0 56
  match checkAll [(!(ownsSegs (s.quarters x) (k.arraySegs a)), .prot), (g.first != a, .engine),
      (bits w 56 8 != 0 || bits v 19 45 != 0 || decide (arrayCols g m < bits v 9 10 + 1) || decide (128 * g.gr < bits v 0 9 + 1), .engine)] with
  | .error e => .error e
  | .ok _ =>
    if va.toNat % 32 ≠ 0 then raiseAt .align va
    else s.tilePieces x o (if o.routine.isSome then .device else .bundle) (pagePieces va (tileBytes m (bits v 0 9 + 1) (bits v 9 10 + 1)) 64)

/-- The checks of a stream up to its rows: `eye` for the form that reads an eyepiece. -/
def State.checkStream (s : State) (x : CtxId) (o : MirrorOp) (a : Fin 16) (eye : Option (Fin 8)) (q : Fin 8) : Except Stop Unit :=
  let k := s.core x.core
  let g := k.seg.get a
  let m := (s.ctx x).mmode
  let t := tileOf (o.q.get q)
  let own := s.quarters x
  let bytes := t.rows * arrayCols g m * mmEntry m
  let eyeOwned := match eye with
    | some e => flag own (e.val / 2)
    | none => true
  let form := match eye with
    | some e => t.rows != 1 || t.ring != 0 || t.slot != 0 || eyeDiffers (k.eye.get e) m t.len
    | none => hgValid (o.hg.get t.ring) && decide (hgBytes (o.hg.get t.ring) < recordBytes m true t.len)
  match checkAll [(!(ownsSegs own (k.arraySegs a)) || !eyeOwned || !(ownsTile own t.base bytes), .prot),
      (t.rsv || g.first != a || decide (128 * g.gr < t.len) || planesDiffer k a m || form, .engine),
      (t.c != blockCount m t.len, .scalecount)] with
  | .error e => .error e
  | .ok _ => match eye with
    | some _ => .ok ()
    | none => s.checkRing x o t true (recordBytes m true t.len) .read

def State.checkDrain (s : State) (x : CtxId) (o : MirrorOp) (q : Fin 8) (fmt : Fin 16) : Except Stop Unit :=
  let m := (s.ctx x).mmode
  let t := tileOf (o.q.get q)
  let n := t.len * drainBytes fmt
  match checkAll [((mmMode m == 0) != (fmt.val == 2), .badop), (!(ownsTile (s.quarters x) t.base (t.rows * t.len * mmEntry m)), .prot),
      (t.rsv || t.c != 0 || (hgValid (o.hg.get t.ring) && decide (hgBytes (o.hg.get t.ring) < n)), .engine)] with
  | .error e => .error e
  | .ok _ => s.checkRing x o t false n .write

def State.checkZero (s : State) (x : CtxId) (o : MirrorOp) (q : Fin 8) : Except Stop Unit :=
  let t := tileOf (o.q.get q)
  checkAll [(!(ownsTile (s.quarters x) t.base (t.rows * t.len * mmEntry (s.ctx x).mmode)), .prot),
    (t.rsv || t.c != 0 || t.ring != 0 || t.slot != 0, .engine)]

def State.checkEye (s : State) (x : CtxId) (o : MirrorOp) (e q : Fin 8) : Except Stop Unit :=
  let m := (s.ctx x).mmode
  let t := tileOf (o.q.get q)
  let n := recordBytes m true t.len
  match checkAll [(!(flag (s.quarters x) (e.val / 2)), .prot),
      (t.rsv || t.rows != 1 || t.base != 0 || decide (1024 < n) || (hgValid (o.hg.get t.ring) && decide (hgBytes (o.hg.get t.ring) < n)), .engine),
      (t.c != blockCount m t.len, .scalecount)] with
  | .error e => .error e
  | .ok _ => s.checkRing x o t true n .read

/-- The checks of an M operation (R203 steps 3 to 7, R206, R215), with the places of its memory operand. -/
def State.checkOp (s : State) (x : CtxId) (o : MirrorOp) (i : Instr) : Except Stop (List Piece) :=
  let k := s.core x.core
  let ok (r : Except Stop Unit) : Except Stop (List Piece) :=
    match r with
    | .ok _ => .ok []
    | .error e => .error e
  match i with
  | .mmode _ _ _ _ _ => .ok []
  | _ =>
    if s.quarters x = 0 then raise .prot
    else match i with
      | .mlds a _ p q => s.checkLoad x o a p q
      | .mswap a =>
        ok (checkAll [(!(ownsSegs (s.quarters x) (k.arraySegs a)), .prot), ((k.seg.get a).first != a, .engine),
          ((k.seg.get a).err.isSome, ((k.seg.get a).err).getD .engine)])
      | .mstream a t _ => ok (s.checkStream x o a none t)
      | .mstreamEyepiece a e t _ => ok (s.checkStream x o a (some e) t)
      | .mdrain _ t m _ => ok (s.checkDrain x o t m)
      | .mzero q => ok (s.checkZero x o q)
      | .mepl e q => ok (s.checkEye x o e q)
      | .mseg f r c => ok (checkAll [(!(ownsSegs (s.quarters x) ((List.finRange 16).filter fun j =>
          decide (f.val ≤ j.val) && decide (j.val < f.val + 2 ^ r.toNat * 2 ^ c.toNat))), .prot), ((k.seg.get f).first != f, .engine)])
      | .mcall e id _ => ok (checkAll [((s.routineEntry x.core e.val).2 != id.toNat, .engine)])
      | _ => .ok []

/-! ## Loads (R188, R189, R200, R205) -/

/-- The bytes of a list of places on path A, with which of them a lost sector holds. -/
def State.readA (s : State) (o : Owner) (ps : List Piece) : List (Byte × Bool) × State :=
  match ps with
  | [] => ([], s)
  | p :: ps =>
    let (r, s) := (List.range p.len).foldl (fun (q : List (List (Byte × Bool)) × State) i =>
      let (r, t) := q.2.readAs o .a 0 (p.loc.add i) 1
      (r.bytes.map (·, r.lost) :: q.1, t)) ([], s)
    let (l, s) := s.readA o ps
    (r.reverse.flatten ++ l, s)

/-- The source record of a plane or an eyepiece (R200). -/
def sourceRecord (m : BitVec 11) (sub : Nat) (kp np grc gcc n k : Nat) (va : BitVec 56) : BitVec 128 :=
  BitVec.ofNat 128 (2 ^ 127 + mmMode m * 2 ^ 124 + (mmBlk m).toNat * 2 ^ 123 + sub % 8 * 2 ^ 120 + (mmExact m).toNat * 2 ^ 119 +
    kp * 2 ^ 117 + np * 2 ^ 115 + grc * 2 ^ 113 + gcc * 2 ^ 111 + (n - 1) % 2 ^ 10 * 2 ^ 101 + (k - 1) % 2 ^ 9 * 2 ^ 92 + va.toNat)

/-- The mode word a source record names. -/
def recordMode (r : BitVec 128) (act : Bool) : BitVec 11 :=
  BitVec.ofNat 11 (bits r 124 3 * 256 + bits r 119 1 * 128 + bits r 123 1 * 64 + bits r 120 3 * (if act then 1 else 8))

/-- One column of a weight tile: its bytes and whether one of them is lost. -/
def tileColumn (m : BitVec 11) (k n : Nat) (b : List (Byte × Bool)) : List Byte × Bool :=
  let r := (b.drop (n * tileStride m k)).take (recordBytes m false k)
  (r.map (·.1), r.any (·.2))

/-- The byte of a cell: slice i of an integer. -/
def sliceByte (v : Int) (i : Nat) : Byte := BitVec.ofNat 8 ((trunc v 64).toNat / 256 ^ i)

/-- What a plane of one segment holds after a load: cells as (row, column, byte), exponent bytes as (column · 8 + block,
byte), status as (column · 64 + block, byte). -/
structure Cells where
  cells  : List (Nat × Nat × Byte)
  exps   : List (Nat × Byte)
  status : List (Nat × Byte)

def Cells.join (a b : Cells) : Cells := { cells := a.cells ++ b.cells, exps := a.exps ++ b.exps, status := a.status ++ b.status }
def Cells.none : Cells := { cells := [], exps := [], status := [] }

/-- The cells of a block: column n of the segment, block j of the segment (the scale of a block stands little-endian in
the exponent bytes of its slices: notes/assumptions/22.md). A NaN or special weight block has no integers (R205): its cells
and exponent bytes become zero (DESIGN CHOICE, notes/assumptions/112.md). -/
def blockCells (m : BitVec 11) (n j : Nat) (b : MBlock) (ebyte : Nat) (lost : Bool) : Cells :=
  let sl := mmSlices m
  let (qs, u) := b.layers.headD ([], 0)
  let e : Nat := if mmMode m = 0 then 0 else if mmMode m = 1 then ebyte else (trunc u 64).toNat
  let st := b.status ||| (if lost then stLost else 0)
  { cells := (qs.zipIdx).flatMap fun p => (List.range sl).map fun i => (mmBlock m * j + p.2, sl * n + i, sliceByte p.1 i)
    exps := (List.range sl).map fun i => ((sl * n + i) * 8 + j, BitVec.ofNat 8 (e / 256 ^ i))
    status := if st = 0 then [] else [(sl * n * 64 + j, BitVec.ofNat 8 st)] }

/-- What a segment at a K- and N-position takes of a tile. -/
def segmentCells (m : BitVec 11) (kp np k n : Nat) (b : List (Byte × Bool)) : Cells :=
  let cols := 128 / mmSlices m
  let blocks := 128 / mmBlock m
  (List.range cols).foldl (fun r c =>
    if n ≤ np * cols + c then r
    else
      let (col, lost) := tileColumn m k (np * cols + c) b
      (List.range blocks).foldl (fun r j =>
        let g := kp * blocks + j
        if blockCount m k ≤ g then r else r.join (blockCells m c j (recordBlock m false col k g) (col.getD g 0).toNat lost)) r) Cells.none

/-- The memory key of a plane of a segment: p is 0 for the live one. -/
def State.planeKey (s : State) (c : Fin 1792) (i : Fin 16) (p : Nat) : Nat :=
  let sel := ((s.core c).seg.get i).sel
  s.windowKey c 4 (i.val * 2 ^ 16 + (if (p == 1) != sel then 2 ^ 15 else 0))

/-- A plane is overwritten: rows and columns past the tile are zero (R205). -/
def State.writePlane (s : State) (c : Fin 1792) (i : Fin 16) (p : Nat) (m : BitVec 11) (cs : Cells) (r : BitVec 128) : State :=
  let k := s.planeKey c i p
  let s := s.zeroRange k (2 ^ 15)
  let s := cs.cells.foldl (fun s q => s.putByte (k + 128 * q.1 + q.2.1) q.2.2) s
  let s := cs.exps.foldl (fun s q => s.putByte (k + 0x4000 + q.1) q.2) s
  let pl : Plane := { mode := some m, record := r, status := cs.status }
  s.modCore c fun k => { k with seg := k.seg.set i (if p = 0 then { k.seg.get i with live := pl } else { k.seg.get i with shadow := pl }) }

/-- Every segment of an array takes its part of a tile in its shadow plane. -/
def State.loadSegs (s : State) (c : Fin 1792) (g : Segment) (m : BitVec 11) (k n : Nat) (va : BitVec 56) (b : List (Byte × Bool))
    (l : List (Fin 16)) : Bool × State :=
  match l with
  | [] => (false, s)
  | i :: l =>
    let kp := (i.val - g.first.val) % g.gr
    let np := (i.val - g.first.val) / g.gr
    let cs := segmentCells m kp np k n b
    let s := s.writePlane c i 1 m cs (sourceRecord m (mmW m - 2) kp np g.grc.val g.gcc.val n k va)
    let (bad, s) := s.loadSegs c g m k n va b l
    (bad || cs.status.any fun p => p.2.toNat / stSlice % 2 == 1, s)

/-- The mirror flags of a context take bits. -/
def State.mirrorFlags (s : State) (x : CtxId) (f : Nat) : State :=
  s.modCtx x fun c => { c with mflags := c.mflags ||| BitVec.ofNat 8 f }

/-- A flag completion joins those of the core. -/
def State.due (s : State) (o : MirrorOp) (c : Fin 1792) (f : Fin 32) (err : Option Cause) (what : DueKind) (first id : Nat) : State :=
  s.modCore c fun k => { k with flagsDue := k.flagsDue ++
    [{ owner := o.owner, flag := f, err := err, what := what, first := first, id := id }] }

/-- The error status of an array's last load, which an `mswap` meets when the load is complete (R206). -/
def Core.loadDone (k : Core) (a : Fin 16) (err : Option Cause) : Core :=
  let l := k.arraySegs a
  { k with seg := Vector.ofFn fun i => if l.contains i then { k.seg.get i with err := err } else k.seg.get i }

def State.doLoad (s : State) (x : CtxId) (o : MirrorOp) (ps : List Piece) (a : Fin 16) (f : Fin 32) (p q : Fin 8) : State :=
  let k := s.core x.core
  let m := (s.ctx x).mmode
  let v := o.q.get q
  let s := ps.foldl (fun s p => s.touch x o.ptroot p.va) s
  let (b, s) := s.readA o.owner ps
  let (bad, s) := s.loadSegs x.core (k.seg.get a) m (bits v 0 9 + 1) (bits v 9 10 + 1) (field (o.q.get p) 0 56) b (k.arraySegs a)
  let s := if bad then s.mirrorFlags x 64 else s
  let err := if bad then some Cause.slice else none
  (s.modCore x.core fun k => k.loadDone a err).due o x.core f err (.load a) o.id o.id

/-! ## Streams (R191 to R194, R207, R208) -/

/-- An entry's memory key. -/
def State.entryAt (s : State) (c : Fin 1792) (m : BitVec 11) (base n : Nat) : Nat := s.windowKey c 1 (16 * base + n * mmEntry m)

def State.readEntry (s : State) (c : Fin 1792) (m : BitVec 11) (base n : Nat) : Entry :=
  entryOf m (s.bytesAt (s.entryAt c m base n) (mmEntry m))

def State.writeEntry (s : State) (c : Fin 1792) (m : BitVec 11) (base n : Nat) (e : Entry) : State :=
  s.putBytes (s.entryAt c m base n) (e.bytes m)

/-- A signed integer from slices, lowest first. -/
def slicesInt (b : List Byte) : Int := sext (BitVec.ofNat 64 (ofBytes b)) (8 * b.length)

/-- Block j of logical column n of an array's live planes. -/
def State.planeBlock (s : State) (c : Fin 1792) (a : Fin 16) (m : BitVec 11) (n j : Nat) : MBlock :=
  let g := (s.core c).seg.get a
  let sl := mmSlices m
  let cols := 128 / sl
  let blocks := 128 / mmBlock m
  let i : Fin 16 := ⟨(g.first.val + n / cols * g.gr + j / blocks) % 16, Nat.mod_lt _ (by decide)⟩
  let k := s.planeKey c i 0
  let pl := ((s.core c).seg.get i).live
  let col := sl * (n % cols)
  let jl := j % blocks
  let st : Nat := ((pl.status.find? fun p => p.1 == col * 64 + jl).map (·.2.toNat)).getD 0
  let eb := (List.range sl).map fun i => s.byteAt (k + 0x4000 + (col + i) * 8 + jl)
  let qs := (List.range (mmBlock m)).map fun r => slicesInt ((List.range sl).map fun i => s.byteAt (k + 128 * (mmBlock m * jl + r) + col + i))
  match mmMode m with
  | 0 => { layers := [(qs, 0)], status := st }
  | 1 =>
    let e := ofBytes eb
    { layers := if e = 0 ∨ e = 255 then [] else [(qs, (e : Int) - 127 - (mmW m - 1))], status := st }
  | _ => { layers := [(qs, slicesInt eb)], status := st }

/-- The residual passes of a row's blocks. -/
def residualPasses (l : List MBlock) : Nat := l.foldl (fun r b => max r (b.layers.length - 1)) 0

/-- A row's entries from column n on. -/
def State.streamCols (s : State) (c : Fin 1792) (a : Fin 16) (m : BitVec 11) (init : Bool) (base row nlog : Nat) (bs : List MBlock)
    (st n left : Nat) : State :=
  match left with
  | 0 => s
  | left + 1 =>
    let e := if init then Entry.zero else s.readEntry c m base (row * nlog + n)
    let e := { e with st := e.st ||| st }
    let e := e.stream m (bs.mapIdx fun j b => (b, s.planeBlock c a m n j))
    (s.writeEntry c m base (row * nlog + n) e).streamCols c a m init base row nlog bs st (n + 1) left

/-- One row of activations streams through the live planes. -/
def State.streamRow (s : State) (x : CtxId) (a : Fin 16) (init : Bool) (t : Tile) (row : Nat) (b : List Byte) (lost : Bool) : State :=
  let m := (s.ctx x).mmode
  let g := (s.core x.core).seg.get a
  let bs := (List.range (blockCount m t.len)).map (recordBlock m true b t.len)
  let s := s.modCtx x fun c => { c with mpasses := min 65535 (c.mpasses + residualPasses bs) }
  s.streamCols x.core a m init t.base row (arrayCols g m) bs (if lost then stLost else 0) 0 (arrayCols g m)

/-- The record a ring row holds, read on path A. -/
def State.readRow (s : State) (x : CtxId) (o : MirrorOp) (t : Tile) (i n : Nat) : ReadOut × State :=
  match s.aliasLoc x.core (o.rowVa t true i) with
  | .ok l => s.readEach o.owner .a 0 l n
  | .error _ => ({ bytes := [], lost := false }, s)

/-- The row of a stream that the operation has come to. -/
def State.doStream (s : State) (x : CtxId) (o : MirrorOp) (a : Fin 16) (q : Fin 8) (init : Bool) : State :=
  let t := tileOf (o.q.get q)
  let (r, s) := s.readRow x o t o.row (recordBytes (s.ctx x).mmode true t.len)
  s.streamRow x a init t o.row r.bytes r.lost

def State.doStreamEye (s : State) (x : CtxId) (o : MirrorOp) (a : Fin 16) (e q : Fin 8) (init : Bool) : State :=
  let y := (s.core x.core).eye.get e
  s.streamRow x a init (tileOf (o.q.get q)) 0 y.data y.lost

/-- An eyepiece takes a record with its source (R207). -/
def State.setEye (s : State) (c : Fin 1792) (e : Fin 8) (y : Eyepiece) : State :=
  s.modCore c fun k => { k with eye := k.eye.set e y }

def State.doEye (s : State) (x : CtxId) (o : MirrorOp) (e q : Fin 8) : State :=
  let m := (s.ctx x).mmode
  let t := tileOf (o.q.get q)
  let (r, s) := s.readRow x o t 0 (recordBytes m true t.len)
  s.setEye x.core e { data := r.bytes, lost := r.lost, record := sourceRecord m (mmA m - 2) 0 0 0 0 1 t.len (o.rowVa t true 0) }

/-! ## Tiles (R209, R210) -/

def State.zeroEntries (s : State) (c : Fin 1792) (m : BitVec 11) (base n left : Nat) : State :=
  match left with
  | 0 => s
  | left + 1 => (s.writeEntry c m base n Entry.zero).zeroEntries c m base (n + 1) left

def State.doZero (s : State) (x : CtxId) (o : MirrorOp) (q : Fin 8) : State :=
  let t := tileOf (o.q.get q)
  s.zeroEntries x.core (s.ctx x).mmode t.base (o.row * t.len) t.len

/-- The writes of one drained row, element by element, with the mirror flags it raises. -/
def State.drainRow (s : State) (x : CtxId) (o : MirrorOp) (t : Tile) (fmt : Fin 16) (i : Nat) : List (List ByteWrite) × Nat :=
  let m := (s.ctx x).mmode
  match s.aliasLoc x.core (o.rowVa t false i) with
  | .error _ => ([], 0)
  | .ok l =>
    (List.range t.len).foldl (fun (r : List (List ByteWrite) × Nat) n =>
      let e := s.readEntry x.core m t.base (i * t.len + n)
      let (v, fl) := e.drain m fmt
      (r.1 ++ [(bytesOf (drainBytes fmt) v).mapIdx fun k b =>
        { key := s.keyOf (l.add (n * drainBytes fmt + k)), val := b, lost := e.st / stLost % 2 == 1 }], r.2 ||| fl)) ([], 0)

/-- The row of a drain that the operation has come to; its flag is due when the last has been written. -/
def State.doDrain (s : State) (x : CtxId) (o : MirrorOp) (f : Fin 32) (q : Fin 8) (fmt : Fin 16) (clr : Bool) : State :=
  let t := tileOf (o.q.get q)
  let (ws, fl) := s.drainRow x o t fmt o.row
  let a : Author := { owner := o.owner, path := some .a, cmd := some o.id, cls := 0, scope := o.scope }
  let s := (ws.foldl (fun s w => s.writeUnit a w) s).tagAll a ws.flatten
  let s := s.mirrorFlags x fl
  let s := if ws.any (·.any (·.lost)) then s.setLostw o.owner else s
  let s := if clr then s.zeroEntries x.core (s.ctx x).mmode t.base (o.row * t.len) t.len else s
  if o.row + 1 < t.rows then s else s.due o x.core f none .drain o.id o.id

/-! ## One operation -/

/-- Live and shadow planes exchange, records included (R206). -/
def Core.swapPlanes (k : Core) (a : Fin 16) : Core :=
  let l := k.arraySegs a
  { k with seg := Vector.ofFn fun i =>
      let g := k.seg.get i
      if l.contains i then { g with sel := !g.sel, live := g.shadow, shadow := g.live } else g }

/-- The rows an operation goes through one by one: a kill stops it between two of them (R312). -/
def MirrorOp.rowsOf (o : MirrorOp) (i : Instr) : Nat :=
  match i with
  | .mstream _ t _ => (tileOf (o.q.get t)).rows
  | .mdrain _ t _ _ => (tileOf (o.q.get t)).rows
  | .mzero q => (tileOf (o.q.get q)).rows
  | _ => 1

/-- The effect of an operation that is not a routine, of one row where it has several. -/
def State.doOp (s : State) (x : CtxId) (o : MirrorOp) (ps : List Piece) (i : Instr) : State :=
  match i with
  | .mlds a f p q => s.doLoad x o ps a f p q
  | .mswap a => s.modCore x.core fun k => k.swapPlanes a
  | .mstream a t init => s.doStream x o a t init
  | .mstreamEyepiece a e t init => s.doStreamEye x o a e t init
  | .mdrain f t m c => s.doDrain x o f t m c
  | .mzero q => s.doZero x o q
  | .mepl e q => s.doEye x o e q
  | .mmode m op b w a => s.modCtx x fun c => { c with mmode := modeWord m op b w a }
  | .mseg f r c => s.modCore x.core fun k => k.regroup f r c
  | _ => s

/-- The next row of an operation, and the operation if it goes on. -/
def State.opStep (s : State) (x : CtxId) (o : MirrorOp) (ps : List Piece) (i : Instr) : State × Option MirrorOp :=
  let (id, s) := if o.row = 0 then s.fresh else (o.id, s)
  let o := { o with id := id }
  (s.doOp x o ps i, if o.row + 1 < o.rowsOf i then some { o with row := o.row + 1 } else none)

/-! ## Completions (R205, R210, R215, R259) -/

/-- A completion of the mirror is applied: the flag completes, and what it completed may be waited for. -/
def State.applyDue (s : State) (c : Fin 1792) (d : FlagDue) : State :=
  let s := s.modCore c fun k => { k with flagsDue := k.flagsDue.erase d }
  let s := s.completeFlag d.owner d.flag d.err
  { s with finished := s.finished ++ [{ owner := d.owner, flag := d.flag, first := d.first, id := d.id }] }

/-- The first completion of a kind that a context waits for. -/
def State.firstDue (s : State) (x : CtxId) (k : DueKind → Bool) : Option FlagDue :=
  (s.core x.core).flagsDue.find? fun d => d.owner.ctx == x && k d.what

def DueKind.isLoad (k : DueKind) : Bool := match k with | .load _ => true | _ => false

/-- A load of an array whose flag has not completed. -/
def State.loading (s : State) (c : Fin 1792) (a : Fin 16) : Bool :=
  let l := (s.core c).arraySegs a
  (s.core c).flagsDue.any fun d => match d.what with
    | .load b => l.contains b
    | _ => false

/-! ## Routines (R215) -/

def Routine.start (pc first : Nat) : Routine := { pc := pc, first := first, val := Vector.replicate 4 0, idle := Vector.replicate 4 true }

/-- The micro-step as an M instruction, for the kinds that are one (R214). -/
def stepInstr (w : BitVec 32) : Option Instr := if 2 ≤ bits w 28 4 ∧ bits w 28 4 ≤ 7 then decodeSlot .m w else none

/-- `loop` (R215). -/
def Routine.loop (r : Routine) (w : BitVec 32) : Routine :=
  let c : Fin 4 := ⟨bits w 26 2, Nat.mod_lt _ (by decide)⟩
  let r := if r.idle.get c then { r with val := r.val.set c (bits w 8 8), idle := r.idle.set c false } else r
  if r.val.get c = 0 then { r with idle := r.idle.set c true, pc := r.pc + 1 }
  else { r with val := r.val.set c (r.val.get c - 1), pc := bits w 16 10 }

/-- `qadd` (R214, R215): the field's low bit and width. -/
def qaddField (n : Nat) : Nat × Nat :=
  match n with
  | 0 => (39, 14) | 1 => (8, 12) | _ => (0, 56)

def qaddStep (q : Vector Word 8) (w : BitVec 32) : Vector Word 8 :=
  let r : Fin 8 := ⟨bits w 25 3, Nat.mod_lt _ (by decide)⟩
  let (lo, n) := qaddField (bits w 23 2)
  let v := q.get r
  q.set r (putField v lo n (BitVec.ofInt n ((bits v lo n : Int) + sext w 23)).toNat)

/-- The head operation of a context's queue is replaced, or removed. -/
def State.setHead (s : State) (x : CtxId) (o : Option MirrorOp) : State :=
  (s.modCtx x fun c => { c with mqueue := (match o with
    | some o => [o]
    | none => []) ++ c.mqueue.drop 1 }).recordArises x

/-- A routine ends: its flag is due, and completes the writes of its operations (R259). -/
def State.endRoutine (s : State) (x : CtxId) (o : MirrorOp) (f : Fin 32) (err : Option Cause) : State :=
  let (id, s) := s.fresh
  (s.setHead x none).due o x.core f err .routine ((o.routine.map (·.first)).getD id) id

/-- The cause of a failed check. -/
def stopCause (e : Stop) : Cause :=
  match e with
  | .raise c _ => c
  | _ => .engine

/-- One step of a running routine: `none` where it waits for a load that its `mswap` needs. -/
def State.stepRoutine (s : State) (x : CtxId) (o : MirrorOp) (f : Fin 32) (r : Routine) : Option State :=
  let w := s.microStep x.core r.pc
  if 1023 < r.pc ∨ bits w 28 4 = 0 then some (s.endRoutine x o f none)
  else if bits w 28 4 = 9 then some (s.setHead x (some { o with routine := some (r.loop w) }))
  else if bits w 28 4 = 8 then some (s.setHead x (some { o with q := qaddStep o.q w, routine := some { r with pc := r.pc + 1 } }))
  else match stepInstr w with
    | none => some (s.endRoutine x o f (some .badop))
    | some i =>
      let waits := match i with
        | .mswap a => s.loading x.core a
        | _ => false
      if waits then none
      else match (if o.row = 0 then s.checkOp x o i else .ok []) with
        | .error e => some (s.endRoutine x o f (some (stopCause e)))
        | .ok ps =>
          let (s, next) := s.opStep x o ps i
          some (s.setHead x (some (next.getD { o with row := 0, routine := some { r with pc := r.pc + 1 } })))

/-- The mirror's next piece of work for a context: the head of its queue, or a step of the routine there. -/
def State.mirrorStep (s : State) (x : CtxId) : Option State :=
  match (s.ctx x).mqueue with
  | [] => none
  | o :: _ =>
    match o.instr with
    | .mcall e _ f =>
      match o.routine with
      | none => some (s.setHead x (some { o with routine := some (Routine.start (s.routineEntry x.core e.val).1 s.nextId) }))
      | some r => s.stepRoutine x o f r
    | i =>
      let (s, next) := s.opStep x o o.places i
      some (s.setHead x next)

/-- The state as the mirror's next operation finds it: every earlier one done (R196). A routine that does not end stays
where it is; nothing after it runs. -/
def State.ahead (s : State) (x : CtxId) (fuel : Nat) : State :=
  match fuel with
  | 0 => s
  | f + 1 =>
    match s.firstDue x (·.isLoad) with
    | some d => (s.applyDue x.core d).ahead x f
    | none => match s.mirrorStep x with
      | some t => t.ahead x f
      | none => s

/-! ## Issue -/

/-- What an M instruction takes with it at issue. -/
def State.mirrorOp (s : State) (i : Instr) (ps : List Piece) : MirrorOp :=
  { instr := i, q := Vector.ofFn fun k => (s.readQ k).val, hg := s.cx.regs.hg, hs := s.cx.regs.hs, places := ps, scope := s.cur.scope,
    sup := s.supervisor, ptroot := s.cx.reg.ptroot, owner := { ctx := s.cur.ctx, serial := s.cx.serial }, phase := s.cx.regs.phase,
    routine := none, row := 0, id := 0 }

/-- The places the mirror queue has. -/
def queueLength : Nat := 8

/-- How far the state ahead is worked out for the checks of an M instruction: further than any machine runs. Behind a routine
without end the checks see what stands then, and the operation never runs (DESIGN CHOICE, notes/assumptions/92.md). -/
def aheadSteps : Nat := 2 ^ 64

/-- The state as the mirror's next operation of a context finds it. -/
def State.aheadOf (s : State) (x : CtxId) : State := s.ahead x aheadSteps

/-- An M operation passes its checks and joins the queue; a full queue holds the context (R197, R203). -/
def State.enqueueM (s : State) (i : Instr) : Except Stop State :=
  let x := s.cur.ctx
  if queueLength ≤ s.cx.mqueue.length then .error .hold
  else match (s.aheadOf x).checkOp x (s.mirrorOp i []) i with
    | .error e => .error e
    | .ok ps => .ok (s.modCx fun c => { c with mqueue := c.mqueue ++ [s.mirrorOp i ps] })

/-- R215. -/
def execMcall (e : Fin 64) (id : BitVec 16) (f : Fin 32) (s : State) : Host.Outcome State Fault Refusal :=
  issue (.mcall e id f) s fun s => s.enqueueM (.mcall e id f)

/-- R205. -/
def execMlds (a : Fin 16) (f : Fin 32) (p q : Fin 8) (s : State) : Host.Outcome State Fault Refusal :=
  issue (.mlds a f p q) s fun s => s.enqueueM (.mlds a f p q)

/-- A queued operation loads an array that shares a segment with a's, by itself or in a routine. -/
def State.loadsAhead (s : State) (x : CtxId) (a : Fin 16) : Bool :=
  let l := (s.core x.core).arraySegs a
  (s.ctx x).mqueue.any fun o => match o.instr with
    | .mlds b _ _ _ => l.contains b
    | .mcall e _ _ => (s.reach x.core [(s.routineEntry x.core e.val).1] [] 4096).any fun n => match stepInstr (s.microStep x.core n) with
        | some (.mlds b _ _ _) => l.contains b
        | _ => false
    | _ => false

/-- R206: held while a load of the array is incomplete. -/
def execMswap (a : Fin 16) (s : State) : Host.Outcome State Fault Refusal :=
  issue (.mswap a) s fun s =>
    if s.loading s.cur.core a || s.loadsAhead s.cur.ctx a then .error .hold else s.enqueueM (.mswap a)

/-- R208. -/
def execMstream (a : Fin 16) (t : Fin 8) (i : Bool) (s : State) : Host.Outcome State Fault Refusal :=
  issue (.mstream a t i) s fun s => s.enqueueM (.mstream a t i)

/-- R208. -/
def execMstreamEyepiece (a : Fin 16) (e t : Fin 8) (i : Bool) (s : State) : Host.Outcome State Fault Refusal :=
  issue (.mstreamEyepiece a e t i) s fun s => s.enqueueM (.mstreamEyepiece a e t i)

/-- R210. -/
def execMdrain (f : Fin 32) (t : Fin 8) (m : Fin 16) (c : Bool) (s : State) : Host.Outcome State Fault Refusal :=
  issue (.mdrain f t m c) s fun s => s.enqueueM (.mdrain f t m c)

/-- R209. -/
def execMzero (q : Fin 8) (s : State) : Host.Outcome State Fault Refusal :=
  issue (.mzero q) s fun s => s.enqueueM (.mzero q)

/-- R207. -/
def execMepl (e q : Fin 8) (s : State) : Host.Outcome State Fault Refusal :=
  issue (.mepl e q) s fun s => s.enqueueM (.mepl e q)

/-- R187. -/
def execMmode (m : BitVec 3) (o b : Bool) (w a : BitVec 3) (s : State) : Host.Outcome State Fault Refusal :=
  issue (.mmode m o b w a) s fun s => s.enqueueM (.mmode m o b w a)

/-- R186. -/
def execMseg (f : Fin 16) (r c : BitVec 2) (s : State) : Host.Outcome State Fault Refusal :=
  issue (.mseg f r c) s fun s => s.enqueueM (.mseg f r c)

/-- R204. -/
def execMqset (q : Fin 8) (a : Fin 64) (s : State) : Host.Outcome State Fault Refusal :=
  issue (.mqset q a) s fun s => .ok (s.push 1 (.q q (s.readS a)))

/-- `mstat`'s word (R211). -/
def Ctx.mstatWord (c : Ctx) : Word := BitVec.ofNat 64 (min 65535 c.mpasses * 2 ^ 16 + c.mflags.toNat)

/-- R211: it waits for every earlier M operation, whose writes are complete once its result is written (R259). -/
def execMstat (d : Fin 64) (c : Bool) (s : State) : Host.Outcome State Fault Refusal :=
  issue (.mstat d c) s fun s =>
    if s.mirrorBusy s.cur.ctx then .error .hold
    else
      let v := s.cx.mstatWord
      let s := if c then s.modCx fun c => { c with mflags := 0, mpasses := 0 } else s
      .ok ((s.pushS 4 d v .clean).push 4 (.pathA s.nextId))

/-! ## Micro-programs (R213) -/

/-- A step of a kind that is assigned, with no reserved bit set (R214) and no field that is no instruction's, an
`mdrain` step's format among them (DESIGN CHOICE, notes/assumptions/90.md). -/
def stepOk (w : BitVec 32) : Bool :=
  match bits w 28 4 with
  | 0 => bits w 0 28 == 0
  | 8 => bits w 23 2 != 3
  | 9 => bits w 0 8 == 0
  | _ => match stepInstr w with
    | some i => i.wf
    | none => false

/-- The steps of some bytes. -/
def stepWords (b : List Byte) (n : Nat) : List (BitVec 32) := (List.range n).map fun i => BitVec.ofNat 32 (leAt b (4 * i) 4)

/-- What stands in the way of an `mephw`: an operation queued before it, or a routine that runs in the other context (R196,
R198, R212). -/
def State.storeBusy (s : State) (x : CtxId) : Bool :=
  let isCall (o : MirrorOp) : Bool := match o.instr with
    | .mcall _ _ _ => true
    | _ => false
  !(s.ctx x).mqueue.isEmpty || (s.ctx (otherCtx x)).mqueue.any fun o => isCall o && o.routine.isSome

/-- The steps, and the entry where one is set, are written (R213). -/
def State.writeSteps (s : State) (c : Fin 1792) (first : Nat) (b : List Byte) (entry : Option (Fin 64)) (id : Nat) : State :=
  let s := s.putBytes (s.windowKey c 2 (4 * first)) b
  match entry with
  | some e => s.putBytes (s.windowKey c 2 (0x1000 + 8 * e.val)) (bytesOf 8 (id * 2 ^ 16 + first))
  | none => s

def State.mephwAct (s : State) (a b : Fin 8) (first : Fin 1024) (set : Bool) (e : Fin 64) : Except Stop State :=
  let x := s.cur.ctx
  let w := (s.readQ a).val
  let v := (s.readQ b).val
  let n := bits v 16 8 + 1
  let va : BitVec 56 := field w 0 56
  if s.storeBusy x then .error .hold
  else if s.quarters x = 0 then raise .prot
  else if bits w 56 8 ≠ 0 ∨ bits v 24 40 ≠ 0 ∨ 1024 < first.val + n then raise .engine
  else if va.toNat % 4 ≠ 0 then raiseAt .align va
  else match s.tilePieces x (s.mirrorOp (.mzero 0) []) .bundle (pagePieces va (4 * n) 4) with
    | .error e => .error e
    | .ok ps =>
      let (r, t) := (ps.foldl (fun s p => s.touch x s.cx.reg.ptroot p.va) s).readA (s.me x) ps
      let bs := r.map (·.1)
      if r.any (·.2) then .error (.raise .contain { Info.none with addr := va, looked := ps.map (·.va) })
      else match (List.range n).find? fun i => !(stepOk ((stepWords bs n).getD i 0)) with
        | some i => .error (.raise .badop { Info.none with detail := BitVec.ofNat 14 (first.val + i), looked := ps.map (·.va) })
        | none => .ok (t.writeSteps x.core first.val bs (if set then some e else none) (bits v 0 16))

/-- R213. -/
def execMephw (a b : Fin 8) (f : Fin 1024) (set : Bool) (e : Fin 64) (s : State) : Host.Outcome State Fault Refusal :=
  issue (.mephw a b f set e) s fun s => s.mephwAct a b f set e

/-! ## Events -/

/-- R197: the mirror does its next piece of work for a context. -/
def execMOperationExecute (x : CtxId) (s : State) : Host.Outcome State Fault Refusal :=
  .next ((s.mirrorStep x).getD s)

/-- The first due completion of a kind is applied. -/
def State.completeFirst (s : State) (x : CtxId) (k : DueKind → Bool) : State :=
  match s.firstDue x k with
  | some d => s.applyDue x.core d
  | none => s

/-- R205. -/
def execMldsCompletion (x : CtxId) (s : State) : Host.Outcome State Fault Refusal := .next (s.completeFirst x (·.isLoad))

/-- R210. -/
def execMdrainCompletion (x : CtxId) (s : State) : Host.Outcome State Fault Refusal := .next (s.completeFirst x (· == .drain))

/-- R215. -/
def execRoutineCompletion (x : CtxId) (s : State) : Host.Outcome State Fault Refusal := .next (s.completeFirst x (· == .routine))

/-! ## Reloads at a switch back in (R200) -/

/-- The tile a plane's source record names is read again, and the plane rebuilt from it; a translation that fails gives
its cause. -/
def State.reloadPlane (s : State) (x : CtxId) (i : Fin 16) (p : Nat) (r : BitVec 128) : Except Cause State :=
  let m := recordMode r false
  let k := bits r 92 9 + 1
  let n := bits r 101 10 + 1
  let va : BitVec 56 := field r 0 56
  let o : MirrorOp := { s.mirrorOp (.mzero 0) [] with sup := (s.ctx x).sup, ptroot := (s.ctx x).reg.ptroot, phase := (s.ctx x).regs.phase }
  match s.tilePieces x o .device (pagePieces va (tileBytes m k n) 64) with
  | .error e => .error (stopCause e)
  | .ok ps =>
    let (b, t) := s.readA (s.me x) ps
    .ok (t.writePlane x.core i p m (segmentCells m (bits r 117 2) (bits r 115 2) k n b) r)

/-- As `reloadPlane`, an eyepiece. -/
def State.reloadEye (s : State) (x : CtxId) (e : Fin 8) (r : BitVec 128) : Except Cause State :=
  let m := recordMode r true
  let n := recordBytes m true (bits r 92 9 + 1)
  let va : BitVec 56 := field r 0 56
  match s.aliasLoc x.core va with
  | .error c => .error c
  | .ok l =>
    if s.refusesHere x.core va l n .read .unit (s.ctx x).sup then .error .prot
    else
      let (o, t) := s.readEach (s.me x) .a 0 l n
      .ok (t.setEye x.core e { data := o.bytes, lost := o.lost, record := r })

end Sys2Proof.Machine
end

