-- ==== Sys2Proof/Machine/Spans.lean ====
section
/-! DEFINITION. The memory that a command names in its registers (R237 to R242, R361, R376, R384, R386, R390), and the phase
check of it at issue (R335). -/

namespace Sys2Proof.Machine

/-! ## Registers and shapes -/

/-- The registers a command carries. -/
structure CmdRegs where
  a  : Word
  b  : Word
  c  : Word
  c1 : Word
deriving DecidableEq, Repr

/-- The path of a command (R245). -/
def cmdPath (i : Instr) : Path :=
  match i with
  | .cstashSave _ _ _ _ _ | .cstashGet _ _ _ _ _ | .cstashPf _ _ _ | .cstashDrop _ _ _ | .cverFork _ _ _ | .cverRetire _ _ _
  | .cverSettle _ _ _ => .k
  | .csend _ _ _ _ _ | .crecv _ _ _ _ _ | .cringReduceScatter _ _ _ _ _ | .cringAllGather _ _ _ _ _
  | .cringReduceScatterF32 _ _ _ _ _ | .cringAllGatherF32 _ _ _ _ _ | .cnred _ _ _ _ _ | .cmcast _ _ _ _ => .n
  | _ => .c


def shN0 (c : Word) : Nat := bits c 0 24
def shN1 (c : Word) : Nat := bits c 24 12
def shN2 (c : Word) : Nat := bits c 36 12
def shType (c : Word) : Nat := bits c 48 4

/-- The destination and source addresses of the rows, in the order they move. -/
def rowAddrs (r : CmdRegs) : List (Nat × Nat) :=
  let d := r.c1
  (List.range (shN2 r.c + 1)).flatMap fun i2 => (List.range (shN1 r.c + 1)).map fun i1 =>
    ((r.a.toNat + i2 * bits d 48 16 * 4096 + i1 * bits d 16 16 * 16) % 2 ^ 64,
     (r.b.toNat + i2 * bits d 32 16 * 4096 + i1 * bits d 0 16 * 16) % 2 ^ 64)

/-- A logical core's scratchpad as an alias address names it (R225). -/
def aliasVa (l off : Nat) : BitVec 56 := BitVec.ofNat 56 (0xFF * 2 ^ 48 + l * 2 ^ 25 + off)

/-! ## Tensors, reductions, rings -/

/-- The bytes of the exponent part of a BFP row, and of its mantissa part (R242). -/
def bfpExps (b d : Nat) : Nat := roundUp ((d + b - 1) / b) 32
def bfpMants (m d : Nat) : Nat := roundUp ((d * m + 7) / 8) 32

/-- The element size of a reduction. -/
def nredBytes (c : Word) : Nat := if bits c 52 2 = 1 then 2 else 4

def nredCount (c : Word) : Nat := bits c 0 28
def nredLen (c : Word) : Nat := nredCount c * nredBytes c

def ringKind (c : Word) : Nat := bits c 31 2
def ringStep (c : Word) : Nat := bits c 33 3
def ringCount (c : Word) : Nat := bits c 0 27

/-- The elements of a chunk. -/
def State.ringChunk (s : State) (c : Word) : Nat := ringCount c / max 1 s.fabric.ndom.val

/-- A chunk's record in the wire area (R391), and the chunk a step sends and the one it receives. -/
def wireLen (nc : Nat) : Nat := bfpExps 32 nc + bfpMants 4 nc

def State.ringSends (s : State) (c : Word) : Nat :=
  let t : Int := (ringStep c : Nat)
  if ringKind c % 2 = 0 then s.ringDom (-t) else s.ringDom (1 - t)

def State.ringTakes (s : State) (c : Word) : Nat :=
  let t : Int := (ringStep c : Nat)
  if ringKind c % 2 = 0 then s.ringDom (-1 - t) else s.ringDom (-t)

/-- A step computes what it sends from its data: reduce-scatter, and the first step of all-gather. -/
def ringComputes (c : Word) : Bool := ringKind c % 2 == 0 || ringStep c == 0

/-- Whether a step's records are compressed. -/
def ringPacked (c : Word) : Bool := decide (ringKind c < 2)

/-! ## Spans -/

/-- A span of memory that a command names: how it is accessed, its first address, its length. -/
structure Span where
  acc : Acc
  va  : Nat
  len : Nat
deriving DecidableEq, Repr

/-- The spans of a ring step (R391). -/
def State.ringSpans (s : State) (r : CmdRegs) : List Span :=
  let nc := s.ringChunk r.c
  let k := s.ringSends r.c
  let j := s.ringTakes r.c
  let packed := ringPacked r.c
  let gather := ringKind r.c % 2 == 1
  let computes := ringComputes r.c
  let span (a : Acc) (va n : Nat) : Span := { acc := a, va := va, len := n }
  let both (va n : Nat) : List Span := [span .read va n, span .write va n]
  let data (i : Nat) : Nat := r.a.toNat + 4 * nc * i
  let wire (i : Nat) : Nat := r.c1.toNat + i * wireLen nc
  (if computes && gather then both (data k) (4 * nc) else if packed && !computes then [] else [span .read (data k) (4 * nc)]) ++
  (if packed && computes then both (r.b.toNat + 4 * nc * k) (4 * nc) else []) ++
  (if packed && gather then [span (if computes then .write else .read) (wire k) (wireLen nc), span .write (wire j) (wireLen nc)] else []) ++
  (if gather then [span .write (data j) (4 * nc)] else both (data j) (4 * nc))

/-- The spans that a command's registers name; what it finds in memory names others when it runs. -/
def State.commandSpans (s : State) (i : Instr) (r : CmdRegs) : List Span :=
  let n := shN0 r.c + 1
  let span (a : Acc) (va n : Nat) : Span := { acc := a, va := va, len := n }
  match i with
  | .cpy _ _ _ _ _ => (rowAddrs r).flatMap fun p => [span .write p.1 n, span .read p.2 n]
  | .cfill _ _ _ _ _ => (rowAddrs r).map fun p => span .write p.1 n
  | .cred _ _ _ _ _ => (rowAddrs r).flatMap fun p => [span .atomic p.1 n, span .read p.2 n]
  | .cgath _ _ _ _ _ => span .read r.c1.toNat (4 * (shN1 r.c + 1)) ::
      (List.range (shN1 r.c + 1)).map fun k => span .write ((r.a.toNat + k * n) % 2 ^ 64) n
  | .cscat _ _ _ _ _ => span .read r.c1.toNat (4 * (shN1 r.c + 1)) ::
      (List.range (shN1 r.c + 1)).map fun k => span .read ((r.b.toNat + k * n) % 2 ^ 64) n
  | .cbcast _ _ _ _ _ => span .read r.b.toNat n ::
      ((List.range 64).filter fun k => flag r.c1 k).map fun k => span .write (aliasVa k (bits r.a 0 22)).toNat n
  | .cxfm _ _ _ _ _ => [span .read r.c.toNat 32, span .read r.c1.toNat 32]
  | .cstashSave _ _ _ _ _ | .cstashGet _ _ _ _ _ => [span .read r.b.toNat 32]
  | .csend _ _ _ _ _ => [span .read r.a.toNat r.b.toNat]
  | .crecv _ _ _ _ _ => [span .write r.a.toNat r.b.toNat]
  | .cmcast _ _ _ _ => [span .read r.a.toNat 64]
  | .cnred _ _ _ _ _ => span .read r.b.toNat (nredLen r.c) :: if s.receives r.c then [span .write r.a.toNat (nredLen r.c)] else []
  | .cringReduceScatter _ _ _ _ _ | .cringAllGather _ _ _ _ _ | .cringReduceScatterF32 _ _ _ _ _ | .cringAllGatherF32 _ _ _ _ _ =>
    s.ringSpans r
  | _ => []

/-- The first address that a command names in a scratchpad outside the phase its context has open (R335); what does not
translate is told when the command runs. -/
def State.spanMisses (s : State) (i : Instr) (r : CmdRegs) : Option (BitVec 56) :=
  let x := s.cur.ctx
  let misses (a : Acc) (p : BitVec 56 × Nat) : Bool :=
    match s.translate x.core s.cx.reg.ptroot s.supervisor a p.1 with
    | .ok l => s.phaseBreaks x s.cx.regs.phase (cmdPath i) a l p.2
    | .error _ => false
  if !s.cx.deterministic then none
  else (s.commandSpans i r).findSome? fun w =>
    if 2 ^ 56 < w.va + w.len then none
    else ((pagePieces (BitVec.ofNat 56 w.va) w.len (w.len / 2 ^ 16 + 2)).find? (misses w.acc)).map (·.1)

end Sys2Proof.Machine
end

