-- ==== Sys2Proof/Machine/Copy.lean ====
section
/-! DEFINITION. The C slot: the checks of each command at its issue, and its place among the context's withheld commands
(R237 to R242, R354 to R356, R361, R368, R375, R376, R384, R386, R390). -/

namespace Sys2Proof.Machine

/-! ## Issue -/

/-- The queue of a C slot (R47). -/
def queueOf (p : SlotPos) : Fin 2 := if p = .c1 then 1 else 0

def State.cmdRegs (s : State) (a b c : Fin 64) : CmdRegs :=
  { a := (s.readS a).val, b := (s.readS b).val, c := (s.readS c).val, c1 := (s.readS (nextReg c)).val }

/-- A command with what it read, withheld (R237). -/
def State.withholdCmd (s : State) (i : Instr) (r : CmdRegs) : State :=
  let (id, s) := s.fresh
  let c : Command := {
    id := id, instr := i, queue := queueOf s.cur.pos, owner := { ctx := s.cur.ctx, serial := s.cx.serial }
    a := r.a, b := r.b, c := r.c, c1 := r.c1, scope := s.cur.scope, sup := s.supervisor, ptroot := s.cx.reg.ptroot
    team := s.cx.reg.team, seed := recordSeed (s.cx.regs.dim 63), phase := s.cx.regs.phase, det := s.cx.deterministic }
  s.modCx fun x => { x with commands := x.commands ++ [c] }

/-- A command: its checks in order, the phase check of what its registers name (R335), then it is withheld. -/
def command (i : Instr) (a b c : Fin 64) (checks : State → CmdRegs → List (Bool × Cause)) (s : State) :
    Host.Outcome State Fault Refusal :=
  issue i s fun s =>
    let r := s.cmdRegs a b c
    match checkAll (checks s r) with
    | .error e => .error e
    | .ok _ => match s.spanMisses i r with
      | some va => .error (.raise .phase { Info.none with addr := va, detail := phaseDetail s.cx.regs.phase })
      | none => .ok (s.withholdCmd i r)

/-! ## Shapes (R238) -/

/-- Register c + 1 is needed and cannot be named (R238). -/
def noNext (c : Fin 64) (r : CmdRegs) : Bool := c.val == 63 && (shN1 r.c != 0 || shN2 r.c != 0)

/-- The bytes of an element of a `cred` type; 0 for a code that is none. -/
def credBytes (t : Nat) : Nat :=
  match t with
  | 0x2 => 4 | 0x4 => 4 | 0x6 => 2 | 0x7 => 4 | 0xA => 8 | _ => 0

/-- R237, R238: the shape of a plain copy. -/
def copyChecks (c : Fin 64) (r : CmdRegs) : List (Bool × Cause) := [(bits r.c 48 16 != 0 || noNext c r, .engine)]

/-- R239. -/
def execCpy (n : Fin 16) (f : Fin 32) (a b c : Fin 64) (s : State) : Host.Outcome State Fault Refusal :=
  command (.cpy n f a b c) a b c (fun _ r => copyChecks c r) s

/-- R239. -/
def execCfill (n : Fin 16) (f : Fin 32) (a b c : Fin 64) (s : State) : Host.Outcome State Fault Refusal :=
  command (.cfill n f a b c) a b c (fun _ r => copyChecks c r) s

/-- The checks of `cred` (R238, R239, R336). -/
def credChecks (s : State) (c : Fin 64) (r : CmdRegs) : List (Bool × Cause) :=
  let w := credBytes (shType r.c)
  [(bits r.c 52 3 != 0 || w == 0 || (flag r.c 55 && shType r.c != 6) || noNext c r, .engine),
   (r.a.toNat % w != 0 || r.b.toNat % w != 0 || (shN0 r.c + 1) % w != 0, .align),
   (s.cx.deterministic && (shType r.c == 6 || shType r.c == 7 || shType r.c == 10), .phase)]

/-- R239. -/
def execCred (n : Fin 16) (f : Fin 32) (a b c : Fin 64) (s : State) : Host.Outcome State Fault Refusal :=
  command (.cred n f a b c) a b c (fun s r => credChecks s c r) s

/-- The checks of `cgath` and `cscat` (R238, R240). -/
def listChecks (r : CmdRegs) : List (Bool × Cause) := [(bits r.c 36 28 != 0, .engine), (r.c1.toNat % 4 != 0, .align)]

/-- R240. -/
def execCgath (n : Fin 16) (f : Fin 32) (a b c : Fin 64) (s : State) : Host.Outcome State Fault Refusal :=
  command (.cgath n f a b c) a b c (fun _ r => listChecks r) s

/-- R240. -/
def execCscat (n : Fin 16) (f : Fin 32) (a b c : Fin 64) (s : State) : Host.Outcome State Fault Refusal :=
  command (.cscat n f a b c) a b c (fun _ r => listChecks r) s

/-- R241. -/
def execCbcast (n : Fin 16) (f : Fin 32) (a b c : Fin 64) (s : State) : Host.Outcome State Fault Refusal :=
  command (.cbcast n f a b c) a b c (fun _ r => [(bits r.c 24 40 != 0 || bits r.a 22 42 != 0, .engine)]) s

/-- R242. -/
def execCxfm (n : Fin 16) (f : Fin 32) (a b c : Fin 64) (s : State) : Host.Outcome State Fault Refusal :=
  command (.cxfm n f a b c) a b c (fun _ r => [(r.c.toNat % 32 != 0 || r.c1.toNat % 32 != 0, .align)]) s

/-! ## The stash and weight versions (R361, R362, R368) -/

/-- The key word of `cstash.save` (R361). -/
def saveKeyBad (c : Word) : Bool :=
  decide (5 ≤ bits c 61 3) || bits c 48 9 != 0 || (if bits c 61 3 = 3 then bits c 58 3 == 7 else bits c 57 4 != 0)

/-- R361, R362. -/
def execCstashSave (n : Fin 16) (f : Fin 32) (a b c : Fin 64) (s : State) : Host.Outcome State Fault Refusal :=
  command (.cstashSave n f a b c) a b c (fun _ r => [(saveKeyBad r.c, .engine), (r.b.toNat % 32 != 0, .align)]) s

/-- R361, R362. -/
def execCstashGet (n : Fin 16) (f : Fin 32) (a b c : Fin 64) (s : State) : Host.Outcome State Fault Refusal :=
  command (.cstashGet n f a b c) a b c (fun _ r => [(bits r.c 48 15 != 0, .engine), (r.b.toNat % 32 != 0, .align)]) s

/-- R361, R362. -/
def execCstashPf (n : Fin 16) (f : Fin 32) (c : Fin 64) (s : State) : Host.Outcome State Fault Refusal :=
  command (.cstashPf n f c) 0 0 c (fun _ r => [(bits r.c 48 16 != 0, .engine)]) s

/-- R361, R362. -/
def execCstashDrop (n : Fin 16) (f : Fin 32) (c : Fin 64) (s : State) : Host.Outcome State Fault Refusal :=
  command (.cstashDrop n f c) 0 0 c (fun _ r => [(bits r.c 48 16 != 0, .engine)]) s

/-- The version word's reserved bits (R368). -/
def verBad (a : Word) : Bool := bits a 10 54 != 0 || flag a 7 || flag a 3

/-- R368: the kind is in register a. -/
def execCverFork (n : Fin 16) (f : Fin 32) (a : Fin 64) (s : State) : Host.Outcome State Fault Refusal :=
  command (.cverFork n f a) a 0 0 (fun _ r => [(verBad r.a, .engine)]) s

/-- R368: the kind is in register a. -/
def execCverRetire (n : Fin 16) (f : Fin 32) (a : Fin 64) (s : State) : Host.Outcome State Fault Refusal :=
  command (.cverRetire n f a) a 0 0 (fun _ r => [(verBad r.a, .engine)]) s

/-- R368: the kind is in register a. -/
def execCverSettle (n : Fin 16) (f : Fin 32) (a : Fin 64) (s : State) : Host.Outcome State Fault Refusal :=
  command (.cverSettle n f a) a 0 0 (fun _ r => [(verBad r.a, .engine)]) s

/-! ## Maintenance and pins (R354 to R356) -/

/-- The range of a maintenance command: aligned, not empty, within the address space. -/
def rangeChecks (unit : Nat) (r : CmdRegs) : List (Bool × Cause) :=
  [(r.a.toNat % unit != 0 || r.b.toNat % unit != 0, .align),
   (r.b == 0 || decide (2 ^ 56 < r.a.toNat + r.b.toNat), .engine)]

/-- The control word of `cmaint`: what a kind does not use is reserved. -/
def maintBad (c : Word) : Bool :=
  decide (4 ≤ bits c 0 3) || (if bits c 0 3 = 3 then bits c 4 28 != 0 || bits c 48 16 != 0 || (flag c 3 && bits c 32 16 != 0)
    else bits c 3 61 != 0)

def maintChecks (s : State) (r : CmdRegs) : List (Bool × Cause) :=
  (maintBad r.c, .engine) :: (!s.supervisor && decide (2 ≤ bits r.c 0 3), .priv) ::
    rangeChecks (if bits r.c 0 3 = 3 then 2 ^ 16 else 128) r

/-- R356: the kind is in register c. -/
def execCmaintClean (n : Fin 16) (f : Fin 32) (a b c : Fin 64) (s : State) : Host.Outcome State Fault Refusal :=
  command (.cmaintClean n f a b c) a b c maintChecks s

/-- R356: the kind is in register c. -/
def execCmaintFlush (n : Fin 16) (f : Fin 32) (a b c : Fin 64) (s : State) : Host.Outcome State Fault Refusal :=
  command (.cmaintFlush n f a b c) a b c maintChecks s

/-- R356: the kind is in register c. -/
def execCmaintInval (n : Fin 16) (f : Fin 32) (a b c : Fin 64) (s : State) : Host.Outcome State Fault Refusal :=
  command (.cmaintInval n f a b c) a b c maintChecks s

/-- R356: the kind is in register c. -/
def execCmaintTlb (n : Fin 16) (f : Fin 32) (a b c : Fin 64) (s : State) : Host.Outcome State Fault Refusal :=
  command (.cmaintTlb n f a b c) a b c maintChecks s

def pinChecks (r : CmdRegs) : List (Bool × Cause) := (bits r.c 1 63 != 0, .engine) :: rangeChecks (2 ^ 16) r

/-- R355: register c says which of the two. -/
def execCpin (n : Fin 16) (f : Fin 32) (a b c : Fin 64) (s : State) : Host.Outcome State Fault Refusal :=
  command (.cpin n f a b c) a b c (fun _ r => pinChecks r) s

/-- R355: register c says which of the two. -/
def execCpinUnpin (n : Fin 16) (f : Fin 32) (a b c : Fin 64) (s : State) : Host.Outcome State Fault Refusal :=
  command (.cpinUnpin n f a b c) a b c (fun _ r => pinChecks r) s

/-! ## Channels (R375, R376) -/

/-- A channel's table entry (R375). -/
def State.channelEntry (s : State) (n : Nat) : Word :=
  let k := homeKey s.fabric.coord (bits s.fabric.chbase 12 40 * 4096 + 8 * (n % 256))
  BitVec.ofNat 64 (ofBytes ((List.range 8).map fun i => s.plainByte s.cur.core (k + i)))

def chBound (e : Word) : Bool := flag e 63 && bits e 0 39 == 0
def chMq (e : Word) : Nat := bits e 61 2
def chStage (e : Word) : Fin 8 := ⟨bits e 58 3, Nat.mod_lt _ (by decide)⟩
def chPch (e : Word) : Nat := bits e 50 8
def chPeer (e : Word) : BitVec 11 := field e 39 11

def channelChecks (s : State) (rsv : Bool) (r : CmdRegs) : List (Bool × Cause) :=
  [(rsv || r.b == 0 || decide (2 ^ 24 < r.b.toNat), .engine), (!(chBound (s.channelEntry (bits r.c 0 8))), .engine)]

/-- R376. -/
def execCsend (n : Fin 16) (f : Fin 32) (a b c : Fin 64) (s : State) : Host.Outcome State Fault Refusal :=
  command (.csend n f a b c) a b c (fun s r => channelChecks s (bits r.c 8 24 != 0) r) s

/-- R376. -/
def execCrecv (n : Fin 16) (f : Fin 32) (a b c : Fin 64) (s : State) : Host.Outcome State Fault Refusal :=
  command (.crecv n f a b c) a b c (fun s r => channelChecks s (bits r.c 8 56 != 0) r) s

/-! ## Groups and reductions (R384, R386) -/

/-- A group entry is valid (R384). -/
def groupValid (e : BitVec 512) : Bool :=
  let m := groupMembers e
  !m.isEmpty && (List.range 32).all (fun j => flag (groupSlot e j) 15 == decide (j < m.length)) &&
  (List.range 32).all (fun j => bits (groupSlot e j) 11 4 == 0) &&
  decide (m.eraseDups.length = m.length)

/-- A command is a reduction of a collective. -/
def isNred (c : Word) (o : Command) : Bool :=
  (match o.instr with
   | .cnred _ _ _ _ _ => true
   | _ => false) && bits o.c 54 10 == bits c 54 10 && bits o.c 32 16 == bits c 32 16

/-- A reduction of the package of the same collective is incomplete. -/
def State.nredOpen (s : State) (c : Word) : Bool :=
  (s.cores.any fun (p : Fin 1792 × Core) =>
    ((List.finRange 2).any fun i => (p.2.ctx.get i).commands.any (isNred c)) ||
    (List.finRange 2).any fun q => (p.2.queue.get q).any (isNred c))

def nredChecks (s : State) (r : CmdRegs) : List (Bool × Cause) :=
  [(bits r.c 48 3 != 0 || bits r.c 28 4 != 0 || bits r.c 0 28 == 0 || decide (2 ≤ bits r.c 52 2), .engine),
   (!((groupMembers (s.groupEntry (bits r.c 54 10))).contains s.fabric.coord), .engine),
   (s.nredOpen r.c, .engine),
   (r.b.toNat % nredBytes r.c != 0 || (s.receives r.c && r.a.toNat % nredBytes r.c != 0), .align)]

/-- R386. -/
def execCnred (n : Fin 16) (f : Fin 32) (a b c : Fin 64) (s : State) : Host.Outcome State Fault Refusal :=
  command (.cnred n f a b c) a b c nredChecks s

/-- R384. -/
def execCmcast (n : Fin 16) (f : Fin 32) (a b : Fin 64) (s : State) : Host.Outcome State Fault Refusal :=
  command (.cmcast n f a b) a b 0 (fun s r => [(!s.supervisor, .priv), (r.a.toNat % 64 != 0, .align)]) s

/-! ## Ring collectives (R390) -/

def ringChecks (s : State) (r : CmdRegs) : List (Bool × Cause) :=
  let n := s.fabric.ndom.val
  let k := ringKind r.c
  [(bits r.c 36 12 != 0 || bits r.c 27 4 != 0 || decide (n ≤ 1) || decide (n < ringStep r.c + 2) || ringCount r.c == 0 ||
      ringCount r.c % (32 * n) != 0, .engine),
   (r.a.toNat % 4 != 0 || (decide (k ≤ 1) && r.b.toNat % 4 != 0) || (k == 1 && r.c1.toNat % 32 != 0), .align)]

/-- R390: the kind is in register c. -/
def execCringReduceScatter (n : Fin 16) (f : Fin 32) (a b c : Fin 64) (s : State) : Host.Outcome State Fault Refusal :=
  command (.cringReduceScatter n f a b c) a b c ringChecks s

/-- R390: the kind is in register c. -/
def execCringAllGather (n : Fin 16) (f : Fin 32) (a b c : Fin 64) (s : State) : Host.Outcome State Fault Refusal :=
  command (.cringAllGather n f a b c) a b c ringChecks s

/-- R390: the kind is in register c. -/
def execCringReduceScatterF32 (n : Fin 16) (f : Fin 32) (a b c : Fin 64) (s : State) : Host.Outcome State Fault Refusal :=
  command (.cringReduceScatterF32 n f a b c) a b c ringChecks s

/-- R390: the kind is in register c. -/
def execCringAllGatherF32 (n : Fin 16) (f : Fin 32) (a b c : Fin 64) (s : State) : Host.Outcome State Fault Refusal :=
  command (.cringAllGatherF32 n f a b c) a b c ringChecks s

end Sys2Proof.Machine
end

