-- ==== Sys2Proof/Machine/Engines.lean ====
section
/-! DEFINITION. The copy engines (R237 to R243): pins, the movement of bytes with their lost tags, and the copy commands'
work. -/

namespace Sys2Proof.Machine

/-! ## Commands -/

/-- The registers a command carries. -/
def Command.regs (c : Command) : CmdRegs := { a := c.a, b := c.b, c := c.c, c1 := c.c1 }

def Command.path (c : Command) : Path := cmdPath c.instr
def Command.core (c : Command) : Fin 1792 := c.owner.ctx.core

def Command.author (c : Command) : Author :=
  { owner := c.owner, path := some c.path, cmd := some c.id, cls := cmdClass c.instr, scope := c.scope }

/-! ## Pins (R237) -/

/-- The core whose window a physical address lies in. -/
def coreAt (pa : Nat) : Fin 1792 := ⟨windowCore pa % 1792, Nat.mod_lt _ (by decide)⟩

/-- The place refuses an engine's access. Core control takes aligned 8-byte accesses, one after another (R224, R228); an
atomic reaches no space but the scratchpads (R232, R239). -/
def State.engineRefuses (s : State) (c : Command) (va : BitVec 56) (l : Loc) (n : Nat) (a : Acc) : Bool :=
  let pa := l.pa.toNat
  if isWindow pa && windowSpace pa == 5 then
    va.toNat % 8 != 0 || n % 8 != 0 ||
    (List.range (n / 8)).any fun i => s.refuses c.core (va + BitVec.ofNat 56 (8 * i)) (l.add (8 * i)) 8 a .engine c.sup
  else s.refuses c.core va l n a .engine c.sup || (a == .atomic && isWindow pa && windowSpace pa != 0)

/-- The pieces of an engine's access, each translated at the command's privilege and allowed; the first failure is the
command's error status (R237, R335, R351). -/
def State.pin (s : State) (c : Command) (a : Acc) (l : List (BitVec 56 × Nat)) : Except Cause (List Piece) :=
  match l with
  | [] => .ok []
  | (va, n) :: l =>
    match s.translate c.core c.ptroot c.sup a va with
    | .error e => .error e.cause
    | .ok loc =>
      if s.engineRefuses c va loc n a then .error .prot
      else if c.det && s.phaseMisses (fun o => o.serial == c.owner.serial) c.phase c.path a loc n then .error .phase
      else match s.pin c a l with
        | .error e => .error e
        | .ok ps => .ok ({ va := va, loc := loc, len := n } :: ps)

/-- As `pin`, for n bytes from a 64-bit address on. -/
def State.pinSpan (s : State) (c : Command) (a : Acc) (va n : Nat) : Except Cause (List Piece) :=
  if 2 ^ 56 < va + n then .error .xlate else s.pin c a (pagePieces (BitVec.ofNat 56 va) n (n / 2 ^ 16 + 2))

/-- Pinned pages stand in the TLBs (R237, R352). -/
def State.touchPieces (s : State) (c : Command) (ps : List Piece) : State :=
  ps.foldl (fun s p => s.touch c.owner.ctx c.ptroot p.va) s

/-- The pages of a span are looked up as far as the first that fails (R352). -/
def State.lookPages (s : State) (c : Command) (a : Acc) (l : List (BitVec 56 × Nat)) : State :=
  match l with
  | [] => s
  | (va, n) :: l =>
    let t := s.lookUp c.owner.ctx c.ptroot va
    match s.pin c a [(va, n)] with
    | .error _ => t
    | .ok _ => t.lookPages c a l

/-- As `lookPages`, of spans in turn. -/
def State.lookSpans (s : State) (c : Command) (l : List Span) : State :=
  match l with
  | [] => s
  | w :: l =>
    let t := if 2 ^ 56 < w.va + w.len then s else s.lookPages c w.acc (pagePieces (BitVec.ofNat 56 w.va) w.len (w.len / 2 ^ 16 + 2))
    match s.pinSpan c w.acc w.va w.len with
    | .error _ => t
    | .ok _ => t.lookSpans c l

/-- A piece belongs to a package that has been declared dead (R398). -/
def State.deadPiece (s : State) (ps : List Piece) : Bool := ps.any fun p => s.homeDead p.loc.home

/-! ## Reading -/

/-- Byte i of a piece as a command reads it, and whether it makes what it feeds lost (R201, R227, R228, R243). -/
def State.engineByte (s : State) (c : Command) (p : Piece) (i : Nat) : (Byte × Bool) × State :=
  let pa := p.loc.pa.toNat + i
  let k := coreAt pa
  let o := windowOff pa
  if isWindow pa && windowSpace pa == 5 then ((field (s.readCoreCtl k (o / 8 * 8)) (8 * (o % 8)) 8, false), s)
  else if isWindow pa && windowSpace pa == 3 then (s.readWindowReg k o, s)
  else if isWindow pa && windowSpace pa == 1 && inRecordArea o then
    (((s.recordArea k ⟨o / 2 ^ 16 % 4, Nat.mod_lt _ (by decide)⟩).getD (o % 2 ^ 8) 0, false), s)
  else
    let (r, s) := s.readAs c.owner c.path 0 (p.loc.add i) 1
    ((r.bytes.getD 0 0, r.lost), s)

/-- Byte i of a span. -/
def State.sourceByte (s : State) (c : Command) (ps : List Piece) (i : Nat) : (Byte × Bool) × State :=
  match ps with
  | [] => ((0, false), s)
  | p :: ps => if i < p.len then s.engineByte c p i else s.sourceByte c ps (i - p.len)

/-- n bytes of a span from an offset on. -/
def State.sourceBytes (s : State) (c : Command) (ps : List Piece) (i n : Nat) : List (Byte × Bool) × State :=
  match n with
  | 0 => ([], s)
  | n + 1 =>
    let (b, s) := s.sourceByte c ps i
    let (l, s) := s.sourceBytes c ps (i + 1) n
    (b :: l, s)

/-- An element of n bytes of a span: one single-copy atomic read where it lies in one piece of plain memory (R249). -/
def State.sourceElem (s : State) (c : Command) (ps : List Piece) (i n : Nat) : List (Byte × Bool) × State :=
  match ps with
  | [] => ([], s)
  | p :: ps =>
    if p.len ≤ i then s.sourceElem c ps (i - p.len) n
    else if p.len < i + n || isWindow (p.loc.pa.toNat + i) then s.sourceBytes c (p :: ps) i n
    else
      let (r, s) := s.readAs c.owner c.path 0 (p.loc.add i) n
      (r.bytes.map (·, r.lost), s)

def spanLen (ps : List Piece) : Nat := (ps.map (·.len)).sum

/-- A whole span. -/
def State.readSpan (s : State) (c : Command) (ps : List Piece) : List (Byte × Bool) × State := s.sourceBytes c ps 0 (spanLen ps)

/-! ## Writing -/

/-- A command as it moves its bytes: what it has written, and the error that stopped it. -/
structure Move where
  s   : State
  ws  : List ByteWrite
  err : Option Cause

def Move.start (s : State) : Move := { s := s, ws := [], err := none }

def Move.fail (m : Move) (e : Cause) : Move := { m with err := some e }

/-- A place lies in memory that the control complex has reserved for itself (R344, R393). -/
def State.reserved (s : State) (l : Loc) : Bool :=
  l.home == s.fabric.coord && s.mgmt.reserve.any fun r => decide (r.1 ≤ l.pa.toNat) && decide (l.pa.toNat < r.1 + r.2)

/-- A single-copy atomic unit of bytes is written at a place; the first refusal, dead home, or lost byte for the control
complex stops the command (R243, R249, R367, R393, R398). -/
def Move.putUnit (m : Move) (c : Command) (l : Loc) (b : List (Byte × Bool)) : Move :=
  if m.err.isSome then m
  else if m.s.homeDead l.home || (b.any (·.2) && m.s.reserved l) then m.fail .contain
  else if m.s.homeRefuses l b.length then m.fail .prot
  else
    let s := m.s.privatise l
    let ws : List ByteWrite := b.mapIdx fun i x => { key := s.keyOf (l.add i), val := x.1, lost := x.2 }
    let s := if isWindow l.pa.toNat then s else s.dirtyHome (ws.map (·.key))
    { m with s := (s.writeUnit c.author ws).tagAll c.author (ws.filter (·.lost)), ws := ws.reverse ++ m.ws }

/-- One byte is written at a place. -/
def Move.put (m : Move) (c : Command) (l : Loc) (b : Byte × Bool) : Move := m.putUnit c l [b]

/-- What a command writes at an offset of its row: read when the byte moves. -/
abbrev Source := State → Nat → (Byte × Bool) × State

/-- Bytes i to i + n − 1 of a source, all read at once. -/
def readMany (src : Source) (s : State) (i n : Nat) : List (Byte × Bool) × State :=
  match n with
  | 0 => ([], s)
  | n + 1 =>
    let (b, s) := src s i
    let (l, s) := readMany src s (i + 1) n
    (b :: l, s)

/-- The writes of core control by a copy, 8 bytes at a time (R228). -/
def Move.putCtl (m : Move) (c : Command) (pa : Nat) (l : List (Byte × Bool)) (n : Nat) : Move :=
  match n with
  | 0 => m
  | n + 1 =>
    if m.err.isSome then m
    else
      let v : Word := BitVec.ofNat 64 (ofBytes ((l.take 8).map (·.1)))
      let m := match m.s.writeCoreCtl (coreAt pa) (windowOff pa) v with
        | .done s => { m with s := s }
        | .bad _ => m.fail .engine
        | .wait s => { m with s := { s with ctlWrites := s.ctlWrites ++
            [({ core := coreAt pa, off := BitVec.ofNat 22 (windowOff pa), val := v, writer := .copy c.id } : CtlWrite)] } }
      m.putCtl c (pa + 8) (l.drop 8) n

/-- Bytes into the register window (R227). -/
def Move.putRegs (m : Move) (c : Command) (pa : Nat) (l : List (Byte × Bool)) : Move :=
  match m.s.writeWindow c.id (coreAt pa) (windowOff pa) l (l.length + 1) with
  | .ok s => { m with s := s }
  | .error e => m.fail e

/-- Bytes move one at a time, in ascending order (R239). -/
def Move.bytes (m : Move) (c : Command) (l : Loc) (src : Source) (off i n : Nat) : Move :=
  match n with
  | 0 => m
  | n + 1 =>
    if m.err.isSome then m
    else
      let (b, s) := src m.s (off + i)
      ({ m with s := s }.put c (l.add i) b).bytes c l src off (i + 1) n

/-- A piece of a destination row whose first byte is byte `off` of the row. Whether a lane group of the register window is
written whole is judged piece by piece (DESIGN CHOICE, notes/assumptions/113.md). -/
def Move.piece (m : Move) (c : Command) (p : Piece) (src : Source) (off : Nat) : Move :=
  if m.err.isSome then m
  else
    let pa := p.loc.pa.toNat
    if isWindow pa && (windowSpace pa == 3 || windowSpace pa == 5) then
      let (l, s) := readMany src m.s off p.len
      let m := { m with s := s }
      if windowSpace pa == 3 then m.putRegs c pa l
      else if pa % 8 ≠ 0 ∨ p.len % 8 ≠ 0 then m.fail .prot
      else m.putCtl c pa l (p.len / 8)
    else m.bytes c p.loc src off 0 p.len

/-- A destination row. -/
def Move.row (m : Move) (c : Command) (dst : List Piece) (src : Source) (off : Nat) : Move :=
  match dst with
  | [] => m
  | p :: dst => (m.piece c p src off).row c dst src (off + p.len)

/-- The part of a span from an offset on, n bytes long. -/
def sliceSpan (ps : List Piece) (off n : Nat) : List Piece :=
  match ps with
  | [] => []
  | p :: ps =>
    if p.len ≤ off then sliceSpan ps (off - p.len) n
    else
      let k := min n (p.len - off)
      if n = 0 then [] else { va := p.va + BitVec.ofNat 56 off, loc := p.loc.add off, len := k } :: sliceSpan ps 0 (n - k)

/-- The source that bytes already read make. -/
def listSource (l : List (Byte × Bool)) : Source := fun s i => (l.getD i (0, false), s)

/-- A command that has moved what it could waits for its completion; a sector it has written whole from clean data is
clean (R265). -/
def Done.of (c : Command) (err : Option Cause) : Done :=
  { cmd := c, err := err, lost := false, outside := false, dst := none, late := none, began := 0, obj := none }

def State.pushDone (s : State) (d : Done) : State :=
  s.modCore d.cmd.core fun k => { k with done := k.done ++ [{ d with began := s.nextId }] }

/-- The tags of the sectors that a command has written. -/
def Move.settle (m : Move) (c : Command) : State := m.s.tagAll c.author m.ws

def Move.lost (m : Move) : Bool := m.ws.any (·.lost)

def Move.finish (m : Move) (c : Command) : State := (m.settle c).pushDone { Done.of c m.err with lost := m.lost }

/-- A command that fails before it moves anything. -/
def State.failNow (s : State) (c : Command) (e : Cause) : State := s.pushDone (Done.of c (some e))

/-- A command whose pin of some spans fails: what it has looked up is counted. -/
def State.failPin (s : State) (c : Command) (l : List Span) (e : Cause) : State := (s.lookSpans c l).failNow c e

/-- As `failPin`, of the spans that its registers name. -/
def State.failPins (s : State) (c : Command) (e : Cause) : State := s.failPin c (s.commandSpans c.instr c.regs) e

/-! ## Rows (R238, R239) -/

/-- Every row's pages are pinned before the first byte moves; a command without a source reads none (R237). -/
def State.pinRows (s : State) (c : Command) (a : Acc) (sourced : Bool) (n : Nat) (l : List (Nat × Nat)) : Except Cause (List Row) :=
  match l with
  | [] => .ok []
  | (d, b) :: l =>
    match s.pinSpan c a d n with
    | .error e => .error e
    | .ok ds => match (if sourced then s.pinSpan c .read b n else .ok []) with
      | .error e => .error e
      | .ok bs => match s.pinRows c a sourced n l with
        | .error e => .error e
        | .ok rs => .ok ({ va := BitVec.ofNat 56 d, dst := ds, src := bs, len := n } :: rs)

def State.touchRows (s : State) (c : Command) (l : List Row) : State := l.foldl (fun s r => s.touchPieces c (r.dst ++ r.src)) s

/-- The bytes of a span before the first that its scratchpad no longer holds (R222). -/
def State.heldSpan (s : State) (ps : List Piece) : Nat :=
  match ps with
  | [] => 0
  | p :: ps =>
    let pa := p.loc.pa.toNat
    let c := coreAt pa
    let part : Fin 2 := if windowOff pa < 2 ^ 21 then 0 else 1
    if isWindow pa && windowSpace pa == 0 && !(s.scratchHolds c (windowOff pa) p.len) then
      2 ^ 16 * s.spOf { core := c, slot := part } - windowOff pa % 2 ^ 21
    else p.len + s.heldSpan ps

/-- A row moves, unless a package it touches has been declared dead: what has moved before stays, and so do the bytes before
the first that a share shrunk since the pin no longer holds (R222, R243, R398). -/
def Move.rowWith (m : Move) (c : Command) (r : Row) (src : Source) : Move :=
  let n := m.s.heldSpan r.src
  if m.err.isSome then m
  else if m.s.deadPiece (r.src ++ r.dst) then m.fail .contain
  else if r.src.isEmpty || decide (r.len ≤ n) then m.row c r.dst src 0
  else
    let t := m.row c (sliceSpan r.dst 0 n) src 0
    if t.err.isSome then t else t.fail .prot

def rowSource (c : Command) (r : Row) : Source := fun s i => s.sourceByte c r.src i

/-- `cfill`: the pattern byte of a destination address (R239). -/
def fillSource (c : Command) (r : Row) : Source := fun s i => ((field c.b (8 * ((r.va.toNat + i) % 8)) 8, false), s)

/-! ## Reductions in place (R239, R265) -/

/-- The new value of an element. -/
def credValue (c : Command) (va : BitVec 56) (old x : Nat) : Nat :=
  match shType c.c with
  | 0x6 => (FFmt.bf16.add (if flag c.c 55 then .sr (srbits c.seed va (field c.c 56 8) 16) 16 else .rne) old x).1
  | 0x7 => (FFmt.f32.add .rne old x).1
  | 0xA => (FFmt.f64.add .rne old x).1
  | _ => (old + x) % 2 ^ 32

/-- The place of byte i of a span. -/
def placeOf (ps : List Piece) (i : Nat) : Loc :=
  match ps with
  | [] => { home := 0, pa := 0, ver := none }
  | p :: ps => if i < p.len then p.loc.add i else placeOf ps (i - p.len)

/-- The elements of a row, each one atomic: a lost sector on either side makes the sector lost. -/
def Move.elements (m : Move) (c : Command) (r : Row) (w i n : Nat) : Move :=
  match n with
  | 0 => m
  | n + 1 =>
    if m.err.isSome then m
    else
      let (x, s) := m.s.sourceElem c r.src i w
      let l := placeOf r.dst i
      let k := s.keyOf l
      let s := s.obtain (k / 128)
      let lost := s.lostAt k || x.any (·.2)
      let v := credValue c (r.va + BitVec.ofNat 56 i) (ofBytes (s.bytesAt k w)) (ofBytes (x.map (·.1)))
      ({ m with s := s }.putUnit c l ((bytesOf w v).map (·, lost))).elements c r w (i + w) n

/-- A row of a reduction. -/
def Move.rowInto (m : Move) (c : Command) (r : Row) : Move :=
  let w := credBytes (shType c.c)
  if m.err.isSome then m
  else if m.s.deadPiece (r.src ++ r.dst) then m.fail .contain
  else
    let n := m.s.heldSpan r.src
    let t := m.elements c r w 0 (min r.len n / w)
    if t.err.isSome || decide (r.len ≤ n) then t else t.fail .prot

/-! ## Tensor header records (R92) -/

def hdrFmt (h : BitVec 256) : Nat := bits h 0 8
def hdrBlen (h : BitVec 256) : Nat := bits h 8 8
def hdrPtab (h : BitVec 256) : BitVec 16 := field h 16 16
def hdrHad (h : BitVec 256) : Nat := bits h 32 2
def hdrRank (h : BitVec 256) : Nat := bits h 34 2
def hdrSeed (h : BitVec 256) : Word := field h 64 64
def hdrScale (h : BitVec 256) : FVal := FFmt.f32.decode (bits h 128 32)
def hdrDim (h : BitVec 256) (i : Nat) : Nat := bits h (160 + 32 * i) 32
def hdrDims (h : BitVec 256) : Nat := bits h 160 96
def hdrBfp (h : BitVec 256) : Bool := hdrFmt h / 16 == 1
def hdrM (h : BitVec 256) : Nat := hdrFmt h % 16

/-- The format of an element tensor. -/
def hdrElem (h : BitVec 256) : XFmt := xfmt (field h 0 4)
def hdrWidth (h : BitVec 256) : Nat := codeWidth (field h 0 4)

/-- A record is valid (R92). -/
def hdrValid (h : BitVec 256) : Bool :=
  let lo := hdrFmt h % 16
  ((hdrFmt h / 16 == 0 && decide (lo ≤ 0xA) && hdrBlen h == 0) ||
    (hdrBfp h && decide (2 ≤ lo) && decide (lo ≤ 8) && (hdrBlen h == 16 || hdrBlen h == 32))) &&
  decide (hdrRank h ≤ 2) && ((List.range 3).all fun i => hdrDim h i != 0 && (decide (i ≤ hdrRank h) || hdrDim h i == 1)) &&
  bits h 36 28 == 0 && (match hdrScale h with
    | .num _ _ _ => true
    | _ => false)

/-- The rows of a tensor. -/
def hdrRows (h : BitVec 256) : Nat := hdrDim h 1 * hdrDim h 2

/-- The bytes of a row in memory (R242). -/
def hdrRowBytes (h : BitVec 256) : Nat :=
  if hdrBfp h then bfpExps (hdrBlen h) (hdrDim h 0) + bfpMants (hdrM h) (hdrDim h 0) else hdrDim h 0 * hdrWidth h / 8

/-- The values of a BFP row of d elements. -/
def bfpRow (b m d : Nat) (x : List Byte) : List FVal :=
  let q := ofBytes (x.drop (bfpExps b d))
  (List.range d).map fun i => bfpValue m (x.getD (i / b) 0).toNat (pos m q i)

/-- The values of a row, its tensor scale aside (R88, R90). -/
def hdrDecode (h : BitVec 256) (x : List Byte) : List FVal :=
  if hdrBfp h then bfpRow (hdrBlen h) (hdrM h) (hdrDim h 0) x
  else
    let v := ofBytes x
    (List.range (hdrDim h 0)).map fun i => (hdrElem h).value (pos (hdrWidth h) v i)

/-- The values of blocks of b elements; the last may be partial, its other positions zero (R171). -/
def blocksOf (b : Nat) (xs : List FVal) : List (List FVal) :=
  (List.range ((xs.length + b - 1) / b)).map fun j => (List.range b).map fun i => xs.getD (j * b + i) (.num false 0 0)

/-- A BFP row's exponents and mantissas (R167). -/
structure BfpRow where
  exps  : List Nat
  mants : List Nat
deriving DecidableEq, Repr

def bfpQuant (b m : Nat) (xs : List FVal) : BfpRow :=
  let qs := (blocksOf b xs).map (quantBlock m)
  { exps := qs.map (·.ex), mants := (qs.flatMap (·.qs)).take xs.length }

/-- The record of a BFP row (R242). -/
def BfpRow.bytes (r : BfpRow) (b m : Nat) : List Byte :=
  let d := r.mants.length
  padTo (bfpExps b d) (r.exps.map (BitVec.ofNat 8)) ++ bytesOf (bfpMants m d) (ofPositions m r.mants)

/-- A row's bytes from its values. -/
def hdrEncode (h : BitVec 256) (xs : List FVal) : List Byte :=
  if hdrBfp h then (bfpQuant (hdrBlen h) (hdrM h) xs).bytes (hdrBlen h) (hdrM h)
  else bytesOf (hdrDim h 0 * hdrWidth h / 8) (ofPositions (hdrWidth h) (xs.map fun v => ((hdrElem h).convert .rne v).1))

/-! ## `cxfm` (R242) -/

/-- The exponent that quotients are taken to: below every grid a value is rounded to. -/
def quotientExp : Int := -2600

/-- x / y for a finite nonzero y, exactly as far as any later rounding can tell: bits below the lowest are joined into
one. -/
def divVal (x y : FVal) : FVal :=
  match x, y with
  | .num s n e, .num t k f =>
    let sh := (e - f - quotientExp).toNat
    let q := n * 2 ^ sh / k
    .num (s != t) (2 * q + (if n * 2 ^ sh % k = 0 then 0 else 1)) (e - f - sh - 1)
  | .inf s, .num t _ _ => .inf (s != t)
  | x, _ => x

/-- The first d entries of the table store, each below d. -/
def tableFirst (k : Core) (d : Nat) : List Nat := (k.tbl.take d).map (·.toNat)

/-- The checks of the two records (R92, R242). -/
def xfmOk (k : Core) (src dst : BitVec 256) : Bool :=
  let d := hdrDim src 0
  hdrValid src && hdrValid dst && hdrRank src == hdrRank dst && hdrDims src == hdrDims dst &&
  hdrPtab src == 0xFFFF && hdrHad src == 0 &&
  (hdrPtab dst == 0xFFFF || (hdrPtab dst == k.tblId && decide (d ≤ k.tblLen) && (tableFirst k d).all fun t => decide (t < d))) &&
  (hdrHad dst == 0 || d % (16 * 2 ^ (hdrHad dst - 1)) == 0)

/-- A row's values after the rotation: permuted and transformed in `f32` where the destination asks for it. -/
def rotateRow (tbl : List Nat) (dst : BitVec 256) (row : Nat) (xs : List FVal) : List FVal :=
  if hdrPtab dst == 0xFFFF && hdrHad dst == 0 then xs
  else
    let fs := xs.map fun v => (FFmt.f32.encode .rne v).1
    let fs := if hdrPtab dst == 0xFFFF then fs else tbl.map fun t => fs.getD t 0
    let fs := if hdrHad dst == 0 then fs else (hadamard (hdrHad dst - 1) false (hdrSeed dst) (BitVec.ofNat 64 (row * fs.length)) fs).1
    fs.map FFmt.f32.decode

/-- A row of the destination from a row of the source. -/
def xfmRow (tbl : List Nat) (src dst : BitVec 256) (row : Nat) (x : List Byte) : List Byte :=
  hdrEncode dst ((rotateRow tbl dst row ((hdrDecode src x).map fun v => (mulVal v (hdrScale src)).v)).map fun v => divVal v (hdrScale dst))

/-- A destination scale of zero leaves every element's value unstated: the row's bytes are free
(notes/assumptions/30.md). -/
def State.xfmBytes (s : State) (tbl : List Nat) (src dst : BitVec 256) (row : Nat) (x : List Byte) : List Byte × State :=
  if bits dst 128 31 = 0 then
    ((List.range (hdrRowBytes dst)).map fun i => Config.freeByte (s.free + i), { s with free := s.free + hdrRowBytes dst })
  else (xfmRow tbl src dst row x, s)

/-! ## Row by row (R237, R239, R243) -/

/-- A row of a tensor, whose number stands in place of its address: a lost byte read makes the whole destination row
lost (R242). -/
def Move.rowXfm (m : Move) (c : Command) (x : Xfm) (r : Row) : Move :=
  if m.err.isSome then m
  else if m.s.deadPiece (r.src ++ r.dst) then m.fail .contain
  else if m.s.heldSpan r.src < r.len then m.fail .prot
  else
    let (b, s) := m.s.readSpan c r.src
    let (y, s) := s.xfmBytes x.table x.src x.dst r.va.toNat (b.map (·.1))
    let lost := x.bad || b.any (·.2)
    ({ m with s := s } : Move).row c r.dst (listSource (y.map (·, lost))) 0

/-- A row of a command moves. -/
def Move.rowFor (m : Move) (v : Moving) (r : Row) : Move :=
  let c := v.cmd
  match v.xfm, c.instr with
  | some x, _ => m.rowXfm c x r
  | none, .cred _ _ _ _ _ => m.rowInto c r
  | none, .cfill _ _ _ _ _ => m.rowWith c r (fillSource c r)
  | none, _ => m.rowWith c r (rowSource c r)

/-- The next row of a copy moves; with the last, or at an error, what has moved is settled. Between two rows a
share that it reads or writes may be refused to it (R222). -/
def State.moveNext (s : State) (v : Moving) : State :=
  let rest (k : Core) : List Moving := k.moving.filter fun u => u.cmd.id != v.cmd.id
  match v.rows with
  | [] => s
  | r :: rs =>
    let m := ({ s := s, ws := v.ws, err := none } : Move).rowFor v r
    if m.err.isSome || rs.isEmpty then (m.finish v.cmd).modCore v.cmd.core fun k => { k with moving := rest k }
    else m.s.modCore v.cmd.core fun k => { k with moving := { v with rows := rs, ws := m.ws } :: rest k }

/-- A copy with its pages pinned: its rows are to move. -/
def State.beginMove (s : State) (v : Moving) : State :=
  s.modCore v.cmd.core fun k => { k with moving := v :: k.moving.filter fun u => u.cmd.id != v.cmd.id }

/-- The spans of rows of n bytes. -/
def rowSpans (a : Acc) (sourced : Bool) (n : Nat) (l : List (Nat × Nat)) : List Span :=
  l.flatMap fun p => { acc := a, va := p.1, len := n } :: (if sourced then [{ acc := .read, va := p.2, len := n }] else [])

/-- A copy of rows begins: its pages are pinned. -/
def State.copyWith (s : State) (c : Command) (a : Acc) (sourced : Bool) (n : Nat) (l : List (Nat × Nat)) : State :=
  match s.pinRows c a sourced n l with
  | .error e => s.failPin c (rowSpans a sourced n l) e
  | .ok rs => (s.touchRows c rs).beginMove { cmd := c, rows := rs, ws := [], xfm := none }

/-- R239. -/
def State.runCpy (s : State) (c : Command) : State := s.copyWith c .write true (shN0 c.c + 1) (rowAddrs c.regs)

/-- R239. -/
def State.runCfill (s : State) (c : Command) : State := s.copyWith c .write false (shN0 c.c + 1) (rowAddrs c.regs)

/-- R239. -/
def State.runCred (s : State) (c : Command) : State := s.copyWith c .atomic true (shN0 c.c + 1) (rowAddrs c.regs)

/-! ## Gather, scatter, broadcast (R240, R241) -/

/-- The rows of a gather or a scatter by their indices. -/
def listRows (c : Command) (scatter : Bool) (idx : List Nat) : List (Nat × Nat) :=
  let rb := shN0 c.c + 1
  idx.zipIdx.map fun (x, k) =>
    if scatter then ((c.a.toNat + x * rb) % 2 ^ 64, (c.b.toNat + k * rb) % 2 ^ 64)
    else ((c.a.toNat + k * rb) % 2 ^ 64, (c.b.toNat + x * rb) % 2 ^ 64)

/-- R240: a lost index, or a list in a dead package, moves nothing. -/
def State.runList (s : State) (c : Command) (scatter : Bool) : State :=
  let n := shN1 c.c + 1
  match s.pinSpan c .read c.c1.toNat (4 * n) with
  | .error e => s.failPin c [{ acc := .read, va := c.c1.toNat, len := 4 * n }] e
  | .ok ps =>
    let (b, t) := (s.touchPieces c ps).readSpan c ps
    if s.deadPiece ps || b.any (·.2) then t.failNow c .contain
    else
      let bs := b.map (·.1)
      t.copyWith c .write true (shN0 c.c + 1) (listRows c scatter ((List.range n).map fun k => leAt bs (4 * k) 4))

/-- R241: the targets in turn, by rising number. What a target receives is read as its row moves (DESIGN CHOICE,
notes/assumptions/108.md). -/
def State.runCbcast (s : State) (c : Command) : State :=
  let n := shN0 c.c + 1
  let off := bits c.a 0 22
  let cores := (List.range 64).filter fun i => flag c.c1 i
  if cores.isEmpty then s.pushDone (Done.of c none)
  else match s.pinSpan c .read c.b.toNat n with
    | .error e => s.failPins c e
    | .ok ps =>
      match cores.mapM fun i => s.pin c .write [(aliasVa i off, n)] with
      | .error e => s.failPins c e
      | .ok ds => (s.touchPieces c ps).beginMove {
          cmd := c, rows := (cores.zip ds).map fun d => { va := aliasVa d.1 off, dst := d.2, src := ps, len := n }, ws := [], xfm := none }

/-! ## The start of a transformation (R242) -/

/-- A header record as a command reads it, and whether a byte of it is lost. -/
def State.readHeader (s : State) (c : Command) (ps : List Piece) : (BitVec 256 × Bool) × State :=
  let (b, s) := s.readSpan c ps
  ((BitVec.ofNat 256 (ofBytes (b.map (·.1))), b.any (·.2)), s)

/-- R242. -/
def State.runCxfm (s : State) (c : Command) : State :=
  match s.pinSpan c .read c.c.toNat 32, s.pinSpan c .read c.c1.toNat 32 with
  | .error e, _ => s.failPins c e
  | _, .error e => s.failPins c e
  | .ok p, .ok q =>
    let (src, t) := (s.touchPieces c (p ++ q)).readHeader c p
    let (dst, t) := t.readHeader c q
    if s.deadPiece (p ++ q) then t.failNow c .contain
    else
      let k := t.core c.core
      if !(xfmOk k src.1 dst.1) then t.failNow c .engine
      else
        let n := hdrRows src.1
        let from_ : Span := { acc := .read, va := c.b.toNat, len := n * hdrRowBytes src.1 }
        let into : Span := { acc := .write, va := c.a.toNat, len := n * hdrRowBytes dst.1 }
        match t.pinSpan c .read from_.va from_.len, t.pinSpan c .write into.va into.len with
        | .error e, _ => t.failPin c [from_] e
        | _, .error e => t.failPin c [from_, into] e
        | .ok f, .ok d =>
          if t.deadPiece (f ++ d) then t.failNow c .contain
          else (t.touchPieces c (f ++ d)).beginMove {
            cmd := c, ws := []
            rows := (List.range n).map fun i => {
              va := BitVec.ofNat 56 i, len := hdrRowBytes src.1
              dst := sliceSpan d (i * hdrRowBytes dst.1) (hdrRowBytes dst.1)
              src := sliceSpan f (i * hdrRowBytes src.1) (hdrRowBytes src.1) }
            xfm := some { src := src.1, dst := dst.1, bad := src.2 || dst.2, table := tableFirst k (hdrDim src.1 0) } }

end Sys2Proof.Machine
end

