-- ==== Sys2Proof/Machine/Stash.lean ====
section
/-! DEFINITION. The stash (R357 to R365): puts and gets with their records, treatments and budgets, and what a command
does to the directory as it completes. -/

namespace Sys2Proof.Machine

/-! ## Keys and budgets -/

/-- The treatment a put names (R359, R361). -/
def saveTr (c : Word) : Nat := bits c 61 3

/-- The key of a command (R357, R361). -/
def Command.stashKey (c : Command) : Fin 8 × BitVec 16 × BitVec 32 := (teamStage c.team, field c.c 32 16, field c.c 0 32)

def StashObj.key (o : StashObj) : Fin 8 × BitVec 16 × BitVec 32 := (o.stage, o.layer, o.tag)

def State.findStash (s : State) (k : Fin 8 × BitVec 16 × BitVec 32) : Option StashObj := s.stash.find? (·.key == k)

def State.dropStash (s : State) (k : Fin 8 × BitVec 16 × BitVec 32) : State := { s with stash := s.stash.filter (·.key != k) }

/-- n bytes more fit the stage's budget of a pool (R358, R359). -/
def State.stashFits (s : State) (k : Fin 8) (far : Bool) (n : Nat) : Bool :=
  decide (s.stashUse k far + n ≤ bits (s.stbud.get k) (if far then 32 else 0) 32 * 2 ^ 16)

/-- Where a put's object goes, and the size it is charged (R357, R359). -/
def State.stashPlace (s : State) (o : StashObj) (tr : Nat) : Option (Fin 4 × Nat) :=
  let near := s.stashFits o.stage false o.near
  let far := s.stashFits o.stage true o.far
  match tr with
  | 0 => if near then some (0, o.near) else if far then some (1, o.far) else none
  | 1 => if near then some (0, o.near) else none
  | 2 => if far then some (1, o.far) else none
  | 3 => if near then some (2, o.near) else none
  | _ => some (3, 0)

/-! ## Lossy rows (R360) -/

/-- Mantissa bits and block length of a lossy put (R361). -/
def saveM (c : Word) : Nat := bits c 58 3 + 2
def saveB (c : Word) : Nat := if flag c 57 then 32 else 16

/-- The table store's first d entries are a permutation of 0 to d − 1. -/
def tableBijection (k : Core) (d : Nat) : Bool :=
  decide (d ≤ k.tblLen) && (List.range d).all fun j => (tableFirst k d).contains j

/-- A row's values in block positions. -/
def toBlocks (k : Core) (ptab : BitVec 16) (xs : List FVal) : List FVal :=
  if ptab == 0xFFFF then xs else (tableFirst k xs.length).map fun j => xs.getD j (.num false 0 0)

/-- The encoded rows of a lossy object. -/
def lossyRows (k : Core) (h : BitVec 256) (m b : Nat) (row n : Nat) (x : List Byte) : List Byte :=
  match n with
  | 0 => []
  | n + 1 =>
    let w := hdrRowBytes h
    (bfpQuant b m (toBlocks k (hdrPtab h) (hdrDecode h (x.take w)))).bytes b m ++ lossyRows k h m b (row + 1) n (x.drop w)

/-- The bytes of an encoded row. -/
def lossyRowBytes (h : BitVec 256) (m b : Nat) : Nat := bfpExps b (hdrDim h 0) + bfpMants m (hdrDim h 0)

/-- The block position that an element of a row came from: its only one in the table as it is loaded now. -/
def blockPosition (k : Core) (h : BitVec 256) (j : Nat) : Option Nat :=
  if hdrPtab h == 0xFFFF then some j
  else match (tableFirst k (hdrDim h 0)).zipIdx.filter (·.1 == j) with
    | [p] => some p.2
    | _ => none

/-- Sectors an element in a block position is read from: of its exponent and of its mantissa. -/
def lossySectors (h : BitVec 256) (m b row j : Nat) : List Nat :=
  let base := row * lossyRowBytes h m b
  let lo := base + bfpExps b (hdrDim h 0)
  [(base + j / b) / 32, (lo + j * m / 8) / 32, (lo + (j * m + m - 1) / 8) / 32]

/-- An element's bytes as a get returns them, with its lost tag; a position that a wrong table leaves open reads free
bytes (R360), and one read from a lost sector free bytes with the tag (R345). -/
def lossyElem (n : Nat) (k : Core) (o : StashObj) (m b row : Nat) (xs : List FVal) (j : Nat) : List (Byte × Bool) :=
  let w := hdrWidth o.header / 8
  let free (lost : Bool) : List (Byte × Bool) := (List.range w).map fun i => (Config.freeByte (n + i), lost)
  match blockPosition k o.header j with
  | none => free false
  | some p =>
    if (lossySectors o.header m b row p).any o.lost.contains then free true
    else (bytesOf w ((hdrElem o.header).convert .rne (xs.getD p (.num false 0 0))).1).map (·, false)

/-- What a get of an object writes, from free number n on (R243, R359, R360); a lost sector reads free bytes (R345). -/
def StashObj.bytes (n : Nat) (k : Core) (o : StashObj) : List (Byte × Bool) :=
  match o.lossy with
  | none => o.data.zipIdx.map fun (x, i) => if o.lost.contains (i / 32) then (Config.freeByte (n + i), true) else (x, false)
  | some (m, b) =>
    let d := hdrDim o.header 0
    (List.range (hdrRows o.header)).flatMap fun r =>
      let xs := bfpRow b m d (o.data.drop (r * lossyRowBytes o.header m b))
      (List.range d).flatMap fun j => lossyElem (n + 4 * (r * d + j)) k o m b r xs j

/-! ## Puts (R362) -/

/-- A record that names a permutation table names the one that the issuing core has loaded (R176). -/
def tableNamed (k : Core) (h : BitVec 256) : Bool := hdrPtab h == 0xFFFF || hdrPtab h == k.tblId

/-- The record of a put is acceptable. -/
def saveOk (k : Core) (c h : BitVec 256) : Bool :=
  hdrValid h && hdrHad h == 0 && tableNamed k h &&
  (bits c 61 3 != 3 ||
    ((hdrFmt h == 5 || hdrFmt h == 6 || hdrFmt h == 7) && (hdrPtab h == 0xFFFF || tableBijection k (hdrDim h 0))))

/-- The object a put makes from its bytes; a dropped one keeps none. -/
def savedObj (c : Command) (k : Core) (h : BitVec 256) (x : List Byte) : StashObj :=
  let key := c.stashKey
  let tr := saveTr c.c
  let base : StashObj := {
    stage := key.1, layer := key.2.1, tag := key.2.2, place := 3, size := 0, far := 0, near := 0, header := h, lossy := none
    data := [], lost := [] }
  if tr = 4 then base
  else if tr = 3 then
    let n := roundUp (hdrRows h * lossyRowBytes h (saveM c.c) (saveB c.c)) 4096
    { base with far := n, near := n, lossy := some (saveM c.c, saveB c.c),
                data := lossyRows k h (saveM c.c) (saveB c.c) 0 (hdrRows h) x }
  else
    let far := roundUp x.length 4096
    { base with far := far, near := min far (roundUp (max 1 (Config.compressedSize x)) 4096), data := x }

/-- R362: what a put does when it runs; its object enters the directory as it completes (R363). -/
def State.runStashSave (s : State) (c : Command) : State :=
  match s.pinSpan c .read c.b.toNat 32 with
  | .error e => s.failPins c e
  | .ok p =>
    let (h, t) := (s.touchPieces c p).readHeader c p
    let k := t.core c.core
    if s.deadPiece p || h.2 then t.failNow c .contain
    else if !(saveOk k (c.c.setWidth 256) h.1) then t.failNow c .engine
    else if saveTr c.c = 4 then t.pushDone { Done.of c none with obj := some (savedObj c k h.1 []) }
    else match t.pinSpan c .read c.a.toNat (hdrRows h.1 * hdrRowBytes h.1) with
      | .error e => t.failPin c [{ acc := .read, va := c.a.toNat, len := hdrRows h.1 * hdrRowBytes h.1 }] e
      | .ok q =>
        let (x, u) := (t.touchPieces c q).readSpan c q
        if t.deadPiece q || x.any (·.2) then u.failNow c .contain
        else u.pushDone { Done.of c none with obj := some (savedObj c k h.1 (x.map (·.1))) }

/-! ## Gets (R362) -/

/-- A get of an object may write (R360, R362). -/
def getOk (k : Core) (o : StashObj) (h : BitVec 256) : Bool :=
  o.place != 3 && hdrFmt h == hdrFmt o.header && hdrBlen h == hdrBlen o.header && hdrDims h == hdrDims o.header &&
  tableNamed k h && (o.lossy.isNone || tableNamed k o.header)

/-- R362. -/
def State.runStashGet (s : State) (c : Command) : State :=
  match s.pinSpan c .read c.b.toNat 32 with
  | .error e => s.failPins c e
  | .ok p =>
    let (h, t) := (s.touchPieces c p).readHeader c p
    let k := t.core c.core
    if s.deadPiece p || h.2 then t.failNow c .contain
    else if !(hdrValid h.1) then t.failNow c .engine
    else match t.findStash c.stashKey with
      | none => t.failNow c .engine
      | some o =>
        if !(getOk k o h.1) then t.failNow c .engine
        else match t.pinSpan c .write c.a.toNat (hdrRows h.1 * hdrRowBytes h.1) with
          | .error e => t.failPin c [{ acc := .write, va := c.a.toNat, len := hdrRows h.1 * hdrRowBytes h.1 }] e
          | .ok q =>
            if t.deadPiece q then t.failNow c .contain
            else
              let u := t.touchPieces c q
              let m := Move.start { u with free := u.free + o.data.length + 4 * hdrRows h.1 * hdrDim h.1 0 }
              (m.row c q (listSource (o.bytes u.free k)) 0).finish c

/-! ## Completion (R363) -/

/-- A far object moves to the near pool if it fits there (R362, R365). -/
def State.stashNearer (s : State) (key : Fin 8 × BitVec 16 × BitVec 32) : State :=
  match s.findStash key with
  | some o =>
    if o.place == 1 && s.stashFits o.stage false o.near then
      { s with stash := s.stash.map fun p => if p.key = key then { p with place := 0, size := p.near } else p }
    else s
  | none => s

/-- A put's object enters the directory, or fails (R362). -/
def State.stashEnter (s : State) (o : StashObj) (tr : Nat) : Option Cause × State :=
  if (s.findStash o.key).isSome || decide (16384 ≤ s.stash.length) then (some .engine, s)
  else match s.stashPlace o tr with
    | none => (some .engine, s)
    | some (p, n) => (none, { s with stash := s.stash ++ [{ o with place := p, size := n }] })

/-- The next prefetch reaches the directory (R365). -/
def State.stashPrefetch (s : State) : State :=
  match s.prefetch with
  | [] => s
  | k :: l => { s with prefetch := l }.stashNearer k

end Sys2Proof.Machine
end

