-- ==== Sys2Proof/Machine/Tiers.lean ====
section
/-! DEFINITION. Weight versions (R366 to R368), cache and TLB maintenance and pinned translations (R354 to R356): what
their commands do. -/

namespace Sys2Proof.Machine

/-! ## Weight versions (R368) -/

def verKind (a : Word) : Nat := bits a 8 2
def verSrc (a : Word) : Fin 8 := ⟨bits a 4 3, Nat.mod_lt _ (by decide)⟩
def verNum (a : Word) : Fin 8 := ⟨bits a 0 3, Nat.mod_lt _ (by decide)⟩

/-- The physical address at a home of a line. -/
def linePa (line : Nat) : Nat := line * 128 % 2 ^ 52

/-- The private lines of a version. -/
def State.privLines (s : State) (k v : Fin 8) : List Nat := (s.priv.filter fun p => p.1 == k && p.2.1 == v).map (·.2.2)

/-- A line's bytes and lost tags at another key. -/
def State.copyLine (s : State) (src dst : Nat) : State :=
  let lost := (List.range 4).filter fun i => s.lostAt (src + 32 * i)
  let ks := lost.map fun i => (dst + 32 * i) / 32
  let t := (s.putBytes dst (s.bytesAt src 128)).loseSectors ks
  if lost.any fun i => s.damagedAt (src + 32 * i) then t.damage ks else t

/-- The key of the private copy of a line of some home. -/
def privLineKey (k v : Fin 8) (line : Nat) : Nat := privKey k v (BitVec.ofNat 11 (line * 128 / 2 ^ 52)) (linePa line)

/-- A private line returns to the pool: its cached copies are invalid, its bytes gone. -/
def State.dropPriv (s : State) (k v : Fin 8) (line : Nat) : State :=
  let key := privLineKey k v line
  let s := s.putBytes key (List.replicate 128 0)
  { s with
    priv := s.priv.filter (· != (k, v, line))
    lost := s.lost.filter fun n => !(n * 32 / 128 == key / 128)
    views := s.views.filter fun w => !(w.key / 128 == key / 128)
    l2 := s.l2.filter fun p => p.1 != key / 128
    cores := s.cores.map fun (p : Fin 1792 × Core) => (p.1, p.2.invalidLines [key / 128]) }

/-- A version's line in the view of another. -/
def State.forkLine (s : State) (k src v : Fin 8) (line : Nat) : State :=
  let s := s.copyLine (privLineKey k src line) (privLineKey k v line)
  { s with priv := s.priv ++ [(k, v, line)] }

/-- A private line is written into the shared copy. -/
def State.settleLine (s : State) (c : Command) (k v : Fin 8) (line : Nat) : State :=
  let key := privLineKey k v line
  let ws : List ByteWrite := (List.range 128).map fun i =>
    { key := line * 128 + i, val := s.byteAt (key + i), lost := s.lostAt (key + i) }
  (((s.dirtyHome (ws.map (·.key))).writeEach c.author ws).tagAll c.author ws).dropPriv k v line

def State.setLive (s : State) (k v : Fin 8) (on : Bool) : State :=
  { s with vrb := s.vrb.set k (putField (s.vrb.get k) (52 + v.val) 1 on.toNat) }

/-- R368: the effect of a `cver` as it completes, or ENGINE. -/
def State.verApply (s : State) (c : Command) : Option Cause × State :=
  let k := teamStage c.team
  let v := verNum c.a
  let src := verSrc c.a
  match verKind c.a with
  | 0 =>
    if flag (s.vrb.get k) 63 && s.versionLive k src && !(s.versionLive k v) then
      (none, ((s.privLines k src).foldl (fun s l => s.forkLine k src v l) s).setLive k v true)
    else (some .engine, s)
  | 1 =>
    if s.versionLive k v then (none, ((s.privLines k v).foldl (fun s l => s.dropPriv k v l) s).setLive k v false)
    else (some .engine, s)
  | 2 =>
    if (List.finRange 8).all fun w => s.versionLive k w == decide (w = v) then
      (none, (s.privLines k v).foldl (fun s l => s.settleLine c k v l) s)
    else (some .engine, s)
  | _ => (some .engine, s)

/-! ## Maintenance (R356) -/

/-- A core lies within a command's scope. -/
def withinScope (c : Command) (k : Fin 1792) : Bool :=
  decide (scopeBetween c.core k ≤ c.scope.val)

/-- The lines of a range whose pages translate. -/
def State.maintLines (s : State) (c : Command) (l : List (BitVec 56 × Nat)) : List Nat :=
  l.flatMap fun (va, n) =>
    let loc : Option Loc := match s.translate c.core c.ptroot c.sup .read va with
      | .ok l => some l
      | .error _ => match s.translate c.core c.ptroot c.sup .write va with
        | .ok l => some l
        | .error _ => (s.translate c.core c.ptroot c.sup .fetch va).toOption
    match loc with
    | some loc => (List.range (n / 128)).map fun i => s.keyOf (loc.add (128 * i)) / 128
    | none => []

/-- A core's dirty lines of the range are written back. -/
def Core.cleanLines (k : Core) (ls : List Nat) : Core := ls.foldl Core.cleanLine k

/-- Dirty data of an L1 is discarded: the home's bytes and tags stand again. -/
def State.discard (s : State) (k : Core) (ls : List Nat) : State :=
  (k.l1.filter fun l => l.dirty && ls.contains l.line).foldl (fun s l => s.restore l.undo) s

/-- The L2s write dirty lines back into the memory cells (R356). -/
def State.cleanL2 (s : State) (ls : List Nat) : State := { s with l2 := s.l2.filter fun p => !(ls.contains p.1) }

/-- Lines of other packages that this one owned have been written back to their homes: the copies here are shared (R383). -/
def State.homeCopies (s : State) (ls : List Nat) : State :=
  s.modFabric fun f => { f with copies := f.copies.map fun c => if ls.contains (globalLine c.home c.line) then { c with state := .s } else c }

/-- Dirty data of the L2s is discarded. An L2 may have written a line back at any time before, which a free bit says. -/
def State.discardL2 (s : State) (ls : List Nat) : State :=
  let s := (s.l2.filter fun p => ls.contains p.1).foldl (fun s p =>
    let (kept, s) := s.freeBit
    if kept then s else s.restore p.2) s
  s.cleanL2 ls

/-- The write-backs of a command have performed at its scope: who lies there sees the lines as they stand (R356). -/
def State.writeBacks (s : State) (c : Command) (ls : List Nat) : State :=
  { s with views := s.views.map fun v => if ls.contains (v.key / 128) then v.release c.core c.scope else v }

def State.onCores (s : State) (c : Command) (f : Core → Core) : State :=
  { s with cores := s.cores.map fun (p : Fin 1792 × Core) => if withinScope c p.1 then (p.1, f p.2) else p }

/-- An entry's page meets a range. -/
def TlbEntry.meets (e : TlbEntry) (a n : Nat) : Bool :=
  decide (e.page * 2 ^ 16 < a + n) && decide (a < e.page * 2 ^ 16 + 2 ^ pageBits e.level.val)

/-- `cmaint.tlb` removes an entry. -/
def maintDrops (c : Command) (e : TlbEntry) : Bool :=
  e.pins == 0 && (flag c.c 3 || e.asid == field c.c 32 16) && e.meets c.a.toNat c.b.toNat

def State.maintTlb (s : State) (c : Command) : State :=
  let s := s.onCores c fun k => { k with tlb := k.tlb.filter fun e => !(maintDrops c e) }
  let inCluster (j : Fin 28) : Bool := decide (1 ≤ c.scope.val) && withinScope c ⟨64 * j.val, by have := j.isLt; omega⟩
  { s with ctlb := s.ctlb.filter fun p => !(inCluster p.1 && maintDrops c p.2) }

/-- R356: by the kind that register c held. -/
def State.runCmaint (s : State) (c : Command) : State :=
  if bits c.c 0 3 = 3 then (s.maintTlb c).pushDone (Done.of c none)
  else
    let pages := pagePieces (BitVec.ofNat 56 c.a.toNat) c.b.toNat (c.b.toNat / 2 ^ 16 + 2)
    let s := pages.foldl (fun s p => s.lookUp c.owner.ctx c.ptroot p.1) s
    let ls := s.maintLines c pages
    let deep := decide (3 ≤ c.scope.val)
    let dirty := (s.cores.filter fun p => withinScope c p.1).flatMap fun p => (p.2.l1.filter fun l => l.dirty && ls.contains l.line).map (·.line)
    let clean (f : Core → Core) : State :=
      let t := (s.modL1s (withinScope c) fun k => f (k.cleanLines ls)).writeBacks c dirty
      if deep then (t.cleanL2 ls).homeCopies ls else t
    let s := match bits c.c 0 3 with
      | 0 => clean fun k => k
      | 1 => clean fun k => k.invalidLines ls
      | _ =>
        let t := s.cores.foldl (fun (t : State) (p : Fin 1792 × Core) => if withinScope c p.1 then t.discard p.2 ls else t) s
        let t := t.onCores c fun k => k.invalidLines ls
        if deep then (t.discardL2 ls).homeCopies ls else t
    s.pushDone (Done.of c none)

/-! ## Pins (R355) -/

/-- The translations of the pages of a range, once each; alias pages have none. -/
def State.pinLeaves (s : State) (c : Command) (l : List (BitVec 56 × Nat)) : Except Cause (List TlbEntry) :=
  match l with
  | [] => .ok []
  | (va, _) :: l =>
    if isAlias va then s.pinLeaves c l
    else match s.leafFor c.core c.ptroot va with
      | .error e => .error e.cause
      | .ok (leaf, level) =>
        if !c.sup && !(flag leaf 55) then .error .prot
        else match s.pinLeaves c l with
          | .error e => .error e
          | .ok es =>
            let e : TlbEntry := { asid := ptAsid c.ptroot, page := va.toNat / 2 ^ pageBits level * 2 ^ pageBits level / 2 ^ 16,
                                  level := ⟨level % 3, Nat.mod_lt _ (by decide)⟩, leaf := leaf, pins := 0 }
            .ok (if es.contains e then es else e :: es)

/-- The pages of a range are looked up as far as the first that has no translation to pin (R352). -/
def State.lookLeaves (s : State) (c : Command) (l : List (BitVec 56 × Nat)) : State :=
  match l with
  | [] => s
  | p :: l =>
    let t := s.lookUp c.owner.ctx c.ptroot p.1
    match s.pinLeaves c [p] with
    | .error _ => t
    | .ok _ => t.lookLeaves c l

def TlbEntry.same (a b : TlbEntry) : Bool := a.asid == b.asid && a.page == b.page && a.level == b.level

/-- The cluster TLB of a core. -/
def State.clusterTlb (s : State) (k : Fin 1792) : List TlbEntry :=
  s.ctlb.filterMap fun p => if p.1.val == k.val / 64 then some p.2 else none

def State.setClusterTlb (s : State) (k : Fin 1792) (l : List TlbEntry) : State :=
  let cl : Fin 28 := ⟨k.val / 64, by have := k.isLt; omega⟩
  { s with ctlb := l.map (cl, ·) ++ s.ctlb.filter fun p => p.1 != cl }

/-- One more pin of a translation. -/
def pinOne (l : List TlbEntry) (e : TlbEntry) : List TlbEntry :=
  if l.any (·.same e) then l.map fun f => if f.same e then { f with pins := f.pins + 1 } else f
  else trim 4096 ({ e with pins := 1 } :: l)

def unpinOne (l : List TlbEntry) (e : TlbEntry) : List TlbEntry :=
  l.map fun f => if f.same e then { f with pins := f.pins - 1 } else f

/-- The translations may be pinned, or unpinned. -/
def pinsOk (l : List TlbEntry) (es : List TlbEntry) (unpin : Bool) : Bool :=
  if unpin then es.all fun e => l.any fun f => f.same e && decide (0 < f.pins)
  else
    let m := es.foldl pinOne l
    (m.all fun f => decide (f.pins ≤ 255)) && decide ((m.filter fun f => decide (0 < f.pins)).length ≤ 256)

/-- R355: by what register c held. -/
def State.runCpin (s : State) (c : Command) : State :=
  let pages := pagePieces (BitVec.ofNat 56 c.a.toNat) c.b.toNat (c.b.toNat / 2 ^ 16 + 2)
  let s := s.lookLeaves c pages
  match s.pinLeaves c pages with
  | .error e => s.failNow c e
  | .ok es =>
    let l := s.clusterTlb c.core
    let unpin := flag c.c 0
    if !(pinsOk l es unpin) then s.failNow c .engine
    else (s.setClusterTlb c.core (es.foldl (if unpin then unpinOne else pinOne) l)).pushDone (Done.of c none)

end Sys2Proof.Machine
end

