-- ==== Sys2Proof/Machine/Channels.lean ====
section
/-! DEFINITION. Tensor channels (R375 to R378): sends, windows, the placing of messages and their arrival entries; and
multicast groups (R384). -/

namespace Sys2Proof.Machine

/-! ## Windows -/

/-- The oldest open window of a channel. -/
def State.openWindow (s : State) (ch : Fin 256) : Option Window := (s.fabric.windows.find? (·.1 == ch)).map (·.2)

/-- The oldest window of a channel leaves the list. -/
def dropWindow (l : List (Fin 256 × Window)) (ch : Fin 256) : List (Fin 256 × Window) :=
  match l with
  | [] => []
  | w :: l => if w.1 = ch then l else w :: dropWindow l ch

/-- The oldest window of a channel closes: its flag is to complete (R377). -/
def State.closeWindow (s : State) (ch : Fin 256) (w : Window) (err : Option Cause) : State :=
  (s.modFabric fun f => { f with windows := dropWindow f.windows ch }).pushDone { Done.of w.cmd err with lost := w.lost }

/-- A command of the same context, class and path comes before another (R253). -/
def Command.before (o c : Command) : Bool :=
  o.owner.serial == c.owner.serial && o.path == c.path && cmdClass o.instr == cmdClass c.instr && decide (o.id < c.id)

/-- What became of a message: its first byte's address, no window yet, or an error. -/
inductive Placed where
  | at_ (va : Word) | wait | fail (e : Cause)
deriving DecidableEq, Repr

def setWindow (l : List (Fin 256 × Window)) (ch : Fin 256) (w : Window) : List (Fin 256 × Window) :=
  match l with
  | [] => []
  | x :: l => if x.1 = ch then (ch, w) :: l else x :: setWindow l ch w

/-- A message's bytes go into the oldest window after what it holds, once this package owns their lines: they have performed
at domain scope as they stand (R378, R383). A window takes nothing while an earlier receive of its context and class has not
completed (R253). -/
def State.fillWindow (s : State) (ch : Fin 256) (w : Window) (data : List (Byte × Bool)) : Placed × State :=
  let n := data.length
  let ps := sliceSpan w.places w.fill n
  if s.receiveOpen (·.before w.cmd) then (.wait, s)
  else match s.claimAll ((ps.flatMap fun p => (List.range p.len).map fun i => s.keyOf (p.loc.add i) / 128).eraseDups) with
  | (false, s) => (.wait, s)
  | (true, s) =>
  let m := (Move.start s).row w.cmd ps (listSource data) 0
  let w' := { w with fill := w.fill + n, lost := w.lost || m.lost }
  match m.err with
  | some e => (.fail e, (m.settle w.cmd).closeWindow ch w' (some e))
  | none =>
    let t := (m.settle w.cmd).performAtDomain w.cmd.id
    (.at_ (w.cmd.a + BitVec.ofNat 64 w.fill),
      if w'.fill = w.len then t.closeWindow ch w' none else t.modFabric fun f => { f with windows := setWindow f.windows ch w' })

/-- The loop of R377; at most 8 windows are posted. -/
def State.placeLoop (s : State) (ch : Fin 256) (data : List (Byte × Bool)) (fuel : Nat) : Placed × State :=
  match fuel, s.openWindow ch with
  | 0, _ => (.wait, s)
  | _, none => (.wait, s)
  | f + 1, some w =>
    if w.fill + data.length ≤ w.len then s.fillWindow ch w data
    else if w.fill = 0 then (.fail .engine, s.closeWindow ch w (some .engine))
    else (s.closeWindow ch w none).placeLoop ch data f

def State.placeMessage (s : State) (ch : Fin 256) (data : List (Byte × Bool)) : Placed × State := s.placeLoop ch data 9

/-- The arrival entry of a placed message (R378): it joins its queue, or is held while the queue is full. -/
def State.arrivalEntry (s : State) (e : Word) (tag : BitVec 32) (va : Word) (cmd : Option Nat) : State :=
  if chMq e = 0 then s
  else
    let q : Fin 3 := ⟨(chMq e - 1) % 3, Nat.mod_lt _ (by decide)⟩
    let k := chStage e
    if (s.meridian.get k).room q && !(s.fabric.heldEntries.any fun h => h.stage == k && h.queue == q) then s.addEntry k q tag va
    else s.modFabric fun f => { f with heldEntries := f.heldEntries ++
      [({ stage := k, queue := q, tag := tag, arg := va, cmd := cmd } : HeldEntry)] }

/-- Held arrivals enter their queues as room appears, in order (R306). -/
def State.admitHeld (s : State) (l : List HeldEntry) : State :=
  match l with
  | [] => s
  | h :: l =>
    if (s.meridian.get h.stage).room h.queue && !(s.fabric.heldEntries.any fun g => g.stage == h.stage && g.queue == h.queue) then
      (s.addEntry h.stage h.queue h.tag h.arg).admitHeld l
    else (s.modFabric fun f => { f with heldEntries := f.heldEntries ++ [h] }).admitHeld l

def State.settleHeld (s : State) : State :=
  if s.fabric.heldEntries.isEmpty then s
  else (s.modFabric fun f => { f with heldEntries := [] }).admitHeld s.fabric.heldEntries

/-! ## Arrivals from other packages -/

/-- A channel's entry accepts messages from a channel of a peer (R375). -/
def chAccepts (e : Word) (peer : BitVec 11) (pch : Nat) : Bool := chBound e && chPeer e == peer && chPch e == pch

/-- Messages that waited for a window of a channel are placed, oldest first. -/
def State.placeHeld (s : State) (ch : Fin 256) (fuel : Nat) : State :=
  match fuel with
  | 0 => s
  | f + 1 =>
    match s.fabric.heldMsgs.find? (·.ch == ch) with
    | none => s
    | some m =>
      let (r, t) := s.placeMessage ch m.data
      match r with
      | .wait => t
      | .fail _ => (t.modFabric fun g => { g with heldMsgs := g.heldMsgs.erase m }).placeHeld ch f
      | .at_ va =>
        let t := t.modFabric fun g => { g with heldMsgs := g.heldMsgs.erase m }
        (t.arrivalEntry (t.channelEntry ch.val) m.tag va none).placeHeld ch f

def State.placeAllHeld (s : State) (ch : Fin 256) : State := s.placeHeld ch s.fabric.heldMsgs.length

/-- The messages that wait are placed where that is possible now. -/
def State.placeEvery (s : State) : State := ((s.fabric.heldMsgs.map (·.ch)).eraseDups).foldl State.placeAllHeld s

/-- A message's bytes, each with the lost tag of its sector (R379). -/
def messageBytes (lost : List Nat) (data : List Byte) : List (Byte × Bool) := data.mapIdx fun i b => (b, lost.contains i)

/-- R375, R377, R378: a message from another package arrives; its sender's status is the sender's affair. -/
def execChannelMessageArrival (ch : Fin 256) (peer : Fin 2048) (pch : Fin 256) (tag : BitVec 32) (lost : List Nat) (data : List Byte)
    (s : State) : Host.Outcome State Fault Refusal :=
  if !(chAccepts (s.channelEntry ch.val) (BitVec.ofFin peer) pch.val) || s.homeDead (BitVec.ofFin peer) then .next s
  else
    let t := s.modFabric fun f => { f with heldMsgs := f.heldMsgs ++ [({ ch := ch, tag := tag, data := messageBytes lost data } : HeldMsg)] }
    .next (t.placeAllHeld ch)

/-! ## `csend` (R376 to R378) -/

def chanOf (c : Command) : Fin 256 := ⟨bits c.c 0 8, Nat.mod_lt _ (by decide)⟩
def sendTag (c : Command) : BitVec 32 := field c.c 32 32

/-- A send to a channel of this package itself: none while no window is open. -/
def State.sendHere (s : State) (c : Command) (e : Word) (data : List (Byte × Bool)) : Option State :=
  let ch : Fin 256 := ⟨chPch e % 256, Nat.mod_lt _ (by decide)⟩
  let back := s.channelEntry ch.val
  if !(chAccepts back s.fabric.coord (chanOf c).val) then some (s.failNow c .engine)
  else
    let (r, t) := s.placeMessage ch data
    match r with
    | .wait => if t.fabric = s.fabric then none else some t
    | .fail e => some (t.failNow c e)
    | .at_ va => some ((t.arrivalEntry back (sendTag c) va (some c.id)).pushDone (Done.of c none))

/-- R376 to R378: none where the send waits at the head of its queue for a window. -/
def State.runCsend (s : State) (c : Command) : Option State :=
  let e := s.channelEntry (chanOf c).val
  if !(chBound e) then some (s.failNow c .engine)
  else if s.homeDead (chPeer e) then some (s.failNow c .contain)
  else match s.pinSpan c .read c.a.toNat c.b.toNat with
    | .error x => some (s.failPins c x)
    | .ok ps =>
      if s.deadPiece ps then some (s.failNow c .contain)
      else if chPeer e ≠ s.fabric.coord then
        some ((s.touchPieces c ps).pushDone { Done.of c none with outside := true, dst := some (s.fabric.dom, chPeer e) })
      else
        let (data, t) := (s.touchPieces c ps).readSpan c ps
        t.sendHere c e data

/-! ## `crecv` (R377) -/

/-- A command leaves its queue. -/
def State.leaveQueue (s : State) (c : Command) : State :=
  s.modCore c.core fun k => { k with queue := k.queue.set c.queue ((k.queue.get c.queue).filter (·.id != c.id)) }

/-- R376, R377, R398: the window is posted, and takes what waits for it. -/
def State.runCrecv (s : State) (c : Command) : State :=
  let ch := chanOf c
  let e := s.channelEntry ch.val
  if !(chBound e) || decide (8 ≤ (s.fabric.windows.filter (·.1 == ch)).length) then s.failNow c .engine
  else if s.homeDead (chPeer e) then s.failNow c .contain
  else match s.pinSpan c .write c.a.toNat c.b.toNat with
    | .error x => s.failPins c x
    | .ok ps =>
      let w : Window := { cmd := c, places := ps, len := c.b.toNat, fill := 0, lost := false }
      let t := (((s.touchPieces c ps).leaveQueue c).modFabric fun f => { f with windows := f.windows ++ [(ch, w)] })
      t.placeAllHeld ch

/-! ## `cmcast` (R384) -/

def listGroup (l : List (Nat × BitVec 512)) (g : Nat) (e : BitVec 512) : List (Nat × BitVec 512) :=
  let l := l.filter (·.1 != g)
  if e = 0 then l else (g, e) :: l

/-- R384: routers of other packages are another's; their commit is awaited at scopes 4 and 5. -/
def State.runCmcast (s : State) (c : Command) : State :=
  match s.pinSpan c .read c.a.toNat 64 with
  | .error e => s.failPins c e
  | .ok ps =>
    let (b, t) := (s.touchPieces c ps).readSpan c ps
    let e : BitVec 512 := BitVec.ofNat 512 (ofBytes (b.map (·.1)))
    if s.deadPiece ps then t.failNow c .contain
    else if !(groupValid e) then t.failNow c .engine
    else
      let t := t.modFabric fun f => { f with groups := listGroup f.groups (bits c.b 0 10) e }
      t.pushDone { Done.of c none with outside := decide (4 ≤ c.scope.val) }

end Sys2Proof.Machine
end

