-- ==== Sys2Proof/Machine/Collect.lean ====
section
/-! DEFINITION. Collectives: in-network reduction (R386 to R389) and the data-parallel ring (R390 to R393). -/

namespace Sys2Proof.Machine

/-! ## Reductions (R386 to R388) -/

def nredGrp (c : Word) : Nat := bits c 54 10
def nredSeq (c : Word) : BitVec 16 := field c 32 16
/-- The 4 KiB chunks of a contribution (R388). -/
def nredChunks (c : Word) : Nat := (nredLen c + 4095) / 4096

/-- The bytes of a chunk. -/
def chunkLen (c : Word) (j : Nat) : Nat := min 4096 (nredLen c - 4096 * j)

/-- An element of a contribution, exact in `f32` (R387). -/
def nredElem (w : Nat) (x : List Byte) (i : Nat) : Nat :=
  let v := leAt x (w * i) w
  if w = 2 then v * 2 ^ 16 else v

/-- One element of the prefix sum of some ranks in order, in `f32` (R387, R388). -/
def prefixElem (w : Nat) (xs : List (List Byte)) (i : Nat) : Nat :=
  match xs with
  | [] => 0
  | x :: xs => xs.foldl (fun a y => (FFmt.f32.add .rne a (nredElem w y i)).1) (nredElem w x i)

/-- One element of the result, from the sum over every rank (R387). -/
def nredValue (w acc : Nat) : Nat := if w = 2 then (FFmt.bf16.encode .rne (FFmt.f32.decode acc)).1 else acc

/-- The arrival bitmap of a chunk: bit k for rank k (R388). -/
def arrivedRanks (l : List Contribution) (j : Nat) : BitVec 32 :=
  l.foldl (fun b x => if x.chunk = j then b ||| BitVec.ofNat 32 (2 ^ x.rank.val) else b) 0

/-- The contributions that a chunk's prefix has taken, of the first n ranks from rank k on: up to the first that is missing
(R388). -/
def leadRanks (l : List Contribution) (j k n : Nat) : List Contribution :=
  match n with
  | 0 => []
  | n + 1 => match l.find? fun x => x.chunk == j && x.rank.val == k with
    | none => []
    | some x => x :: leadRanks l j (k + 1) n

/-- The prefix sum that a router holds of a chunk (R388). -/
def Reduction.prefixSum (r : Reduction) (j : Nat) : List Nat :=
  let xs := leadRanks r.chunks j 0 r.members.length
  (List.range (chunkLen r.cmd.c j / nredBytes r.cmd.c)).map (prefixElem (nredBytes r.cmd.c) (xs.map (·.data)))

/-- A chunk's contributions in rank order, once the prefix has reached the last rank. -/
def Reduction.chunk? (r : Reduction) (j : Nat) : Option (List Contribution) :=
  let xs := leadRanks r.chunks j 0 r.members.length
  if xs.length = r.members.length then some xs else none

/-- A chunk of the result, from its sum: a lost source sector loses the whole chunk (R389). -/
def chunkResult (w : Nat) (sum : List Nat) (lost : Bool) : List (Byte × Bool) :=
  (sum.flatMap fun v => bytesOf w (nredValue w v)).map (·, lost)

/-- The whole result, once every rank has contributed every chunk. -/
def Reduction.result (r : Reduction) : Option (List (Byte × Bool)) :=
  let c := r.cmd.c
  ((List.range (nredChunks c)).mapM fun j => (r.chunk? j).map fun xs => chunkResult (nredBytes c) (r.prefixSum j) (xs.any (·.lost))).map (·.flatten)

def State.dropReduction (s : State) (id : Nat) : State :=
  s.modFabric fun f => { f with reductions := f.reductions.filter fun r => r.cmd.id != id }

/-- Every sector of a destination that is not written becomes lost (R389). -/
def State.losePieces (s : State) (ps : List Piece) : State :=
  s.loseSectors (ps.flatMap fun p => (List.range ((p.loc.pa.toNat % 32 + p.len + 31) / 32)).map fun i =>
    s.keyOf { p.loc with pa := p.loc.pa - BitVec.ofNat 52 (p.loc.pa.toNat % 32) + BitVec.ofNat 52 (32 * i) } / 32)

/-- A reduction fails (R389). -/
def State.failReduction (s : State) (r : Reduction) (e : Cause) : State :=
  let t := s.dropReduction r.cmd.id
  let ps := r.places.getD []
  let t := if e = .contain then t.losePieces ps else t
  t.pushDone { Done.of r.cmd (some e) with lost := e == .contain && !ps.isEmpty }

/-- A member is dead and has not contributed all its chunks (R389). -/
def State.reductionDead (s : State) (r : Reduction) : Bool :=
  r.members.zipIdx.any fun (p, k) => s.homeDead p &&
    !((List.range (nredChunks r.cmd.c)).all fun j => (arrivedRanks r.chunks j).getLsbD k)

/-- A reduction goes as far as it can: it fails, or its result is written, or it waits. -/
def State.stepReduction (s : State) (r : Reduction) : State :=
  if r.chunks.any fun x => !x.fits then s.failReduction r .engine
  else if s.reductionDead r then s.failReduction r .contain
  else match r.result with
    | none => s
    | some x =>
      let t := s.dropReduction r.cmd.id
      match r.places with
      | none => t.pushDone { Done.of r.cmd none with late := some false }
      | some ps =>
        let m := (Move.start t).row r.cmd ps (listSource x) 0
        (m.settle r.cmd).pushDone { Done.of r.cmd m.err with lost := m.lost, late := some !r.spilled.isEmpty }

def State.stepReductions (s : State) (l : List Reduction) : State := l.foldl (fun s r => s.stepReduction r) s

/-- A contribution agrees with a reduction's shape; one for a chunk or a rank it does not have shows that the members
disagree (R389). -/
def Reduction.admits (r : Reduction) (x : Contribution) : Contribution :=
  { x with fits := x.fits && decide (x.chunk < nredChunks r.cmd.c) && x.data.length == chunkLen r.cmd.c x.chunk &&
                   decide (x.rank.val < r.members.length) }

/-- A package's own contribution, by chunks. -/
def ownChunks (c : Word) (rank : Fin 32) (x : List (Byte × Bool)) : List Contribution :=
  (List.range (nredChunks c)).map fun j =>
    let d := (x.drop (4096 * j)).take 4096
    { chunk := j, rank := rank, fits := true, lost := d.any (·.2), data := d.map (·.1) }

def Reduction.isFor (r : Reduction) (grp : BitVec 10) (seq : BitVec 16) : Bool :=
  field r.cmd.c 54 10 == grp && nredSeq r.cmd.c == seq

/-- A chunk of a reduction passes through a spill, whether or not this package has begun the reduction (R388). -/
def State.spillChunk (s : State) (grp : BitVec 10) (seq : BitVec 16) (chunk : Nat) : State :=
  if s.fabric.reductions.any (·.isFor grp seq) then
    let mark (r : Reduction) : Reduction :=
      if r.isFor grp seq then { r with spilled := chunk :: r.spilled.filter (· != chunk) } else r
    s.modFabric fun f => { f with reductions := f.reductions.map mark }
  else s.modFabric fun f => { f with earlySpills := (grp, seq, chunk) :: f.earlySpills.filter (· != (grp, seq, chunk)) }

/-- Chunks by group and number, one entry for each contribution held here for a prefix that has not reached it: of a later
rank than one still missing, in a chunk that has not been spilled (R388). -/
def State.heldChunks (s : State) : List (BitVec 10 × BitVec 16 × Nat) :=
  let held (l : List Contribution) (spilled : List Nat) : List Nat :=
    (l.filter fun x => !(spilled.contains x.chunk) &&
      decide ((leadRanks l x.chunk 0 32).length ≤ x.rank.val)).map (·.chunk)
  let early := (s.fabric.early.map fun p => (p.1, p.2.1)).eraseDups
  (s.fabric.reductions.flatMap fun r => (held r.chunks r.spilled).map fun j => (field r.cmd.c 54 10, nredSeq r.cmd.c, j)) ++
  early.flatMap fun k =>
    (held ((s.fabric.early.filter fun p => (p.1, p.2.1) == k).map (·.2.2))
      ((s.fabric.earlySpills.filter fun p => (p.1, p.2.1) == k).map (·.2.2))).map fun j => (k.1, k.2, j)

def State.spillChunks (s : State) (l : List (BitVec 10 × BitVec 16 × Nat)) : State := l.foldl (fun s p => s.spillChunk p.1 p.2.1 p.2.2) s

/-- A full holding buffer, of 64 contributions, sends everything that it holds on through a spill (R388). -/
def State.spillFull (s : State) : State := if 64 ≤ s.heldChunks.length then s.spillChunks s.heldChunks.eraseDups else s

/-- The interval in which a chunk's first contribution came is noted (R388). -/
def State.beginChunk (s : State) (k : BitVec 10 × BitVec 16 × Nat) : State :=
  if s.fabric.begun.any (·.1 == k) then s else s.modFabric fun f => { f with begun := f.begun ++ [(k, f.ticks)] }

/-- A chunk still waits for a contribution. -/
def State.chunkOpen (s : State) (k : BitVec 10 × BitVec 16 × Nat) : Bool :=
  match s.fabric.reductions.find? (·.isFor k.1 k.2.1) with
  | some r => (r.chunk? k.2.2).isNone
  | none => s.fabric.early.any fun p => (p.1, p.2.1, p.2.2.chunk) == k

/-- One interval of 10 µs ends: every open chunk whose deadline has passed for certain, counted in whole intervals, spills
(R388); a closed one is forgotten. -/
def State.chunkDeadlines (s : State) : State :=
  let t := s.modFabric fun f => { f with ticks := f.ticks + 1, begun := f.begun.filter fun p => s.chunkOpen p.1 }
  t.spillChunks ((t.fabric.begun.filter fun p => decide (bits t.fabric.nrdl 0 16 ≤ 10 * (t.fabric.ticks - p.2 - 1))).map (·.1))

/-- R386 to R389. -/
def State.runCnred (s : State) (c : Command) : State :=
  let members := groupMembers (s.groupEntry (nredGrp c.c))
  match members.zipIdx.find? fun p => p.1 == s.fabric.coord with
  | none => s.failNow c .engine
  | some (_, k) =>
    let rank : Fin 32 := ⟨k % 32, Nat.mod_lt _ (by decide)⟩
    match s.pinSpan c .read c.b.toNat (nredLen c.c),
        (if s.receives c.c then (s.pinSpan c .write c.a.toNat (nredLen c.c)).map some else .ok none) with
    | .error e, _ => s.failPins c e
    | _, .error e => s.failPins c e
    | .ok src, .ok dst =>
      if s.deadPiece (src ++ dst.getD []) then s.failNow c .contain
      else
        let (x, t) := (s.touchPieces c (src ++ dst.getD [])).readSpan c src
        let mine (p : BitVec 10 × BitVec 16 × Contribution) : Bool := p.1 == field c.c 54 10 && p.2.1 == nredSeq c.c
        let spilled := (t.fabric.earlySpills.filter fun p => p.1 == field c.c 54 10 && p.2.1 == nredSeq c.c).map (·.2.2)
        let r : Reduction := { cmd := c, members := members, places := dst, chunks := ownChunks c.c rank x, spilled := spilled }
        let r := { r with chunks := r.chunks ++ (t.fabric.early.filter mine).map fun p => r.admits p.2.2 }
        let t := t.modFabric fun f => { f with
          reductions := f.reductions ++ [r]
          early := f.early.filter fun p => !(mine p)
          earlySpills := f.earlySpills.filter fun p => !(p.1 == field c.c 54 10 && p.2.1 == nredSeq c.c) }
        let t := ((List.range (nredChunks c.c)).foldl (fun t j => t.beginChunk (field c.c 54 10, nredSeq c.c, j)) t).spillFull
        match t.fabric.reductions.find? fun q => q.cmd.id == c.id with
        | some r => t.stepReduction r
        | none => t

/-- R388: a chunk of a member's contribution, as it has reached this package. -/
def execNredChunkArrival (grp : BitVec 10) (seq : BitVec 16) (chunk : Nat) (rank : Fin 32) (fits lost : Bool) (data : List Byte)
    (s : State) : Host.Outcome State Fault Refusal :=
  let x : Contribution := { chunk := chunk, rank := rank, fits := fits, lost := lost, data := data }
  match s.fabric.reductions.find? (·.isFor grp seq) with
  | none => .next ((s.modFabric fun f => { f with early := f.early ++ [(grp, seq, x)] }).beginChunk (grp, seq, chunk)).spillFull
  | some r =>
    if (arrivedRanks r.chunks chunk).getLsbD rank.val then .next s
    else
      let r := { r with chunks := r.chunks ++ [r.admits x] }
      let t := s.modFabric fun f => { f with reductions := f.reductions.map fun q => if q.cmd.id = r.cmd.id then r else q }
      let t := (t.beginChunk (grp, seq, chunk)).spillFull
      .next (t.stepReductions (t.fabric.reductions.filter (·.isFor grp seq)))

/-- R388: a chunk passed through a spill. -/
def execNredDeadlineSpill (grp : BitVec 10) (seq : BitVec 16) (chunk : Nat) (s : State) : Host.Outcome State Fault Refusal :=
  .next (s.spillChunk grp seq chunk)

/-! ## The ring (R390 to R392) -/

def State.ringDead (s : State) (n : Int) : Bool :=
  s.deadPeer (⟨s.ringDom n % 8, Nat.mod_lt _ (by decide)⟩, s.fabric.coord)

/-- A span that a step reads and writes. -/
def State.pinBoth (s : State) (c : Command) (va n : Nat) : Except Cause (List Piece) :=
  match s.pinSpan c .read va n with
  | .error e => .error e
  | .ok _ => s.pinSpan c .write va n

/-- `f32` elements of bytes. -/
def f32s (x : List Byte) : List Nat := (List.range (x.length / 4)).map fun i => leAt x (4 * i) 4
def f32Bytes (l : List Nat) : List Byte := l.flatMap (bytesOf 4)

/-- `f32` patterns of exact values. -/
def f32Of (l : List FVal) : List Nat := l.map fun v => (FFmt.f32.encode .rne v).1

/-- The pieces a step names: the chunk it sends with its residual and record, and the chunk it receives with its record. -/
structure RingPins where
  data  : List Piece
  resid : List Piece
  wire  : List Piece
  into  : List Piece
  wireIn : List Piece
deriving DecidableEq, Repr

/-- The pages of a step are pinned (R237). -/
def State.pinRing (s : State) (c : Command) : Except Cause RingPins := do
  let nc := s.ringChunk c.c
  let k := s.ringSends c.c
  let j := s.ringTakes c.c
  let packed := ringPacked c.c
  let gather := ringKind c.c % 2 == 1
  let wireOf (i : Nat) : Nat := c.c1.toNat + i * wireLen nc
  let data ← if ringComputes c.c then (if gather then s.pinBoth c (c.a.toNat + 4 * nc * k) (4 * nc) else s.pinSpan c .read (c.a.toNat + 4 * nc * k) (4 * nc))
    else if packed then .ok [] else s.pinSpan c .read (c.a.toNat + 4 * nc * k) (4 * nc)
  let resid ← if packed && ringComputes c.c then s.pinBoth c (c.b.toNat + 4 * nc * k) (4 * nc) else .ok []
  let wire ← if packed && gather then s.pinSpan c (if ringComputes c.c then .write else .read) (wireOf k) (wireLen nc) else .ok []
  let into ← if gather then s.pinSpan c .write (c.a.toNat + 4 * nc * j) (4 * nc) else s.pinBoth c (c.a.toNat + 4 * nc * j) (4 * nc)
  let wireIn ← if packed && gather then s.pinSpan c .write (wireOf j) (wireLen nc) else .ok []
  .ok { data := data, resid := resid, wire := wire, into := into, wireIn := wireIn }

def RingPins.all (p : RingPins) : List Piece := p.data ++ p.resid ++ p.wire ++ p.into ++ p.wireIn

/-- What a compressed step computes: the record it sends, the new residuals, and the decoded record (R391). -/
structure RingQuant where
  record : List Byte
  resid  : List Nat
  dec    : List Nat
deriving DecidableEq, Repr

def ringQuant (a r : List Nat) : RingQuant :=
  let y := a.zipWith (fun u v => (FFmt.f32.add .rne u v).1) r
  let q := bfpQuant 32 4 (y.map FFmt.f32.decode)
  let rec_ := q.bytes 32 4
  let dec := bfpRow 32 4 y.length rec_
  { record := rec_, resid := y.zipWith (fun u v => (FFmt.f32.deliver .rne (addVal .rne (FFmt.f32.decode u) v.neg)).1) dec,
    dec := f32Of dec }

/-- A step's own part: the record it sends, or none where it read a lost sector, in which case it changes nothing and
sends nothing (R391, R393). -/
def State.ringSend (s : State) (c : Command) (p : RingPins) : Option (List Byte) × Move :=
  let gather := ringKind c.c % 2 == 1
  if !(ringComputes c.c) && ringPacked c.c then
    let (w, s) := s.readSpan c p.wire
    (if w.any (·.2) then none else some (w.map (·.1)), Move.start s)
  else
    let (x, s) := s.readSpan c p.data
    let (r, s) := s.readSpan c p.resid
    if x.any (·.2) || r.any (·.2) then (none, Move.start s)
    else if !(ringPacked c.c) then (some (x.map (·.1)), Move.start s)
    else
      let q := ringQuant (f32s (x.map (·.1))) (f32s (r.map (·.1)))
      let put (m : Move) (ps : List Piece) (b : List Byte) : Move := m.row c ps (listSource (b.map (·, false))) 0
      let m := put (Move.start s) p.resid (f32Bytes q.resid)
      (some q.record, if gather then put (put m p.data (f32Bytes q.dec)) p.wire q.record else m)

/-- A step's record leaves for D+, in a packet that is kept until it is acknowledged; none where the port holds its
traffic (R394, R396). -/
def State.sendRing (s : State) (c : Command) (data : List Byte) : Option State :=
  let dst := s.across (s.ringDom 1)
  let st := Config.streamOf c.core c.queue
  let p : Payload := .ring (field c.c 48 16) ⟨ringKind c.c % 4, Nat.mod_lt _ (by decide)⟩ ⟨ringStep c.c % 8, Nat.mod_lt _ (by decide)⟩
    (field c.c 0 27) false data
  s.sendPacket dst st (some c.id) p

/-- What a received record does to the chunk it is for (R391). -/
def ringApply (c : Word) (old : List Nat) (rec_ : List Byte) (nc : Nat) : List Nat :=
  let dec := if ringPacked c then f32Of (bfpRow 32 4 nc rec_) else f32s rec_
  if ringKind c % 2 = 0 then dec.zipWith (fun d a => (FFmt.f32.add .rne d a).1) old else dec

/-- An arrival is for a step. -/
def RingStep.takes (r : RingStep) (a : RingArrival) : Bool :=
  field r.cmd.c 48 16 == a.id && ringKind r.cmd.c == a.kind.val && ringStep r.cmd.c == a.step.val

def State.dropRing (s : State) (id : Nat) : State :=
  s.modFabric fun f => { f with rings := f.rings.filter fun r => r.cmd.id != id }

/-- A step's receive is applied; its completion awaits the acknowledgment of its send (R392, R393). A lost element of its
own chunk makes the sector lost and is told as CONTAIN. -/
def State.ringReceive (s : State) (r : RingStep) (a : RingArrival) : State :=
  let c := r.cmd
  let t := s.dropRing c.id
  let nc := s.ringChunk c.c
  let wait (d : Done) : Done := { d with outside := d.err.isNone, dst := some (⟨s.ringDom 1 % 8, Nat.mod_lt _ (by decide)⟩, s.fabric.coord) }
  if a.n.toNat ≠ ringCount c.c ∨ a.data.length ≠ (if ringPacked c.c then wireLen nc else 4 * nc) then
    t.pushDone { Done.of c (some .engine) with lost := r.lost }
  else if a.lost then t.pushDone { Done.of c (some .contain) with lost := r.lost }
  else
    let (old, t) := if ringKind c.c % 2 = 0 then t.readSpan c r.data else ([], t)
    let lost := old.any (·.2)
    let new := f32Bytes (ringApply c.c (f32s (old.map (·.1))) a.data nc)
    let out := new.zipIdx.map fun (b, i) => (b, (List.range 4).any fun k => (old.getD (i / 4 * 4 + k) (0, false)).2)
    let m := (Move.start t).row c r.wire (listSource (a.data.map (·, false))) 0
    let m := m.row c r.data (listSource out) 0
    (m.settle c).pushDone (wait { Done.of c (m.err <|> if lost then some .contain else none) with lost := r.lost || m.lost })

/-- A step takes the arrival that waits for it at the port, if there is one. -/
def State.ringMatch (s : State) (r : RingStep) : State :=
  match s.fabric.arrivals.find? r.takes with
  | none => s
  | some a => (s.modFabric fun f => { f with arrivals := f.arrivals.erase a }).ringReceive r a

/-- R390 to R393: none where the step's send waits for its port. -/
def State.runCring (s : State) (c : Command) : Option State :=
  if s.ringDead 1 || s.ringDead (-1) then some (s.failNow c .contain)
  else match s.pinRing c with
    | .error e => some (s.failPins c e)
    | .ok p =>
      if s.deadPiece p.all then some (s.failNow c .contain)
      else
        let (rec_, m) := (s.touchPieces c p.all).ringSend c p
        match rec_ with
        | none => some (m.s.failNow c .contain)
        | some b =>
          match m.err with
          | some e => some ((m.settle c).pushDone { Done.of c (some e) with lost := m.lost })
          | none =>
            let r : RingStep := { cmd := c, data := p.into, wire := p.wireIn, lost := m.lost }
            ((m.settle c).sendRing c b).map fun t => (t.modFabric fun f => { f with rings := f.rings ++ [r] }).ringMatch r

/-- R392: a record arrives from D−, in a packet that has been applied (R396). -/
def execRingStepArrival (id : BitVec 16) (kind : Fin 4) (step : Fin 8) (n : BitVec 27) (lost : Bool) (data : List Byte)
    (s : State) : Host.Outcome State Fault Refusal :=
  let a : RingArrival := { id := id, kind := kind, step := step, n := n, lost := lost, data := data }
  if !(s.fabric.inbox.contains a) || s.ringDead (-1) || (s.fabric.port.get 5).isolated then .next s
  else
    let s := s.modFabric fun f => { f with inbox := f.inbox.erase a }
    match s.fabric.rings.find? (·.takes a) with
    | some r => .next (s.ringReceive r a)
    | none => .next (s.modFabric fun f => { f with arrivals := f.arrivals ++ [a] })

end Sys2Proof.Machine
end

