-- ==== Sys2Proof/Machine/EngineRun.lean ====
section
/-! DEFINITION. The command queues at work (R237, R253, R260, R267): a command begins at the head of its queue, and later
completes; prefetches (R365) and firings (R309). -/

namespace Sys2Proof.Machine

/-! ## Execution -/

/-- What a command does once it is at the head of its queue; none where it waits there (R377). -/
def State.runCommand (s : State) (c : Command) : Option State :=
  match c.instr with
  | .cpy _ _ _ _ _ => some (s.runCpy c)
  | .cgath _ _ _ _ _ => some (s.runList c false)
  | .cscat _ _ _ _ _ => some (s.runList c true)
  | .cfill _ _ _ _ _ => some (s.runCfill c)
  | .cred _ _ _ _ _ => some (s.runCred c)
  | .cbcast _ _ _ _ _ => some (s.runCbcast c)
  | .cxfm _ _ _ _ _ => some (s.runCxfm c)
  | .cstashSave _ _ _ _ _ => some (s.runStashSave c)
  | .cstashGet _ _ _ _ _ => some (s.runStashGet c)
  | .csend _ _ _ _ _ => s.runCsend c
  | .crecv _ _ _ _ _ => some (s.runCrecv c)
  | .cmcast _ _ _ _ => some (s.runCmcast c)
  | .cnred _ _ _ _ _ => some (s.runCnred c)
  | .cringReduceScatter _ _ _ _ _ | .cringAllGather _ _ _ _ _ | .cringReduceScatterF32 _ _ _ _ _ | .cringAllGatherF32 _ _ _ _ _ =>
    s.runCring c
  | .cmaintClean _ _ _ _ _ | .cmaintFlush _ _ _ _ _ | .cmaintInval _ _ _ _ _ | .cmaintTlb _ _ _ _ _ => some (s.runCmaint c)
  | .cpin _ _ _ _ _ | .cpinUnpin _ _ _ _ _ => some (s.runCpin c)
  | _ => some (s.pushDone (Done.of c none))

/-- The command has begun. -/
def State.started (s : State) (c : Command) : Bool :=
  (s.core c.core).done.any (·.cmd.id == c.id) || (s.core c.core).moving.any (·.cmd.id == c.id) || s.fabric.reductions.any (·.cmd.id == c.id) || s.fabric.rings.any (·.cmd.id == c.id)

def isCrecv (i : Instr) : Bool :=
  match i with
  | .crecv _ _ _ _ _ => true
  | _ => false

/-- An earlier command of the same context, class and path has not completed (R253): it stands in a queue, or waits for room
in one. A posted receive has left its queue but completes when its window closes; a later receive, which moves no byte
itself, is posted beside it (R377). -/
def State.ordered (s : State) (c : Command) : Bool :=
  (s.cores.any fun (p : Fin 1792 × Core) => (List.finRange 2).any fun q => (p.2.queue.get q).any (·.before c)) ||
    ((s.findSerial c.owner).any fun x => (s.ctx x).commands.any (·.before c)) ||
    (!(isCrecv c.instr) && s.receiveOpen (·.before c))

def isTlbMaint (i : Instr) : Bool :=
  match i with
  | .cmaintTlb _ _ _ _ _ => true
  | _ => false

/-- A `cmaint.tlb` waits for its context's earlier class-15 stores: a walk after its flag finds what they wrote (R353). -/
def State.tableWaits (s : State) (c : Command) : Bool :=
  isTlbMaint c.instr && ((s.findSerial c.owner).any fun x =>
    (s.ctx x).released.any fun o => o.path == .l && o.cls == 15 && decide (o.id < c.id))

/-- A command that can begin. -/
def State.canBegin (s : State) (core : Fin 1792) (q : Fin 2) : Option Command :=
  match (s.core core).queue.get q with
  | [] => none
  | c :: _ => if s.started c || s.ordered c || s.tableWaits c then none else some c

/-- Between two states a command of a core has started a walk. -/
def State.walked (s t : State) (core : Fin 1792) : Bool :=
  (List.finRange 2).any fun q =>
    let w (u : State) : Nat := bits (u.ctx { core := core, slot := q }).reg.tlbstat 0 32
    w s != w t

/-- The copy at the head of a queue that has rows to move. -/
def State.movingAt (s : State) (core : Fin 1792) (q : Fin 2) : Option Moving :=
  (s.core core).moving.find? fun v => ((s.core core).queue.get q).head? == some v.cmd

/-- A queue's next piece of work: the next row of the copy at its head, or the command there begins; none where it waits,
as for another package's request for a line it writes (R383), or for a place of its die's walker (R352). -/
def State.advance (s : State) (core : Fin 1792) (q : Fin 2) : Option State :=
  (match s.movingAt core q with
   | some v => some (s.moveNext v)
   | none => (s.canBegin core q).bind s.runCommand).filter fun t =>
    !(s.intrudes t) && !(s.walkerFull core && s.walked t core)

/-- R237. -/
def execCommandExecute (core : Fin 1792) (queue : Fin 2) (s : State) : Host.Outcome State Fault Refusal :=
  .next ((s.advance core queue).getD s)

/-! ## Completion -/

/-- A walk within a command's scope that was in progress when a `cmaint.tlb` did its work (R356). -/
def State.walksOn (s : State) (d : Done) : Bool :=
  isTlbMaint d.cmd.instr && s.allCtx.any fun x => withinScope d.cmd x.core &&
    ((s.ctx x).walk.any fun w => w.running && w.failed.isNone && decide (w.n < d.began))

/-- Something the command did has still to take effect: a write of core control, or a held arrival entry. -/
def State.unsettled (s : State) (id : Nat) : Bool :=
  (s.ctlWrites.any fun w => match w.writer with
    | .copy n => n == id
    | .store _ _ => false) || s.fabric.heldEntries.any (·.cmd == some id)

/-- What a command does as it completes without error so far, and the error that this may bring (R363, R368). -/
def State.completionEffect (s : State) (d : Done) : Option Cause × State :=
  let c := d.cmd
  match c.instr with
  | .cstashSave _ _ _ _ _ => match d.obj with
    | some o => s.stashEnter o (saveTr c.c)
    | none => (none, s)
  | .cstashGet _ _ _ _ _ => (none, if flag c.c 63 then s.dropStash c.stashKey else s)
  | .cstashPf _ _ _ => (none, s.stashNearer c.stashKey)
  | .cstashDrop _ _ _ => (none, s.dropStash c.stashKey)
  | .cverFork _ _ _ | .cverRetire _ _ _ | .cverSettle _ _ _ => s.verApply c
  | _ => (none, s)

/-- A task's context, resident or saved, is changed. -/
def State.modOwner (s : State) (o : Owner) (f : Ctx → Ctx) : State :=
  match s.findSerial o with
  | some x => s.modCtx x f
  | none => { s with saved := s.saved.map fun (v : Saved) => if v.ctx.serial == o.serial then { v with ctx := f v.ctx } else v }

def State.ownerLives (s : State) (o : Owner) : Bool :=
  (s.findSerial o).isSome || s.saved.any fun (v : Saved) => v.ctx.serial == o.serial

/-- One more command of a queue has completed (R47). -/
def countDone (w : Word) (q : Fin 2) : Word := putField w (32 * q.val) 32 (bits w (32 * q.val) 32 + 1)

/-- The command leaves the engine and its queue. -/
def Core.retireCommand (k : Core) (c : Command) (n : Nat) : Core :=
  { k with
    done := k.done.eraseIdx n
    queue := k.queue.set c.queue ((k.queue.get c.queue).filter (·.id != c.id))
    cqdone := countDone k.cqdone c.queue }

/-- A completion: the flag, LATE-RANK, and the record that the command's writes are complete to its context once a wait
names the flag (R259, R260, R266, R388). -/
def State.completeCommand (s : State) (d : Done) (n : Nat) (err : Option Cause) : State :=
  let c := d.cmd
  let f := cmdFlag c.instr
  let s := s.modCore c.core fun k => k.retireCommand c n
  let s := s.modFabric fun g => { g with sent := g.sent.filter (·.cmd != some c.id) }
  let s := if d.lost then s.setLostw c.owner else s
  let s := match d.late, err with
    | some b, none => s.modOwner c.owner fun x => { x with reg := { x.reg with nrlr := putField x.reg.nrlr f.val 1 b.toNat } }
    | _, _ => s
  let s := if isCrecv c.instr then s.placeEvery else s
  let s := if s.ownerLives c.owner then { s with finished := s.finished ++ [{ owner := c.owner, flag := f, first := c.id, id := c.id }] } else s
  s.completeFlag c.owner f err

/-- The n-th command that has moved its bytes can complete: at domain scope or wider, once the acknowledgments that its writes
have asked for have come (R260, R383), and once its send has been acknowledged (R392). -/
def State.canComplete (s : State) (core : Fin 1792) (n : Nat) : Option Done :=
  match (s.core core).done[n]? with
  | none => none
  | some d =>
    if (d.err.isNone && s.fabric.sent.any fun p => p.cmd == some d.cmd.id) || s.unsettled d.cmd.id || s.walksOn d || (decide (4 ≤ d.cmd.scope.val) && s.acksFor fun v => v.cmd == some d.cmd.id) then none else some d

/-- R260, R267. The outcome is another package's, for a command that awaits one. -/
def execCommandCompletion (core : Fin 1792) (n : Nat) (outcome : Option Cause) (s : State) : Host.Outcome State Fault Refusal :=
  match s.canComplete core n with
  | none => .next s
  | some d =>
    match d.err <|> (if d.outside then outcome else none) with
    | some e => .next (s.completeCommand d n (some e))
    | none =>
      let (e, t) := s.completionEffect d
      .next (t.completeCommand d n e)

/-! ## The meridian and the stash engine on their own -/

/-- R365. -/
def execStashPrefetch (s : State) : Host.Outcome State Fault Refusal := .next s.stashPrefetch

/-- R309: arrivals held at a full queue enter as the firing makes room. -/
def execMeridianFiring (m : Fin 8) (s : State) : Host.Outcome State Fault Refusal := .next (s.fireMeridian m).settleHeld

end Sys2Proof.Machine
end

