-- ==== Sys2Proof/Machine/CoreEvents.lean ====
section
/-! DEFINITION. Events of the cores: arrivals, completions, deliveries, the record queue, and the writes that the
supervisor makes. An event that does not apply in a state leaves it as it is. -/

namespace Sys2Proof.Machine

/-! ## Loads and registers -/

/-- The oldest awaited load data of a delay line arrives. -/
def arrive (d : List InFlight) : List InFlight :=
  match d with
  | [] => []
  | e :: d => if !e.arrived && !e.rld then { e with arrived := true } :: d else e :: arrive d

/-- Results of a handler that a freeze held back land once their data is there. -/
def State.thawBank (s : State) (x : CtxId) : State :=
  match (s.core x.core).bank with
  | some b => if b.slot = x.slot && (b.delay.any fun e => e.left == 0) && !b.frozen then s.bankBoundary x else s
  | none => s

def State.arriveData (s : State) (x : CtxId) : State :=
  if (s.ctx x).delay.any fun e => !e.arrived && !e.rld then s.modCtx x fun c => { c with delay := arrive c.delay }
  else s.modCore x.core fun k => { k with bank := k.bank.map fun b => if b.slot = x.slot then { b with delay := arrive b.delay } else b }

/-- What a freeze held back at this boundary happens, once nothing freezes it. -/
def State.thaw (s : State) (x : CtxId) : State :=
  if ((s.ctx x).delay.any fun e => e.left == 0) && !((s.ctx x).frozen) then s.boundary x else s

/-- R52. -/
def execLoadDataArrival (x : CtxId) (s : State) : Host.Outcome State Fault Refusal :=
  .next (((s.arriveData x).thaw x).thawBank x)

/-- R75: a fill that cannot be made is told by the bundle that names the register (R76). -/
def execRegisterFill (x : CtxId) (v : Fin 64) (s : State) : Host.Outcome State Fault Refusal :=
  match s.fill x v [v] with
  | .ok t => .next t
  | .error _ => .next s

/-- R352: the walk that a context's bundle is held for ends. Its failure is told by the bundle at its issue (R231). -/
def execPageWalk (x : CtxId) (va : BitVec 56) (s : State) : Host.Outcome State Fault Refusal :=
  .next (if (s.ctx x).walk.any fun w => w.va == va then s.endWalk x else s)

/-! ## Released stores -/

/-- The n-th released store may perform and is, or is not, a counter's add. -/
def State.storeReady (s : State) (x : CtxId) (n : Nat) (add : Bool) : Bool :=
  s.mayPerform x n && match (s.ctx x).released[n]? with
    | some o => add == (match o.kind with
        | .counter .. => true
        | _ => false)
    | none => false

/-- R252. -/
def execReleasedStorePerform (x : CtxId) (n : Nat) (s : State) : Host.Outcome State Fault Refusal :=
  .next (if s.storeReady x n false then s.arriveStore x n else s)

/-- R279: a counter's add performs as a release. -/
def execCounterAdd (x : CtxId) (n : Nat) (s : State) : Host.Outcome State Fault Refusal :=
  .next (if s.storeReady x n true then (s.arriveStore x n).watchAll else s)

/-- R255, R261: XLATE where the page is absent at the home. A number past the released stores is the atomic that the context
is to issue next. -/
def execStoreRefused (x : CtxId) (n : Nat) (prot : Bool) (s : State) : Host.Outcome State Fault Refusal :=
  let e : Cause := if prot then .prot else .xlate
  .next (if s.storeReady x n false then s.refuseStore x n e
    else if (s.ctx x).status == .running && decide ((s.ctx x).released.length ≤ n) then
      s.modCtx x fun c => { c with refusal := some e }
    else s)

/-- R262. -/
def execRqctlRetry (x : CtxId) (s : State) : Host.Outcome State Fault Refusal := .next (s.retryParked x)

/-- R262. -/
def execRqctlDrop (x : CtxId) (s : State) : Host.Outcome State Fault Refusal := .next (s.modCtx x (·.dropParked))

/-- R264: the dirty lines are written back, those of other packages to them (R383), and the increments may leave the domain. -/
def execReleaseFlush (s : State) : Host.Outcome State Fault Refusal :=
  if s.flush.isEmpty then .next s
  else
    let clean (k : Core) : Core := k.cleanLines (k.l1.map (·.line))
    let t := s.modL1s (fun _ => true) clean
    let away := (t.l2.map (·.1)).filter fun line => (t.remoteHome line).isSome
    .next { (t.cleanL2 away).homeCopies away with flush := [] }

/-! ## Completions, watches, interrupts -/

/-- The completion of a load block is applied; one that has left the cache is gone with it (R230). -/
def Core.blockDone (k : Core) (id : Nat) : Core :=
  { k with blocks := k.blocks.filterMap fun b =>
      if b.id = id then (if b.lines.isEmpty then none else some { b with due := none }) else some b }

/-- R230. -/
def execLdBlkCompletion (core : Fin 1792) (n : Nat) (s : State) : Host.Outcome State Fault Refusal :=
  match (s.core core).blocks[n]? with
  | none => .next s
  | some b =>
    match b.due with
    | none => .next s
    | some d =>
      let t := s.modCore core fun k => k.blockDone b.id
      .next (t.completeFlag d.owner d.flag d.err)

/-- R282: the counter of another live package has come to the threshold. -/
def State.farFires (s : State) (x : CtxId) (j : Fin 4) : Bool :=
  let w := (s.ctx x).wn.get j
  armed w && !(s.nameHere (watchName w)) && !(s.watchDead x j)

/-- R282. -/
def execWatchFire (x : CtxId) (j : Fin 4) (s : State) : Host.Outcome State Fault Refusal :=
  .next (if !((s.ctx x).resident) then s
    else if s.farFires x j then s.modCtx x fun c => c.fire j (s.core x.core).clock.toNat
    else s.fireWatch x j)

/-- R275. -/
def execUserInterruptDelivery (x : CtxId) (s : State) : Host.Outcome State Fault Refusal :=
  .next (if s.firstServed x.core = some x then s.deliverInterrupt x else s)

/-- R381: the boundary at the end of a declared latency, where a freeze has not let it pass yet. -/
def execRldDeadline (x : CtxId) (s : State) : Host.Outcome State Fault Refusal := .next (s.thaw x)

/-- R381: an overdue reply replaces the late value, unless another result has landed there. -/
def execRldReply (x : CtxId) (n : Nat) (s : State) : Host.Outcome State Fault Refusal :=
  .next (s.answer x n)

/-! ## The record queue (R324) -/

/-- Records are written, oldest first, as long as there is room. -/
def State.writeRecords (s : State) (fuel : Nat) : State :=
  match fuel with
  | 0 => s
  | f + 1 =>
    let t := s.writeRecord
    if t.waiting.length < s.waiting.length then t.writeRecords f else s

def State.settleRecords (s : State) : State := (s.writeRecords s.waiting.length).watchAll

/-- R324. -/
def execFaultRecordWrite (s : State) : Host.Outcome State Fault Refusal := .next s.writeRecord.watchAll

/-- A write by the supervisor of a register that the package has once; a value that breaks its rules changes nothing. -/
def State.writePackage (s : State) (n : Nat) (v : Word) : State :=
  let x : CtxId := { core := s.cur.core, slot := 0 }
  match s.ctlBad x n v with
  | some _ => s
  | none => s.writeCtl x n v

/-- R324. -/
def execFrqWrite (v : Word) (s : State) : Host.Outcome State Fault Refusal := .next (s.writePackage 0x141 v).settleRecords

/-- R324. -/
def execFrposWrite (v : Word) (s : State) : Host.Outcome State Fault Refusal := .next (s.writePackage 0x142 v).settleRecords

/-- R366. -/
def execVrbWrite (k : Fin 8) (v : Word) (s : State) : Host.Outcome State Fault Refusal :=
  .next (if s.vrbBad k v then s else s.writeVrb k v)

/-! ## Writes of a slot's registers by the supervisor -/

/-- A supervisor write of a slot's register (R228, R472): refused, it changes nothing; one that must wait stays pending. -/
def State.superWrite (s : State) (x : CtxId) (n : Nat) (v : Word) : State :=
  let off : Nat := x.slot.val * 0x20000 + 8 * n
  match s.writeCoreCtl x.core off v with
  | .done t => t
  | .bad _ => s
  | .wait t => { t with ctlWrites := t.ctlWrites ++
      [({ core := x.core, off := BitVec.ofNat 22 off, val := v, writer := .store x 0 } : CtlWrite)] }

/-- R228: a store or a copy that has performed on core control acts. An offset without a register is refused at issue
(R224), so no write of one comes. -/
def execCoreControlWrite (core : Fin 1792) (off : BitVec 22) (v : Word) (w : Writer) (s : State) : Host.Outcome State Fault Refusal :=
  .next (if coreCtlHas off.toNat && off.toNat % 8 == 0 then s.applyCtl { core := core, off := off, val := v, writer := w } else s)

/-- R271. -/
def execFlagsWrite (x : CtxId) (v : Word) (s : State) : Host.Outcome State Fault Refusal := .next (s.superWrite x 0x074 v)

/-- R184. -/
def execMquartWrite (x : CtxId) (v : Word) (s : State) : Host.Outcome State Fault Refusal := .next (s.superWrite x 0x040 v)

/-- R221. -/
def execCarveWrite (x : CtxId) (v : Word) (s : State) : Host.Outcome State Fault Refusal := .next (s.superWrite x 0x020 v)

/-- R283. -/
def execHgWrite (x : CtxId) (n : Fin 16) (v : Word) (s : State) : Host.Outcome State Fault Refusal :=
  .next (s.superWrite x (0x080 + n.val) v)

/-- R283. -/
def execHsWrite (x : CtxId) (n : Fin 16) (v : Word) (s : State) : Host.Outcome State Fault Refusal :=
  .next (s.superWrite x (0x090 + n.val) v)

/-- R281: an armed entry whose counter has reached its threshold fires at the next boundary. -/
def execWatchEntryWrite (x : CtxId) (j : Fin 4) (threshold : Bool) (v : Word) (s : State) : Host.Outcome State Fault Refusal :=
  .next (s.superWrite x (0x0A8 + 2 * j.val + threshold.toNat) v)

/-! ## Contexts created by the supervisor (R67) -/

/-- The slot with a context in it whose registers hold the values of R65; the creation carries no others (DESIGN CHOICE,
notes/assumptions/88.md). -/
def Ctx.create (c : Ctx) (serial : Nat) (pc : BitVec 56) (sup : Bool) : Ctx :=
  { Ctx.reset with
    status := .running, serial := serial, sup := sup, pc := pc, ordered := Vector.replicate 16 serial
    reg := { c.reg with nrlr := 0, lostw := false }
    trace := c.trace }

/-- R65, R67: the accumulators and planes of the slot's quarters are cleared with its registers. -/
def execContextCreate (x : CtxId) (pc : BitVec 56) (sup : Bool) (s : State) : Host.Outcome State Fault Refusal :=
  if (s.ctx x).resident then .next s
  else
    let (id, t) := s.fresh
    let t := (List.finRange 4).foldl (fun t j => if flag (t.quarters x) j.val then t.clearQuarter x.core j else t) t
    let t := t.modCtx x fun c => c.create id pc sup
    .next ((t.modCore x.core fun k => (k.dropSlots x.slot).endHandler x.slot).snapshot x)

end Sys2Proof.Machine
end

