-- ==== Sys2Proof/Machine/TaskEvents.lean ====
section
/-! DEFINITION. Events of tasks: starts, pre-emption and switches (R303, R311, R313), and the supervisor's actions on a
halted context (R326). -/

namespace Sys2Proof.Machine

/-! ## Starting and seeking a slot -/

/-- R303: the ready task that goes first starts, if it has not run before. -/
def execTaskStart (x : CtxId) (s : State) : Host.Outcome State Fault Refusal :=
  match s.nextFor x with
  | some r => .next (if r.saved then s else s.startTask x r)
  | none => .next s

/-- R311. -/
def execPreemptionDecision (l : Fin 1792) (s : State) : Host.Outcome State Fault Refusal := .next (s.preempt l)

/-- A deferred victim's slice has come to where the decision is made again (R311). -/
def Ctx.floorOver (c : Ctx) : Bool :=
  match c.deferTo with
  | some d => decide (d ≤ c.slice)
  | none => false

/-- R311. -/
def execSliceFloorExpiry (x : CtxId) (s : State) : Host.Outcome State Fault Refusal :=
  .next (if (s.ctx x).floorOver then s.preempt (s.logicalOf x) else s)

/-- The slice of a resident task has reached its slot's nonzero quantum (R311). -/
def Ctx.quantumOver (c : Ctx) : Bool :=
  c.task.isSome && bits c.reg.swcost 32 16 != 0 && decide (bits c.reg.swcost 32 16 ≤ c.slice)

/-- R311. -/
def execQuantumExpiry (x : CtxId) (s : State) : Host.Outcome State Fault Refusal :=
  .next (if (s.ctx x).quantumOver then s.preempt (s.logicalOf x) else s)

/-- A victim that has come to no checkpoint in 512 core cycles stands where one can be forced (R313, R319). -/
def State.forceDue (s : State) (x : CtxId) : Bool :=
  match (s.ctx x).evict with
  | some e => !e.reached && decide (e.since + 512 ≤ (s.core x.core).clock.toNat) && (s.ctx x).status == .running &&
      !((s.ctx x).frozen) && (s.ctx x).releasing.isNone
  | none => false

/-- R313. -/
def execPreemptForcedCheckpoint (x : CtxId) (s : State) : Host.Outcome State Fault Refusal :=
  .next (if s.forceDue x then s.forceCheckpoint x .pre else s)

/-- R313. -/
def execCheckpointSwitchOut (x : CtxId) (s : State) : Host.Outcome State Fault Refusal :=
  .next (if s.switchDue x then s.switchOut x else s)

/-! ## Resumption (R200, R266, R313) -/

/-- The slot with a saved task in it. What the slot's own registers hold stands, but for what is saved with a task
(R65, R332): its containment bit and `%nrlr`. Its watch entries, pending interrupts and recorded causes are the supervisor's
to save and restore (R270). The measured cost of the switch is free (R315). -/
def Saved.context (v : Saved) (c : Ctx) (cost : Nat) : Ctx :=
  { v.ctx with
    status := if v.halted then .halted else .running
    slice := 0, evict := none, deferTo := none, trace := c.trace, rephase := v.ctx.regs.phase.isSome
    flags := { v.ctx.flags with cause := c.flags.cause, errAt := c.flags.errAt }
    wn := c.wn, wt := c.wt, pend := c.pend, keep := { v.ctx.keep with wn := c.wn, wt := c.wt }
    reg := { c.reg with
      swcost := putField c.reg.swcost 0 32 cost, lostw := v.ctx.reg.lostw, nrlr := v.ctx.reg.nrlr } }

/-- The completions held for a task are applied (R266). -/
def Ctx.applyHeld (c : Ctx) (l : List (Fin 32 × Option Cause)) (t : Nat) : Ctx :=
  l.foldl (fun c p => c.completeFlag p.1 p.2 t) c

/-- A reload that fails is told by the first bundle (R200). -/
def State.reloadFailed (s : State) (x : CtxId) (e : Cause) (n : Nat) : State :=
  s.modCtx x fun c => { c with reloadErr := c.reloadErr <|> some (e, n) }

/-- A valid plane is rebuilt from its source (R200). -/
def State.reloadIf (s : State) (x : CtxId) (i : Fin 16) (p : Nat) (r : BitVec 128) : State :=
  if flag r 127 then
    match s.reloadPlane x i p r with
    | .ok t => t
    | .error e => s.reloadFailed x e (2 * i.val + p)
  else s

def State.reloadSegs (s : State) (x : CtxId) (l : List (Fin 16 × Segment)) : State :=
  match l with
  | [] => s
  | (i, g) :: l =>
    let s := s.modCore x.core fun k => { k with seg := k.seg.set i { g with live := Plane.reset, shadow := Plane.reset } }
    (((s.reloadIf x i 0 g.live.record).reloadIf x i 1 g.shadow.record)).reloadSegs x l

def State.reloadEyes (s : State) (x : CtxId) (l : List (Fin 8 × Eyepiece)) : State :=
  match l with
  | [] => s
  | (e, p) :: l =>
    (if flag p.record 127 then
      match s.reloadEye x e p.record with
      | .ok t => t
      | .error c => s.reloadFailed x c (32 + e.val)
    else s).reloadEyes x l

/-- A switched-out task comes back (R313): its state and accumulators, its planes and eyepieces, the completions that
waited. -/
def State.resumeTask (s : State) (x : CtxId) (v : Saved) (quart : BitVec 4) : State :=
  let (v, s) := s.fromFrame v
  let cost := Config.freeNat s.free
  let s := { s with saved := s.saved.filter (·.key != v.key), free := s.free + 1 }
  let s := (s.yieldQuarters x quart).setQuarters x quart
  let s := (List.finRange 4).foldl (fun s j => if flag quart j.val then s.clearQuarter x.core j else s) s
  let s := s.modCtx x fun c => v.context c cost
  let s := s.modCtx x fun c => { c with reg := { c.reg with mquart := BitVec.ofNat 64 quart.toNat } }
  let s := ((s.restoreAcc x v.acc).reloadSegs x v.segs).reloadEyes x v.eyes
  let s := s.modCtx x fun c => (c.applyHeld v.due (s.core x.core).clock.toNat).applyLevels (s.core x.core).clock.toNat
  s.traceEvent x 0xF4

/-- R313. -/
def execTaskResume (x : CtxId) (s : State) : Host.Outcome State Fault Refusal :=
  match s.nextFor x with
  | none => .next s
  | some r =>
    match s.saved.find? (·.key == r.key) with
    | some v => .next (if r.saved then s.resumeTask x v r.quart else s)
    | none => .next s

/-! ## The supervisor's actions (R326) -/

/-- A write of an action to `%fctl`, the containment bit left as it is. -/
def State.fctlAct (s : State) (x : CtxId) (act : Nat) : State := s.writeFctl x (BitVec.ofNat 64 (2 ^ 62 + act))

/-- R326. -/
def execFctlResume (x : CtxId) (s : State) : Host.Outcome State Fault Refusal := .next (s.fctlAct x 1)

/-- R312, R326. -/
def execFctlKill (x : CtxId) (s : State) : Host.Outcome State Fault Refusal := .next (s.fctlAct x 2)

/-- R313, R326. -/
def execFctlSwitchOut (x : CtxId) (s : State) : Host.Outcome State Fault Refusal := .next (s.fctlAct x 3)

end Sys2Proof.Machine
end

