-- ==== Sys2Proof/Machine/FabricEvents.lean ====
section
/-! DEFINITION. Events of the ports and the fabric: the directory of this package's lines (R382, R383), dead peers (R397 to
R399), long-haul mode (R394, R395), packets (R396), memory errors (R345) and background activities (R369). -/

namespace Sys2Proof.Machine

/-! ## The fabric directory (R382, R383) -/

/-- A request may be served: its sender is another package, not dead, and no ownership request is in progress. -/
def State.mayServe (s : State) (line : Nat) (who : BitVec 11) : Bool :=
  who != s.fabric.coord && !(s.homeDead who) && (s.dirEntry line).newOwner.isNone

/-- R383. -/
def execFabricRead (line : Nat) (who : Fin 2048) (s : State) : Host.Outcome State Fault Refusal :=
  let w := BitVec.ofFin who
  if !(s.mayServe line w) then .next s
  else
    let e := s.addSharer (s.entryRead (s.dirEntry line)) w
    .next (s.setDir (match e.state with
      | .i => { e with state := .s }
      | _ => e))

/-- Copies of a line in this package's caches are invalid. -/
def State.dropLine (s : State) (line : Nat) : State :=
  { s with cores := s.cores.map fun (p : Fin 1792 × Core) => (p.1, p.2.invalidLines [line]) }

/-- R383. -/
def execFabricOwnership (line : Nat) (who : Fin 2048) (s : State) : Host.Outcome State Fault Refusal :=
  let w := BitVec.ofFin who
  if !(s.mayServe line w) then .next s
  else
    let e := s.dirEntry line
    .next ((s.dropLine (globalLine s.fabric.coord line)).grantIfDone { e with waitAck := s.invalidated e w, newOwner := some w })

/-- R383. -/
def execInvalidationAck (line : Nat) (who : Fin 2048) (s : State) : Host.Outcome State Fault Refusal :=
  let e := s.dirEntry line
  .next (s.grantIfDone { e with waitAck := e.waitAck.filter (· != BitVec.ofFin who) }).placeEvery

/-- R383: this package's copies of a line of another are invalid, and its bytes are those of another package's write. -/
def execFabricInvalidation (line : Nat) (home : Fin 2048) (s : State) : Host.Outcome State Fault Refusal :=
  let h := BitVec.ofFin home
  if h = s.fabric.coord then .next s
  else .next (((s.dropLine (globalLine h line)).renew (globalLine h line)).modFabric fun f => { f with
    copies := f.copies.filter fun c => !(c.home == h && c.line == line) })

/-- The owner named in an entry is this package. -/
def DirEntry.owned (e : DirEntry) (who : BitVec 11) : Bool :=
  e.owner == who && (match e.state with
    | .e | .m | .o => true
    | _ => false)

/-- A line's bytes as another package gives them back, with their tags (R379). -/
def State.putLine (s : State) (line : Nat) (data : List (Byte × Bool)) : State :=
  let s := { s with
    views := s.views.filter fun v => v.key / 128 != line
    damaged := s.damaged.filter fun k => k / 4 != line }
  let s := s.putBytes (128 * line) (data.map (·.1))
  (List.range 4).foldl (fun s i => s.setTag (4 * line + i) (((data.drop (32 * i)).take 32).any (·.2))) s

/-- R383, R399: one that comes from a dead package is discarded; each byte has the tag of its sector (R379). While a request
for ownership is in progress the owner's data is the requester's, and none of it comes home. -/
def execFabricWriteBack (line : Nat) (who : Fin 2048) (data : List (Byte × Bool)) (s : State) :
    Host.Outcome State Fault Refusal :=
  let w := BitVec.ofFin who
  let e := s.dirEntry line
  if s.homeDead w || !(e.owned w) || e.newOwner.isSome then .next s
  else
    let t := s.putLine (globalLine s.fabric.coord line) (data.take 128)
    .next (t.setDir (if e.exact = 0 ∧ e.coarse = 0 then { e with state := .i, owner := 0, told := false } else { e with state := .s, owner := 0, told := false }))

/-- R383. -/
def execFabricEviction (line : Nat) (who : Fin 2048) (s : State) : Host.Outcome State Fault Refusal :=
  let e := s.dirEntry line
  match s.peerIndex (BitVec.ofFin who) with
  | none => .next s
  | some i =>
    let e := { e with exact := e.exact &&& ~~~(BitVec.ofNat 16 (2 ^ i)) }
    .next (s.setDir (if e.state = .s ∧ e.exact = 0 ∧ e.coarse = 0 then { e with state := .i } else e))

/-- This package owns a line of another. -/
def State.ownsRemote (s : State) (line : Nat) : Bool :=
  match s.remoteHome line with
  | some (h, l) => (s.copyOf h l).any fun c => c.state == .e || c.state == .m || c.state == .o
  | none => false

/-- R383: `line` numbers the line with its home. An M owner that another package reads from becomes O; one that is asked
for ownership keeps no copy. -/
def execForwardedRequest (line : Nat) (who : Fin 2048) (own : Bool) (s : State) : Host.Outcome State Fault Refusal :=
  match s.remoteHome line with
  | none => .next s
  | some (h, l) =>
    if !(s.ownsRemote line) || s.homeDead (BitVec.ofFin who) then .next s
    else if own then .next (((s.dropLine line).renew line).modFabric fun f => { f with
      copies := f.copies.filter fun c => !(c.home == h && c.line == l) })
    else .next (s.setCopy { home := h, line := l, state := .o })

/-! ## Dead peers (R397 to R399) -/

/-- Directory cleanup of an entry at a declaration (R399): none where the dead package owned the line. -/
def State.cleanEntry (s : State) (who : BitVec 11) (e : DirEntry) : Option DirEntry :=
  if e.owned who then none
  else
    let exact := match s.peerIndex who with
      | some i => e.exact &&& ~~~(BitVec.ofNat 16 (2 ^ i))
      | none => e.exact
    let e := { e with exact := exact, waitAck := e.waitAck.filter (· != who) }
    let e := if e.newOwner = some who then { e with newOwner := none, waitAck := [] } else e
    some (if e.state = .s ∧ e.exact = 0 ∧ e.coarse = 0 then { e with state := .i } else e)

def State.cleanDir (s : State) (who : BitVec 11) (l : List DirEntry) : State :=
  match l with
  | [] => s
  | e :: l =>
    match s.cleanEntry who e with
    | some e => (s.grantIfDone e).cleanDir who l
    | none =>
      let line := globalLine s.fabric.coord e.line
      let t := s.damage ((List.range 4).map fun i => line * 4 + i)
      ((t.dropLine line).setDir (DirEntry.empty e.line)).cleanDir who l

/-- Commands that await a dead package complete with CONTAIN (R398). -/
def Done.answered (d : Done) (p : Fin 8 × BitVec 11 → Bool) : Done :=
  if d.outside && d.dst.any p then { d with err := d.err <|> some .contain, outside := false } else d

/-- A loaded result whose data is lost: 0, with a lost tag where the register has one (R398). -/
def Landing.lose (l : Landing) : Landing :=
  match l with
  | .s d _ => .s d { val := 0, tag := .lost }
  | .v d _ lanes => .v d { val := 0, tags := Vector.replicate 8 .lost } lanes
  | .z d _ => .z d { val := 0, tag := .lost }
  | .dim n _ => .dim n 0
  | .table n id l => .table n id (l.map fun _ => 0)
  | .key _ => .key 0
  | l => l

/-- Loads that await a dead package are answered with lost data (R398). -/
def InFlight.answered (e : InFlight) (p : Fin 8 × BitVec 11 → Bool) : InFlight :=
  if !e.arrived && e.peer.any p then { e with landing := e.landing.lose, arrived := true } else e

def Overdue.answered (o : Overdue) (p : Fin 8 × BitVec 11 → Bool) : Overdue :=
  if o.peer.any p then { o with x := { val := 0, tag := .lost } } else o

def Ctx.answered (c : Ctx) (p : Fin 8 × BitVec 11 → Bool) : Ctx :=
  { c with
    delay := c.delay.map (·.answered p)
    overdue := c.overdue.map (·.answered p)
    keep := { c.keep with delay := c.keep.delay.map (·.answered p), overdue := c.keep.overdue.map (·.answered p) } }

def Core.answered (k : Core) (p : Fin 8 × BitVec 11 → Bool) : Core :=
  { k with
    ctx := k.ctx.map (·.answered p)
    bank := k.bank.map fun b => { b with delay := b.delay.map (·.answered p) }
    done := k.done.map (·.answered p) }

/-- The windows of channels bound to a dead package close with CONTAIN (R398). -/
def State.closeDead (s : State) (l : List (Fin 256 × Window)) : State :=
  match l with
  | [] => s
  | (ch, w) :: l => (if s.homeDead (chPeer (s.channelEntry ch.val)) then s.closeWindow ch w (some .contain) else s).closeDead l

/-- Ring steps that await a dead neighbour fail (R392). -/
def State.failRings (s : State) (l : List RingStep) : State :=
  match l with
  | [] => s
  | r :: l =>
    (if s.ringDead 1 || s.ringDead (-1) then (s.dropRing r.cmd.id).pushDone { Done.of r.cmd (some .contain) with lost := r.lost }
     else s).failRings l

/-- Acknowledgments due from packages that answer no more count as received (R399). -/
def State.ackDead (s : State) : State :=
  s.fabric.dir.foldl (fun s e => if e.newOwner.isSome then s.grantIfDone { e with waitAck := e.waitAck.filter fun p => !(s.homeDead p) } else s) s

/-- Every request outstanding toward a package that is dead or out of reach is answered (R392, R397, R398). -/
def State.answerAll (s : State) : State :=
  let dead (p : Fin 8 × BitVec 11) : Bool := s.deadPeer p
  let s := { s with
    cores := s.cores.map fun (p : Fin 1792 × Core) => (p.1, p.2.answered dead)
    saved := s.saved.map fun (v : Saved) => { v with ctx := v.ctx.answered dead } }
  let s := s.ackDead.closeDead s.fabric.windows
  ((s.stepReductions s.fabric.reductions).failRings s.fabric.rings).watchAll

/-- A package is declared dead, as this package learns of it: the lists, the cleanup, and the answers (R397 to R399). -/
def State.markDead (s : State) (dom : Fin 8) (who : BitVec 11) : State :=
  if s.fabric.dead.contains (dom, who) || (dom == s.fabric.dom && who == s.fabric.coord) then s
  else
    let s := s.modFabric fun f => { f with
      dead := (dom, who) :: f.dead, decl := f.decl + 1, dp := ((dom, who) :: f.dp).take 16
      sent := f.sent.filter fun p => p.dst != packageOf dom who, asked := f.asked.filter fun a => a.src != packageOf dom who }
    let s := (s.event 1).fireShutter .dead
    (if dom == s.fabric.dom then s.cleanDir who s.fabric.dir else s).answerAll

/-- R397. -/
def execDeadNoticeReceive (dom : Fin 8) (coord : Fin 2048) (s : State) : Host.Outcome State Fault Refusal :=
  .next (s.markDead dom (BitVec.ofFin coord))

/-- The physical position of a logical one in a row, as the relabel table has it (R372). -/
def Fabric.physY (f : Fabric) (row : Fin 64) (y : Fin 32) : Fin 33 :=
  ((f.relabel.find? fun p => p.1 == (row, y)).map (·.2)).getD ⟨y.val, by omega⟩

/-- The logical position that stands at a physical one of a row: none at a spare's. -/
def State.logicalY (s : State) (row : Fin 64) (py : Nat) : Option (Fin 32) :=
  (List.finRange 32).find? fun y => (s.fabric.physY row y).val == py

/-- The package at a port, by domain and coordinate (R371); an unused spare has none. -/
def State.neighbour (s : State) (port : Fin 6) : Option (Fin 8 × BitVec 11) :=
  let f := s.fabric
  let row (n : Nat) : Fin 64 := ⟨n % 64, Nat.mod_lt _ (by decide)⟩
  let at_ (x : Fin 64) (py : Nat) : Option (Fin 8 × BitVec 11) := (s.logicalY x py).map fun y => (f.dom, BitVec.ofNat 11 (32 * x.val + y.val))
  let ring (n : Int) : Option (Fin 8 × BitVec 11) :=
    if f.ndom.val ≤ 1 then none else some (⟨s.ringDom n % 8, Nat.mod_lt _ (by decide)⟩, f.coord)
  let x := f.px.toNat
  let y := f.coord.toNat % 32
  match port with
  | 0 => some (f.dom, BitVec.ofNat 11 (32 * ((x + 1) % 64) + y))
  | 1 => some (f.dom, BitVec.ofNat 11 (32 * ((x + 63) % 64) + y))
  | 2 => at_ (row x) ((f.py.toNat + 1) % 33)
  | 3 => at_ (row x) ((f.py.toNat + 32) % 33)
  | 4 => ring 1
  | 5 => ring (-1)

/-- R397: the port's neighbour has gone silent, or its port is down; the port is isolated, and what lies beyond it may be out
of reach. -/
def execDeadPeerDeclaration (port : Fin 6) (s : State) : Host.Outcome State Fault Refusal :=
  if (s.fabric.port.get port).isolated then .next s
  else
    let t := s.modPort port fun p => { p with isolated := true }
    match s.neighbour port with
    | some (d, c) => .next (t.markDead d c).answerAll
    | none => .next t.answerAll

/-! ## Long-haul mode (R394, R395) -/

/-- The ring port of a number. -/
def ringPort (n : Fin 2) : Fin 6 := if n = 0 then 4 else 5

/-- The nonce field of the sender at a ring port (R394). -/
def nonceField (dom : Nat) (coord : BitVec 11) (port : Nat) : Nat := dom * 2 ^ 13 + coord.toNat * 4 + port * 2

/-- The key of an epoch (R394), the same at both ends: the nonce field of the end whose port is D+ comes first. -/
def State.epochKey (s : State) (port : Fin 2) (secret : BitVec 448) (epoch : Nat) : List Byte :=
  let mine := nonceField s.fabric.dom.val s.fabric.coord port.val
  let other := nonceField (s.ringDom (if port = 0 then 1 else -1)) s.fabric.coord (1 - port.val)
  let (a, b) := if port = 0 then (mine, other) else (other, mine)
  Config.shake256 (bytesOf 56 secret.toNat ++ bytesOf 4 epoch ++ bytesOf 4 a ++ bytesOf 4 b) 32

/-- A failed verification takes the port down (R394). -/
def Port.down (p : Port) : Port := { p with lanes := 0 }

/-- The identity key's private part (R464). -/
def identityKey : List Byte := Config.shake256 (Config.deviceSecret ++ [0x69, 0x64, 0x65, 0x6E, 0x74]) 57

/-- This end's half of an exchange, signed with the identity key (R394, R464). -/
def State.offerHalf (s : State) (port : Fin 2) : State :=
  let h := Config.x448Half s.free
  { s with free := s.free + 1 }.modPort (ringPort port) fun p => { p with half := h, halfSig := Config.ed448Sign identityKey h }

/-- The other end's half verifies under its identity (R394). -/
def State.halfVerifies (s : State) (port : Fin 2) (h : PeerHalf) : Bool :=
  Config.ed448Verify (Config.peerIdentity (s.ringDom (if port = 0 then 1 else -1)) s.fabric.coord.toNat) h.half h.signature

/-- R394: at bring-up epochs count from 1 again. -/
def execKeyAgreement (port : Fin 2) (peer : PeerHalf) (secret : BitVec 448) (s : State) : Host.Outcome State Fault Refusal :=
  if !(s.fabric.port.get (ringPort port)).longHaul then .next s
  else if !(s.halfVerifies port peer) then .next ((s.offerHalf port).modPort (ringPort port) Port.down)
  else
    let k := s.epochKey port secret 1
    .next ((s.offerHalf port).modPort (ringPort port) fun p => { p with epoch := 1, keys := [(1, k)], counter := 0, rxEpoch := 1, rxNext := 0 })

/-- The newest epoch of which the port holds the key. -/
def Port.newest (p : Port) : Nat := p.keys.foldl (fun n k => max n k.1) 0

/-- The counter of the newest epoch has reached 2^31 at one of the two ends. -/
def Port.rotates (p : Port) : Bool :=
  (p.epoch == p.newest && decide (2 ^ 31 ≤ p.counter)) || (p.rxEpoch == p.newest && decide (2 ^ 31 ≤ p.rxNext))

/-- R394: from 2^31 frames of an epoch on, the next epoch's key is agreed. -/
def execEpochRotation (port : Fin 2) (peer : PeerHalf) (secret : BitVec 448) (s : State) : Host.Outcome State Fault Refusal :=
  let p := s.fabric.port.get (ringPort port)
  if !p.longHaul || !p.rotates then .next s
  else if !(s.halfVerifies port peer) then .next ((s.offerHalf port).modPort (ringPort port) Port.down)
  else
    let k := s.epochKey port secret (p.newest + 1)
    .next ((s.offerHalf port).modPort (ringPort port) fun p => { p with keys := (p.newest + 1, k) :: p.keys })

/-- The order of frames: epoch first (R395). -/
def frameBefore (e c e' c' : Nat) : Bool := decide (e < e') || (e == e' && decide (c < c'))

/-- The frame the receiver expects next. -/
def Port.expected (p : Port) : Nat × Nat := if p.rxNext < 2 ^ 32 then (p.rxEpoch, p.rxNext) else (p.rxEpoch + 1, 0)

/-- A receiver's answer to a frame (R394, R395): accepted in sequence; discarded, and counted, where its tag fails or its
epoch's key is not held; a duplicate is discarded; after a gap a replay is asked for. -/
def Port.receive (p : Port) (epoch counter : Nat) (ok : Bool) : Port :=
  let (e, c) := p.expected
  if !ok || (p.keyOf epoch).isNone then { p with badtag := p.badtag + 1 }
  else if epoch = e ∧ counter = c then { p with rxEpoch := e, rxNext := c + 1 }.prune
  else if frameBefore epoch counter e c then p
  else { p with replay := p.replay + 1 }

/-- R394, R395. -/
def execFrameReceive (port : Fin 2) (epoch : Nat) (counter : BitVec 32) (tagOk : Bool) (s : State) : Host.Outcome State Fault Refusal :=
  let p := s.fabric.port.get (ringPort port)
  .next (if p.longHaul && p.up then s.modPort (ringPort port) fun p => p.receive epoch counter.toNat tagOk else s)

/-- The bound of a round trip: with the time to send 512 MiB at the rate of the running lanes (R371), rounded up to a whole
µs (R395). -/
def linkBound (us ns lanes : Nat) : BitVec 16 :=
  let rate := lanes * 400000
  BitVec.ofNat 16 (((1000 * us + ns) * rate + 1000 * 2 ^ 32 + 1000 * rate - 1) / (1000 * rate))

/-- R395; `%e2et` is at least twice the larger bound (R374). -/
def execRoundTripMeasure (port : Fin 2) (us : Nat) (ns : Fin 1000) (s : State) : Host.Outcome State Fault Refusal :=
  let p := s.fabric.port.get (ringPort port)
  let lanes := ((List.range 8).filter fun i => p.lanes.getLsbD i).length
  if !p.longHaul || lanes = 0 then .next s
  else
    let t := s.modPort (ringPort port) fun p => { p with bound := linkBound us ns.val lanes }
    let least := 2 * max (t.fabric.port.get 4).bound.toNat (t.fabric.port.get 5).bound.toNat
    .next (t.modFabric fun f => { f with e2et := if f.e2et.toNat < least then BitVec.ofNat 64 least else f.e2et })

/-! ## Packets (R396) -/

/-- A sequence number lies at or below a base. -/
def atOrBelow (b n : BitVec 32) : Bool := decide ((b - n).toNat < 2 ^ 31)

/-- The base passes the numbers above it that have been applied. -/
def Dedup.advance (w : Dedup) (fuel : Nat) : Dedup :=
  match fuel with
  | 0 => w
  | f + 1 =>
    if w.above.contains (w.base + 1) then { w with base := w.base + 1, above := w.above.filter (· != w.base + 1) }.advance f else w

/-- What a window makes of a packet: a duplicate, one too far ahead, or the window after it has been applied. -/
inductive Verdict where
  | dup | far | apply (w : Dedup)
deriving DecidableEq, Repr

def Dedup.judge (w : Dedup) (n : BitVec 32) : Verdict :=
  if atOrBelow w.base n || w.above.contains n then .dup
  else if 4096 < (n - w.base).toNat then .far
  else .apply ({ w with above := n :: w.above }.advance 4096)

/-- What an applied packet does here: a record waits for its step's event, an add acts (R279, R392). -/
def State.applyPacket (s : State) (d : Payload) : State :=
  match d with
  | .ring id kind step n lost data =>
    s.modFabric fun f => { f with inbox := f.inbox ++ [({ id := id, kind := kind, step := step, n := n, lost := lost, data := data } : RingArrival)] }
  | .add num amount => (s.addCounter num amount).watchAll
  | .group n image => s.modFabric fun f => { f with groups := listGroup f.groups n.val image }
  | .watch _ _ | .read _ | .ack _ _ | .other _ => s

/-- What a packet does here, from a source and a stream of its: a read is answered in a packet of this package, and does
nothing yet where the port holds that; a watch is noted (R280, R282, R396). -/
def State.takePacket (s : State) (src : BitVec 14) (stream : Fin 64) (d : Payload) : Option State :=
  match d with
  | .read n => s.sendPacket src stream none (.other (bytesOf 8 (s.counter n).toNat))
  | .watch n thr => some (s.modFabric fun f => { f with asked := f.asked ++ [{ src := src, stream := stream, num := n, thr := thr }] }).watchAll
  | d => some (s.applyPacket d)

/-- R396: packets of a package that is dead or out of reach are discarded (R397). -/
def execPacketReceive (src : BitVec 14) (stream : Fin 64) (seq : BitVec 32) (data : Payload) (s : State) :
    Host.Outcome State Fault Refusal :=
  let mine (w : Dedup) : Bool := w.src == src && w.stream == stream
  let w := (s.fabric.dedup.find? mine).getD { src := src, stream := stream, base := BitVec.allOnes 32, above := [] }
  if s.deadPeer (⟨src.toNat / 2 ^ 11 % 8, Nat.mod_lt _ (by decide)⟩, field src 0 11) then .next s
  else match data with
  | .ack st n => .next (s.acked src st n)
  | data => match w.judge seq with
    | .dup => .next (s.modFabric fun f => { f with dup := f.dup + 1 })
    | .far => .next s
    | .apply w =>
      .next (((s.modFabric fun f => { f with dedup := w :: f.dedup.filter fun v => !(mine v) }).takePacket src stream data).getD s)

/-- R396: the packet leaves again through the ring port toward its destination. -/
def execE2eResend (n : Nat) (s : State) : Host.Outcome State Fault Refusal :=
  match s.fabric.sent[n]? with
  | none => .next s
  | some p =>
    match (s.fabric.port.get (s.portTo p.dst)).sealN (framesOf p.data) with
    | none => .next s
    | some q => .next ((s.modPort (s.portTo p.dst) fun _ => q).modFabric fun f => { f with sent := f.sent.set n { p with sends := p.sends + 1 } })

/-- R397. -/
def execHeartbeat (port : Fin 6) (s : State) : Host.Outcome State Fault Refusal := .next ((s.sendFlit port).getD s)

/-! ## Memory errors and background activities -/

/-- The valid entries of a table that memory holds, of n bytes from an address on (R349, R350). -/
def State.tableEntries (s : State) (base n : Nat) : List Word :=
  let k := homeKey s.fabric.coord base
  let held := ((s.mem.filter fun c => decide (k ≤ c.1) && decide (c.1 < k + n)).map fun c => c.1 / 8).eraseDups
  (held.map fun i => (BitVec.ofNat 64 (ofBytes ((List.range 8).map fun j => s.byteAt (8 * i + j))))).filter fun e => flag e 63

/-- Leaves with their levels that the tables below one name. -/
def State.leavesBelow (s : State) (level base : Nat) : List (Nat × Word) :=
  match level with
  | 0 => ((s.tableEntries base 256).filter fun e => flag e 62).map fun e => (0, e)
  | l + 1 => (s.tableEntries base (if l = 3 then 2 ^ 11 else 2 ^ 12)).flatMap fun e =>
    if flag e 62 then [(l + 1, e)] else s.leavesBelow l (bits e 8 44 * 2 ^ 8)

/-- Every leaf that a TLB holds, or that a slot's tables name (R348, R352). -/
def State.leaves (s : State) : List (Nat × Word) :=
  let slots := s.cores.flatMap fun (p : Fin 1792 × Core) => p.2.ctx.toList
  ((s.cores.flatMap fun (p : Fin 1792 × Core) => p.2.tlb) ++ s.ctlb.map (·.2)).map (fun e => (e.level.val, e.leaf)) ++
    (slots.map fun c => bits c.reg.ptroot 0 41).eraseDups.flatMap fun r => s.leavesBelow 4 (r * 2 ^ 11)

/-- Whether the frame of an address of this package is compressed: never outside the HBM4E; in it where a leaf of the frame
says so, and unknown where this package has none (R345, R346). -/
def State.compressed (s : State) (pa : Nat) : Option Bool :=
  let covers (l : Nat × Word) : Bool :=
    leafHome l.2 == s.fabric.coord && pa / 2 ^ pageBits l.1 == leafFrame l.2 / 2 ^ pageBits l.1
  if 0xC0_0000_0000 ≤ pa then some false
  else
    let ls := s.leaves.filter fun l => covers l && !(leafMalformed l.2 l.1)
    if ls.isEmpty then none else some (ls.any fun l => bits l.2 60 2 == 1)

/-- R345: a sector, or the 4 KiB unit of a compressed frame: `unit` says which for a frame that no leaf of this package maps,
but another package's may. Of the stash's objects the near ones are compressed (R346, R359). -/
def execUncorrectableError (at_ : ErrorPlace) (unit : Bool) (s : State) : Host.Outcome State Fault Refusal :=
  match at_ with
  | .memory pa =>
    let k := homeKey s.fabric.coord pa.toNat / 32
    .next (s.damage (if (s.compressed pa.toNat).getD unit then (List.range 128).map fun i => k / 128 * 128 + i else [k]))
  | .priv stage version pa =>
    let line := homeKey s.fabric.coord pa.toNat / 128
    .next (if s.priv.contains (stage, version, line) then s.damage [privKey stage version s.fabric.coord pa.toNat / 32] else s)
  | .stash stage layer tag sector =>
    let near := s.stash.any fun o => o.key == (stage, layer, tag) && o.place == 0
    let ks := if near then (List.range 128).map fun i => sector / 128 * 128 + i else [sector]
    .next { s with stash := s.stash.map fun (o : StashObj) =>
      if o.key = (stage, layer, tag) then { o with lost := (o.lost ++ ks).eraseDups } else o }

/-- R369: wall time only. -/
def execHbmRefresh (_stack : Fin 12) (_bank : Nat) (s : State) : Host.Outcome State Fault Refusal := .next s

/-- R369: wall time only. -/
def execLpddrRefresh (_bank : Nat) (s : State) : Host.Outcome State Fault Refusal := .next s

/-- R345, R369: the scrub rewrites the bytes that stand there. -/
def execScrub (_line : Nat) (s : State) : Host.Outcome State Fault Refusal := .next s

/-- R369, R371: a lane that retrains runs, or no longer does; one that is disabled stays so (R465). -/
def execLinkRetrain (port : Fin 6) (lane : Fin 8) (ok : Bool) (s : State) : Host.Outcome State Fault Refusal :=
  let ok := ok && !(s.mgmt.disabled.contains (.lane port lane))
  .next (s.modPort port fun p => { p with lanes := putField p.lanes lane.val 1 ok.toNat })

end Sys2Proof.Machine
end

