-- ==== Sys2Proof/Machine/MgmtEvents.lean ====
section
/-! DEFINITION. The management space (R457 to R470): boot, the semaphore and guarded writes, the shutter, corrected errors,
attestation, and the governor. -/

namespace Sys2Proof.Machine

def State.modMgmt (s : State) (f : Mgmt → Mgmt) : State := { s with mgmt := f s.mgmt }

/-- Reads by the control complex: each that meets a lost sector gets an error response and no data, and is counted (R393,
R460). -/
def State.complexReads (s : State) (l : List (BitVec 52)) : State :=
  s.modMgmt fun g => { g with lostReads := g.lostReads + (l.filter fun a => s.lostAt (s.keyOf { home := s.fabric.coord, pa := a, ver := none })).length }

/-! ## Boot (R462 to R464) -/

/-- A measurement register extended with a digest (R464). -/
def extendMeas (m d : BitVec 512) : BitVec 512 :=
  BitVec.ofNat 512 (ofBytes (Config.shake256 (bytesOf 64 m.toNat ++ bytesOf 64 d.toNat) 64))

/-- A boot stops with a status and the image slot in use. -/
def Mgmt.bootAt (m : Mgmt) (status slot : Nat) : Mgmt := { m with boot := BitVec.ofNat 64 (slot * 2 ^ 8 + status) }

/-- A verified version raises the anti-rollback count, which the bank of 64 fuses bounds (R463). -/
def Mgmt.blow (m : Mgmt) (version : Nat) : Mgmt := { m with rollback := max m.rollback (min 64 version) }

/-- The attestation key's private part (R464). -/
def Mgmt.attestKey (m : Mgmt) : List Byte :=
  Config.shake256 (Config.deviceSecret ++ (List.finRange 3).flatMap fun i => bytesOf 64 (m.meas.get ⟨i.val, by omega⟩).toNat) 57

/-- The identity key certifies the attestation key (R464). -/
def Mgmt.certify (m : Mgmt) : Mgmt := { m with cert := Config.ed448Sign identityKey (Config.ed448Public m.attestKey) }

/-- The digest of an image's body (R462, R463). -/
def imageDigest (i : Image) : BitVec 512 := BitVec.ofNat 512 (ofBytes (Config.shake256 i.body 64))

/-- The message that an image's signature covers (R463). -/
def imageMessage (i : Image) : List Byte := Config.shake256 i.body 64 ++ bytesOf 4 i.version.toNat

/-- An image verifies (R463): its key is the one whose digest is fused, its signature holds over its message, and its version
is not below the anti-rollback count. -/
def Mgmt.verifies (m : Mgmt) (i : Image) : Bool :=
  BitVec.ofNat 512 (ofBytes (Config.shake256 i.key 64)) == m.rootKey &&
  Config.ed448Verify i.key (imageMessage i) i.signature && decide (m.rollback ≤ i.version.toNat)

/-- Steps 3 to 5 of R462, from a verified stage 1 of an image slot. -/
def Mgmt.stage1 (m : Mgmt) (b : BootInput) (slot : Nat) (i : Image) : Mgmt :=
  let m := { m with meas := m.meas.set 0 (extendMeas (m.meas.get 0) (imageDigest i)) }.blow i.version.toNat
  if !b.trainOk then m.bootAt 3 slot
  else
    let m := { m with opKey := b.operatorKey, meas := m.meas.set 1 (extendMeas (m.meas.get 1) b.manifest), reserve := b.reserves }
    if !(m.verifies b.os) then m.bootAt 4 slot
    else
      let m := { m with meas := m.meas.set 2 (extendMeas (m.meas.get 2) (imageDigest b.os)), open_ := true }
      ((m.blow b.os.version.toNat).certify).bootAt 5 slot

/-- Steps 2 to 5 of R462, from a package whose measurements are clear. -/
def Mgmt.bootFrom (m : Mgmt) (b : BootInput) : Mgmt :=
  if m.verifies b.primary then m.stage1 b 0 b.primary
  else if m.verifies b.alternate then m.stage1 b 1 b.alternate
  else m.bootAt 2 0

/-- The ports' lanes that are disabled do not run (R465). -/
def Fabric.withoutLanes (f : Fabric) (l : List EccUnit) : Fabric :=
  match l with
  | [] => f
  | .lane p i :: l =>
    { f with port := f.port.set p { f.port.get p with lanes := putField (f.port.get p).lanes i.val 1 0 } }.withoutLanes l
  | _ :: l => f.withoutLanes l

/-- R65, R72, R462: everything takes its reset value, but for what is fused or recorded in the package; a harvested core
is left out of the remap table, and a disabled lane stays so (R465). -/
def execPackageReset (b : BootInput) (s : State) : Host.Outcome State Fault Refusal :=
  let m := { Mgmt.reset with rollback := s.mgmt.rollback, rootKey := s.mgmt.rootKey, nonce := b.nonce, harvest := s.mgmt.harvest, disabled := s.mgmt.disabled }
  let m := if b.romOk then m.bootFrom b else m.bootAt 1 0
  .next { State.reset with
    absent := s.absent, leftOut := s.mgmt.harvest.filter fun c => !(s.absent.contains c)
    fabric := Fabric.reset.withoutLanes m.disabled, mgmt := m, agenda := s.agenda, turns := s.turns, cur := State.reset.cur, free := s.free, nextId := s.nextId }

/-! ## The semaphore (R458, R459), to which the space opens as boot is done (R462) -/

/-- R459. -/
def State.acquireSem (s : State) (m : Master) (lease : BitVec 32) : State :=
  if !s.mgmt.open_ || s.mgmt.owner.isSome || lease = 0 then s
  else s.modMgmt fun g => { g with owner := some m, lastOwner := some m, epoch := g.epoch + 1, lease := lease }

/-- R459. -/
def State.renewSem (s : State) (m : Master) (lease : BitVec 32) (epoch : BitVec 16) : State :=
  if s.mgmt.open_ ∧ s.mgmt.owner = some m ∧ s.mgmt.epoch = epoch ∧ lease ≠ 0 then s.modMgmt fun g => { g with lease := lease } else s

/-- R459. -/
def State.releaseSem (s : State) (m : Master) (epoch : BitVec 16) : State :=
  if s.mgmt.open_ ∧ s.mgmt.owner = some m ∧ s.mgmt.epoch = epoch then s.modMgmt fun g => { g with owner := none } else s

/-- R459. -/
def execSemaphoreAcquire (m : Master) (lease : BitVec 32) (s : State) : Host.Outcome State Fault Refusal := .next (s.acquireSem m lease)

/-- R459. -/
def execSemaphoreRenew (m : Master) (lease : BitVec 32) (epoch : BitVec 16) (s : State) : Host.Outcome State Fault Refusal :=
  .next (s.renewSem m lease epoch)

/-- R459. -/
def execSemaphoreRelease (m : Master) (epoch : BitVec 16) (s : State) : Host.Outcome State Fault Refusal := .next (s.releaseSem m epoch)

/-- R459, R461. -/
def execLeaseExpiry (s : State) : Host.Outcome State Fault Refusal :=
  if s.mgmt.owner.isNone then .next s
  else .next ((s.modMgmt fun g => { g with owner := none, lease := 0 }).event 2)

/-- A guarded write takes effect only from the owner; another is counted (R459). Before boot is done the space takes no
writes (R462). -/
def State.guarded (s : State) (m : Master) (f : State → State) : State :=
  if !s.mgmt.open_ then s
  else if s.mgmt.owner = some m then f s
  else s.modMgmt fun g => { g with refused := g.refused + 1 }

/-! ## Guarded writes (R460) -/

/-- The limit in force (R470). -/
def Mgmt.settleLimit (m : Mgmt) : Mgmt :=
  { m with limit := if m.coolant then min (bits m.plim 0 16) 1800 else bits m.plim 0 16 }

/-- R469: values outside 800 to 2,400 W are clamped. -/
def State.writePlim (s : State) (v : Word) : State :=
  s.modMgmt fun g => { g with plim := BitVec.ofNat 64 (max 800 (min 2400 (bits v 0 16))) }.settleLimit

/-- R468. -/
def State.writeClk (s : State) (v : Word) : State :=
  if 12 < v.toNat then s else s.modMgmt fun g => { g with clk := v, step := v.toNat }

/-- R466: a write clears any earlier arming, and may release a halt; `now` fires a shutter that it arms. -/
def State.writeShut (s : State) (v : Word) : State :=
  if bits v 40 16 ≠ 0 ∨ bits v 12 20 ≠ 0 then s
  else
    let s := s.modMgmt fun g => { g with shutter := { g.shutter with
      word := putField v 61 1 0, armed := flag v 63, halt := g.shutter.halt && !(flag v 61) } }
    s.fireShutter .now

def setWindowOf (l : List (EccKind × EccWindow)) (k : EccKind) (w : EccWindow) : List (EccKind × EccWindow) :=
  l.map fun p => if p.1 = k then (k, w) else p

/-- The package holds the coordinate that the relabel table gives its position, or none (R372). -/
def Fabric.reposition (f : Fabric) : Fabric :=
  match (List.finRange 32).find? fun y => (f.physY f.px.toFin y).val == f.py.toNat with
  | some y => { f with coord := BitVec.ofNat 11 (32 * f.px.toNat + y.val), lv := true }
  | none => { f with lv := false }

/-- Sparing, in this package's relabel table (R400): the coordinate is the spare's, whose memory reads as lost until it is
written; a package that is the spare takes the coordinate. -/
def State.spare (s : State) (row : Fin 64) (y : Fin 32) : State :=
  let coord : BitVec 11 := BitVec.ofNat 11 (32 * row.val + y.val)
  let s := s.modFabric fun f => { f with
    relabel := ((row, y), 32) :: f.relabel.filter fun p => p.1 != (row, y)
    spares := (row, y) :: f.spares.filter fun p => p != (row, y)
    dead := f.dead.filter fun p => p != (f.dom, coord) }.reposition
  { s with lost := s.lost.filter fun k => !(s.blank k && BitVec.ofNat 11 (32 * k / 2 ^ 52) == coord) }

/-- R397: a rebooted package is taken off the dead list, and the ports to it are in use again. -/
def State.readmit (s : State) (dom : Fin 8) (coord : BitVec 11) : State :=
  let open_ (n : Fin 6) (p : Port) : Port := if s.neighbour n = some (dom, coord) then { p with isolated := false } else p
  s.modFabric fun f => { f with
    dead := f.dead.filter fun p => p != (dom, coord)
    port := Vector.ofFn fun n => open_ n (f.port.get n) }

/-- What a guarded write that is granted does. -/
def State.applyGuarded (s : State) (w : Guarded) : State :=
  match w with
  | .plim v => s.writePlim v
  | .reserve base size => s.modMgmt fun g => { g with reserve := (base, size) :: g.reserve }
  | .eccWindow k window threshold =>
    s.modMgmt fun g => { g with windows := setWindowOf g.windows k { window := window, threshold := threshold } }
  | .remap cluster l entry =>
    let n : Fin 1792 := ⟨64 * cluster.val + l.val, by omega⟩
    { s with remap := (n, entry) :: s.remap.filter fun p => p.1 != n }
  | .relabel row y py =>
    s.modFabric fun f =>
      let rest := f.relabel.filter fun p => p.1 != (row, y)
      { f with relabel := if py.val = y.val then rest else ((row, y), py) :: rest }.reposition
  | .spare row y => s.spare row y
  | .longHaul port on => s.modPort (ringPort port) fun p => { p with longHaul := on }
  | .readmit dom coord => s.readmit dom coord

/-- R460. -/
def execGuardedWrite (m : Master) (w : Guarded) (s : State) : Host.Outcome State Fault Refusal :=
  .next (s.guarded m fun s => s.applyGuarded w)

/-- R460: a need that is met stays so, and watches see the new value. -/
def execCounterWrite (m : Master) (n : Fin 4096) (v : Word) (s : State) : Host.Outcome State Fault Refusal :=
  .next (s.guarded m fun s => (s.latchNeeds.setCounter n v).watchAll)

/-- R468. -/
def execMgclkWrite (m : Master) (v : Word) (s : State) : Host.Outcome State Fault Refusal :=
  .next (s.guarded m fun s => s.writeClk v)

/-! ## The shutter (R466, R467) -/

/-- R466. -/
def execShutterArm (m : Master) (v : Word) (s : State) : Host.Outcome State Fault Refusal :=
  .next (s.guarded m fun s => s.writeShut v)

/-- R466: a write of `rel`, which arms nothing. -/
def execShutterRelease (m : Master) (s : State) : Host.Outcome State Fault Refusal :=
  .next (s.guarded m fun s => s.writeShut (BitVec.ofNat 64 (2 ^ 61)))

/-- R466. -/
def execShutterFire (src : ShutterSource) (s : State) : Host.Outcome State Fault Refusal := .next (s.fireShutter src)

/-- A slot as the shutter latches it (R467). -/
def Ctx.snapshotOf (c : Ctx) : SnapSlot :=
  { pc := c.pc, pos := c.pos, cycles := c.cycles, flags := c.flags.word, s := c.regs.s, transfer := c.transfer }

def Core.latch (k : Core) : Core := { k with snapClock := k.clock, snap := some (k.ctx.map Ctx.snapshotOf) }

/-- A firing's 64 core cycles have passed (R466). -/
def State.latchDue (s : State) (f : Firing) : Bool := decide (f.due ≤ (s.core f.core).clock.toNat)

/-- Every core's snapshot registers latch for the firings that are due, and a halt begins if one of them asked for it
(R466). -/
def State.latchShutter (s : State) : State :=
  let due := s.mgmt.shutter.fired.filter s.latchDue
  if due.isEmpty then s
  else
    let t := { s with cores := s.cores.map fun (p : Fin 1792 × Core) => (p.1, p.2.latch) }
    t.modMgmt fun g => { g with shutter := { g.shutter with
      fired := g.shutter.fired.filter fun f => !(s.latchDue f), halt := g.shutter.halt || due.any (·.halt) } }

/-- R466. -/
def execShutterLatch (s : State) : Host.Outcome State Fault Refusal := .next s.latchShutter

/-! ## The management port (R457, R461) -/

/-- A register of the management space, by offset; none where the spec gives the offset no register. -/
def State.mgReg (s : State) (off : Nat) : Option Word :=
  let g := s.mgmt
  let owner := match g.owner with
    | none => 0
    | some .controlComplex => 1
    | some .managementPort => 2
  match off with
  | 0x000 => some g.boot
  | 0x008 => some g.nonce
  | 0x010 => some (BitVec.ofNat 64 (g.lease.toNat * 2 ^ 32 + g.epoch.toNat * 2 ^ 16 + g.refused.toNat * 2 ^ 2 + owner))
  | 0x018 => some 0
  | 0x020 => some g.shutter.word
  | 0x030 => some g.plim
  | 0x038 => some g.clk
  | 0x040 => some (BitVec.ofNat 64 (g.watts % 2 ^ 16 * 2 ^ 48 + g.mwatts % 2 ^ 16 * 2 ^ 32 + g.step % 2 ^ 8 * 2 ^ 24 + g.duty.toNat))
  | 0x048 => some (BitVec.ofNat 64 (g.flow % 2 ^ 16 * 2 ^ 32 + g.inlet % 2 ^ 16 * 2 ^ 16 + g.junction % 2 ^ 16))
  | 0x060 => some g.evt
  | _ => none

/-- The lease at a read: it counts down with the time, so a free number says how much of what was last read is left (R458). -/
def State.leaseLeft (s : State) : State :=
  { s with free := s.free + 1 }.modMgmt fun g => { g with lease := BitVec.ofNat 32 (min g.lease.toNat (Config.freeNat s.free)) }

/-- A read by the management port: its answer, which is free where the spec gives no register; a read of `mgevt` clears the
bits it returns (R461). -/
def State.mgRead (s : State) (off : Nat) : State :=
  let s := if off = 0x010 then s.leaseLeft else s
  match s.mgReg off with
  | some v => s.modMgmt fun g => { g with replies := v :: g.replies, evt := if off = 0x060 then 0 else g.evt }
  | none => { s with free := s.free + 1 }.modMgmt fun g => { g with replies := BitVec.ofNat 64 (Config.freeNat s.free) :: g.replies }

/-- A write of `mgsemreq` (R458). -/
def State.semRequest (s : State) (m : Master) (v : Word) : State :=
  if bits v 2 14 ≠ 0 ∨ bits v 32 32 = 0 then s
  else match bits v 0 2 with
    | 0 => s.acquireSem m (field v 32 32)
    | 1 => s.renewSem m (field v 32 32) (field v 16 16)
    | 2 => s.releaseSem m (field v 16 16)
    | _ => s

/-- A write by a master, by offset. -/
def State.mgWrite (s : State) (m : Master) (off : Nat) (v : Word) : State :=
  match off with
  | 0x018 => s.semRequest m v
  | 0x020 => s.guarded m fun s => s.writeShut v
  | 0x030 => s.guarded m fun s => s.writePlim v
  | 0x038 => s.guarded m fun s => s.writeClk v
  | _ => s

/-- A request is signed under the key whose digest is enrolled (R457, R462). -/
def State.signedBy (s : State) (r : MgRequest) : Bool :=
  r.signedOk && BitVec.ofNat 512 (ofBytes (Config.shake256 r.key 64)) == s.mgmt.opKey

/-- A signed request is fresh: it names the boot's nonce, and a number above every one accepted since (R457). -/
def State.freshRequest (s : State) (r : MgRequest) : Bool :=
  r.nonce == s.mgmt.nonce && !(s.mgmt.opSeq.any fun n => decide (r.seq.toNat ≤ n.toNat))

/-- R457: only `mgboot` and `mgnonce` are read without a signature; a signed request that is not fresh is counted. -/
def execManagementRequest (r : MgRequest) (s : State) : Host.Outcome State Fault Refusal :=
  let off := r.offset.toNat
  let act (s : State) : State := match r.write with
    | none => s.mgRead off
    | some v => s.mgWrite .managementPort off v
  if !(s.signedBy r) then .next (if r.write.isNone && (off == 0x000 || off == 0x008) then s.mgRead off else s)
  else if !(s.freshRequest r) then .next (s.modMgmt fun g => { g with mgErrors := g.mgErrors + 1 })
  else .next (act (s.modMgmt fun g => { g with opSeq := some r.seq }))

/-- R461. -/
def execMgevtRead (s : State) : Host.Outcome State Fault Refusal := .next (s.mgRead 0x060)

/-! ## Attestation (R464) -/

/-- The 552 bytes that a quote signs. -/
def State.quoteBody (s : State) (nonce : BitVec 256) : List Byte :=
  bytesOf 32 nonce.toNat ++ bytesOf 2 (1792 - s.absent.length) ++ bytesOf 2 s.mgmt.rollback ++ bytesOf 4 0 ++
    (List.finRange 8).flatMap fun i => bytesOf 64 (s.mgmt.meas.get i).toNat

/-- R464. -/
def execAttestationQuote (nonce : BitVec 256) (s : State) : Host.Outcome State Fault Refusal :=
  let b := s.quoteBody nonce
  .next (s.modMgmt fun g => { g with quotes := (b ++ padTo 114 (Config.ed448Sign g.attestKey b)) :: g.quotes })

/-! ## Corrected errors (R465) -/

def kindOfUnit (u : EccUnit) : EccKind :=
  match u with
  | .hbmRow _ _ _ => .hbm
  | .lpddrFrame _ => .lpddr
  | .l2Way _ _ _ => .l2
  | .granule _ _ => .local
  | .lane _ _ => .lane

/-- What a lasting fault brings, beside the repairs that no read can see. -/
def State.lastingFault (s : State) (u : EccUnit) : State :=
  let s := (s.modMgmt fun g => { g with disabled := u :: g.disabled.filter (· != u) }).event 3
  match u with
  | .granule core _ => s.modMgmt fun g => { g with harvest := core :: g.harvest.filter (· != core) }
  | .lane port lane => s.modPort port fun p => { p with lanes := putField p.lanes lane.val 1 0 }
  | _ => s

/-- R465: how many of a unit's earlier errors still lie within the window is the time's affair, and free. -/
def execCorrectedError (u : EccUnit) (s : State) : Host.Outcome State Fault Refusal :=
  let old := ((s.mgmt.counts.find? (·.1 == u)).map (·.2)).getD 0
  let n := min old (Config.freeNat s.free) + 1
  let limit := ((s.mgmt.windows.find? (·.1 == kindOfUnit u)).map (·.2.threshold)).getD 0
  let t := { s with free := s.free + 1 }.modMgmt fun g => { g with counts := (u, n) :: g.counts.filter (·.1 != u) }
  let t := match u with
    | .granule core _ => t.modCore core fun k => { k with corrected := k.corrected + 1 }
    | _ => t
  .next (if limit ≤ n ∧ !(s.mgmt.disabled.contains u) then t.lastingFault u else t)

/-! ## The governor (R469, R470) -/

/-- The duty after step 2: no mirror power leaves the least duty. -/
def dutyFor (d watts limit mirror : Nat) : Nat :=
  if limit < watts then
    (if mirror = 0 then 16 else max 16 (min 64 (d * (mirror - min mirror (watts - limit)) / mirror)))
  else d

/-- One interval of the governor. -/
def Mgmt.govern (m : Mgmt) (watts mirror amps junction : Nat) : Mgmt :=
  let p := if 100 ≤ junction then m.limit + 100 else watts
  let d := m.duty.toNat
  let d := if 3600 < amps then min d 32 else d
  let m := { m with watts := watts, mwatts := mirror, junction := junction }
  if m.limit < p then
    let low := decide (m.duty.toNat = 16)
    { m with duty := BitVec.ofNat 7 (dutyFor d p m.limit mirror), step := if low then m.step - 1 else m.step }
  else if p + 50 < m.limit then
    (if m.step < m.clk.toNat then { m with duty := BitVec.ofNat 7 d, step := m.step + 1 }
     else { m with duty := BitVec.ofNat 7 (if 3600 < amps then d else min 64 (d + 4)) })
  else { m with duty := BitVec.ofNat 7 d }

/-- The thermal trip (R470). -/
def State.tripNow (s : State) : State := ((s.modMgmt fun g => { g with trip := true }).event 5).fireShutter .trip

/-- R469, the trip of a junction at 115 °C (R470), and the deadlines that the interval's 10 µs bring (R388). -/
def execGovernorInterval (watts mirrorWatts amps junction : Nat) (s : State) : Host.Outcome State Fault Refusal :=
  let t := s.chunkDeadlines.modMgmt fun g => g.govern watts mirrorWatts amps junction
  let t := if t.mgmt.step ≠ s.mgmt.step then t.event 4 else t
  let t := if s.mgmt.junction < 100 ∧ 100 ≤ junction then t.event 5 else t
  .next (if 115 ≤ junction then t.tripNow else t)

/-- The coolant's condition of R470, the flow in tenths of a litre per minute. -/
def coolantBad (inlet flow : Nat) : Bool := decide (inlet < 15) || decide (45 < inlet) || decide (flow < 20)

/-- The coolant's readings, and the limit in force that they bring. -/
def State.coolantAt (s : State) (inlet flow : Nat) : State :=
  s.modMgmt fun g => { g with inlet := inlet, flow := flow, coolant := coolantBad inlet flow }.settleLimit

/-- R470. -/
def execCoolantAlarm (inlet flow : Nat) (s : State) : Host.Outcome State Fault Refusal :=
  .next (if coolantBad inlet flow then (s.coolantAt inlet flow).event 5 else s)

/-- R470. -/
def execCoolantRestored (inlet flow : Nat) (s : State) : Host.Outcome State Fault Refusal :=
  .next (if coolantBad inlet flow then s else s.coolantAt inlet flow)

/-- R470: the hottest junction has come to 115 °C or more; by how much more is a free number. -/
def execThermalTrip (s : State) : Host.Outcome State Fault Refusal :=
  .next ({ s with free := s.free + 1 }.modMgmt fun g =>
    { g with junction := if 115 ≤ g.junction then g.junction else 115 + Config.freeNat s.free % (2 ^ 16 - 115) }).tripNow

/-- R470. -/
def execRailShutoff (s : State) : Host.Outcome State Fault Refusal :=
  .next (if s.mgmt.trip then s.modMgmt fun g => { g with railsOff := true } else s)

end Sys2Proof.Machine
end

