-- ==== Sys2Proof/Machine/Dispatch.lean ====
section
/-! DEFINITION. One arm per constructor of `Instr`. -/

namespace Sys2Proof.Machine

def exec (i : Instr) (s : State) : Host.Outcome State Fault Refusal :=
  match i with
  | .add d a b => Sys2Proof.Machine.execAdd d a b s
  | .sub d a b => Sys2Proof.Machine.execSub d a b s
  | .and d a b => Sys2Proof.Machine.execAnd d a b s
  | .or d a b => Sys2Proof.Machine.execOr d a b s
  | .xor d a b => Sys2Proof.Machine.execXor d a b s
  | .andn d a b => Sys2Proof.Machine.execAndn d a b s
  | .shl d a b => Sys2Proof.Machine.execShl d a b s
  | .shr d a b => Sys2Proof.Machine.execShr d a b s
  | .sar d a b => Sys2Proof.Machine.execSar d a b s
  | .rol d a b => Sys2Proof.Machine.execRol d a b s
  | .min d a b => Sys2Proof.Machine.execMin d a b s
  | .max d a b => Sys2Proof.Machine.execMax d a b s
  | .minn d a b => Sys2Proof.Machine.execMinn d a b s
  | .maxn d a b => Sys2Proof.Machine.execMaxn d a b s
  | .cmpEq d a b => Sys2Proof.Machine.execCmpEq d a b s
  | .cmpNe d a b => Sys2Proof.Machine.execCmpNe d a b s
  | .cmpLt d a b => Sys2Proof.Machine.execCmpLt d a b s
  | .cmpLe d a b => Sys2Proof.Machine.execCmpLe d a b s
  | .cmpLtn d a b => Sys2Proof.Machine.execCmpLtn d a b s
  | .cmpLen d a b => Sys2Proof.Machine.execCmpLen d a b s
  | .clz d a => Sys2Proof.Machine.execClz d a s
  | .ctz d a => Sys2Proof.Machine.execCtz d a s
  | .ffs d a => Sys2Proof.Machine.execFfs d a s
  | .popc d a => Sys2Proof.Machine.execPopc d a s
  | .brev d a => Sys2Proof.Machine.execBrev d a s
  | .mul d a b => Sys2Proof.Machine.execMul d a b s
  | .mulh d a b => Sys2Proof.Machine.execMulh d a b s
  | .mulhn d a b => Sys2Proof.Machine.execMulhn d a b s
  | .div d a b => Sys2Proof.Machine.execDiv d a b s
  | .divn d a b => Sys2Proof.Machine.execDivn d a b s
  | .rem d a b => Sys2Proof.Machine.execRem d a b s
  | .remn d a b => Sys2Proof.Machine.execRemn d a b s
  | .addi d a imm => Sys2Proof.Machine.execAddi d a imm s
  | .andi d a imm => Sys2Proof.Machine.execAndi d a imm s
  | .ori d a imm => Sys2Proof.Machine.execOri d a imm s
  | .xori d a imm => Sys2Proof.Machine.execXori d a imm s
  | .shli d a n => Sys2Proof.Machine.execShli d a n s
  | .shri d a n => Sys2Proof.Machine.execShri d a n s
  | .sari d a n => Sys2Proof.Machine.execSari d a n s
  | .roli d a n => Sys2Proof.Machine.execRoli d a n s
  | .cmpiEq d a imm => Sys2Proof.Machine.execCmpiEq d a imm s
  | .cmpiNe d a imm => Sys2Proof.Machine.execCmpiNe d a imm s
  | .cmpiLt d a imm => Sys2Proof.Machine.execCmpiLt d a imm s
  | .cmpiLe d a imm => Sys2Proof.Machine.execCmpiLe d a imm s
  | .cmpiLtn d a imm => Sys2Proof.Machine.execCmpiLtn d a imm s
  | .cmpiLen d a imm => Sys2Proof.Machine.execCmpiLen d a imm s
  | .bfxN d a l p => Sys2Proof.Machine.execBfxN d a l p s
  | .bfxI d a l p => Sys2Proof.Machine.execBfxI d a l p s
  | .bfi d a l p => Sys2Proof.Machine.execBfi d a l p s
  | .fshl d a b n => Sys2Proof.Machine.execFshl d a b n s
  | .fshr d a b n => Sys2Proof.Machine.execFshr d a b n s
  | .fshlv d a b c => Sys2Proof.Machine.execFshlv d a b c s
  | .fshrv d a b c => Sys2Proof.Machine.execFshrv d a b c s
  | .sel d a b c => Sys2Proof.Machine.execSel d a b c s
  | .li d imm => Sys2Proof.Machine.execLi d imm s
  | .liu d imm => Sys2Proof.Machine.execLiu d imm s
  | .mfs d n => Sys2Proof.Machine.execMfs d n s
  | .mts a n => Sys2Proof.Machine.execMts a n s
  | .clk d => Sys2Proof.Machine.execClk d s
  | .coreidLog d => Sys2Proof.Machine.execCoreidLog d s
  | .coreidPhys d => Sys2Proof.Machine.execCoreidPhys d s
  | .brZ a imm => Sys2Proof.Machine.execBrZ a imm s
  | .brNz a imm => Sys2Proof.Machine.execBrNz a imm s
  | .brNeg a imm => Sys2Proof.Machine.execBrNeg a imm s
  | .brNneg a imm => Sys2Proof.Machine.execBrNneg a imm s
  | .brPos a imm => Sys2Proof.Machine.execBrPos a imm s
  | .brNpos a imm => Sys2Proof.Machine.execBrNpos a imm s
  | .br imm => Sys2Proof.Machine.execBr imm s
  | .jmp a => Sys2Proof.Machine.execJmp a s
  | .call imm => Sys2Proof.Machine.execCall imm s
  | .callr a => Sys2Proof.Machine.execCallr a s
  | .chk a imm => Sys2Proof.Machine.execChk a imm s
  | .ldI8 d b c o => Sys2Proof.Machine.execLdI8 d b c o s
  | .ldN8 d b c o => Sys2Proof.Machine.execLdN8 d b c o s
  | .ldI16 d b c o => Sys2Proof.Machine.execLdI16 d b c o s
  | .ldN16 d b c o => Sys2Proof.Machine.execLdN16 d b c o s
  | .ldI32 d b c o => Sys2Proof.Machine.execLdI32 d b c o s
  | .ldN32 d b c o => Sys2Proof.Machine.execLdN32 d b c o s
  | .ldI64 d b c o => Sys2Proof.Machine.execLdI64 d b c o s
  | .ldSN32 d b c o => Sys2Proof.Machine.execLdSN32 d b c o s
  | .ldSI64 d b c o => Sys2Proof.Machine.execLdSI64 d b c o s
  | .st8 d b c o => Sys2Proof.Machine.execSt8 d b c o s
  | .st16 d b c o => Sys2Proof.Machine.execSt16 d b c o s
  | .st32 d b c o => Sys2Proof.Machine.execSt32 d b c o s
  | .st64 d b c o => Sys2Proof.Machine.execSt64 d b c o s
  | .ldBlk f a b r c => Sys2Proof.Machine.execLdBlk f a b r c s
  | .amo32 d a b p c => Sys2Proof.Machine.execAmo32 d a b p c s
  | .amo64 d a b p c => Sys2Proof.Machine.execAmo64 d a b p c s
  | .rld d a l => Sys2Proof.Machine.execRld d a l s
  | .fenceC m => Sys2Proof.Machine.execFenceC m s
  | .fenceP p q => Sys2Proof.Machine.execFenceP p q s
  | .sig a => Sys2Proof.Machine.execSig a s
  | .clrf a => Sys2Proof.Machine.execClrf a s
  | .clrfErr a => Sys2Proof.Machine.execClrfErr a s
  | .advP h b => Sys2Proof.Machine.execAdvP h b s
  | .advC h b => Sys2Proof.Machine.execAdvC h b s
  | .rfill f h b => Sys2Proof.Machine.execRfill f h b s
  | .rfree f h b => Sys2Proof.Machine.execRfree f h b s
  | .seqadd a b => Sys2Proof.Machine.execSeqadd a b s
  | .seqwatch f a b => Sys2Proof.Machine.execSeqwatch f a b s
  | .seqwatchTag f a b => Sys2Proof.Machine.execSeqwatchTag f a b s
  | .seqrd d a => Sys2Proof.Machine.execSeqrd d a s
  | .launch d a b => Sys2Proof.Machine.execLaunch d a b s
  | .launchQF d b => Sys2Proof.Machine.execLaunchQF d b s
  | .launchQB d b => Sys2Proof.Machine.execLaunchQB d b s
  | .launchQW d b => Sys2Proof.Machine.execLaunchQW d b s
  | .carve d a => Sys2Proof.Machine.execCarve d a s
  | .trap n => Sys2Proof.Machine.execTrap n s
  | .qseed a b => Sys2Proof.Machine.execQseed a b s
  | .qldt c a b => Sys2Proof.Machine.execQldt c a b s
  | .qpt d a b => Sys2Proof.Machine.execQpt d a b s
  | .qsave c a b => Sys2Proof.Machine.execQsave c a b s
  | .pause g n => Sys2Proof.Machine.execPause g n s
  | .phase g n => Sys2Proof.Machine.execPhase g n s
  | .mark g n => Sys2Proof.Machine.execMark g n s
  | .vadd t d a b k h => Sys2Proof.Machine.execVadd t d a b k h s
  | .vaddSat t d a b k h => Sys2Proof.Machine.execVaddSat t d a b k h s
  | .vsub t d a b k h => Sys2Proof.Machine.execVsub t d a b k h s
  | .vsubSat t d a b k h => Sys2Proof.Machine.execVsubSat t d a b k h s
  | .vmul t d a b k h => Sys2Proof.Machine.execVmul t d a b k h s
  | .vmulHi t d a b k h => Sys2Proof.Machine.execVmulHi t d a b k h s
  | .vmulWide t d a b k h => Sys2Proof.Machine.execVmulWide t d a b k h s
  | .vfma t d a b k h => Sys2Proof.Machine.execVfma t d a b k h s
  | .vfmaFms t d a b k h => Sys2Proof.Machine.execVfmaFms t d a b k h s
  | .vfmaFnma t d a b k h => Sys2Proof.Machine.execVfmaFnma t d a b k h s
  | .vmin t d a b k h => Sys2Proof.Machine.execVmin t d a b k h s
  | .vmax t d a b k h => Sys2Proof.Machine.execVmax t d a b k h s
  | .vabs t d a k => Sys2Proof.Machine.execVabs t d a k s
  | .vneg t d a k => Sys2Proof.Machine.execVneg t d a k s
  | .vlogAnd t d a b k h => Sys2Proof.Machine.execVlogAnd t d a b k h s
  | .vlogOr t d a b k h => Sys2Proof.Machine.execVlogOr t d a b k h s
  | .vlogXor t d a b k h => Sys2Proof.Machine.execVlogXor t d a b k h s
  | .vlogAndn t d a b k h => Sys2Proof.Machine.execVlogAndn t d a b k h s
  | .vlogNot t d a k => Sys2Proof.Machine.execVlogNot t d a k s
  | .vshShl t d a b k h => Sys2Proof.Machine.execVshShl t d a b k h s
  | .vshShr t d a b k h => Sys2Proof.Machine.execVshShr t d a b k h s
  | .vshSar t d a b k h => Sys2Proof.Machine.execVshSar t d a b k h s
  | .vcmpEq t m a b k h => Sys2Proof.Machine.execVcmpEq t m a b k h s
  | .vcmpNe t m a b k h => Sys2Proof.Machine.execVcmpNe t m a b k h s
  | .vcmpLt t m a b k h => Sys2Proof.Machine.execVcmpLt t m a b k h s
  | .vcmpLe t m a b k h => Sys2Proof.Machine.execVcmpLe t m a b k h s
  | .vcmpGt t m a b k h => Sys2Proof.Machine.execVcmpGt t m a b k h s
  | .vcmpGe t m a b k h => Sys2Proof.Machine.execVcmpGe t m a b k h s
  | .vcmpUo t m a b k h => Sys2Proof.Machine.execVcmpUo t m a b k h s
  | .vsel t d a b k h sel => Sys2Proof.Machine.execVsel t d a b k h sel s
  | .vbitClz t d a k => Sys2Proof.Machine.execVbitClz t d a k s
  | .vbitCtz t d a k => Sys2Proof.Machine.execVbitCtz t d a k s
  | .vbitFfs t d a k => Sys2Proof.Machine.execVbitFfs t d a k s
  | .vbitPopc t d a k => Sys2Proof.Machine.execVbitPopc t d a k s
  | .vbfxN32 d a b k h => Sys2Proof.Machine.execVbfxN32 d a b k h s
  | .vbfxI32 d a b k h => Sys2Proof.Machine.execVbfxI32 d a b k h s
  | .vfshLeft t d a b k h => Sys2Proof.Machine.execVfshLeft t d a b k h s
  | .vfshRight t d a b k h => Sys2Proof.Machine.execVfshRight t d a b k h s
  | .vspecExp2 d a k => Sys2Proof.Machine.execVspecExp2 d a k s
  | .vspecLog2 d a k => Sys2Proof.Machine.execVspecLog2 d a k s
  | .vspecRcp d a k => Sys2Proof.Machine.execVspecRcp d a k s
  | .vspecRsqrt d a k => Sys2Proof.Machine.execVspecRsqrt d a k s
  | .vspecSqrt d a k => Sys2Proof.Machine.execVspecSqrt d a k s
  | .vredAdd t d a k => Sys2Proof.Machine.execVredAdd t d a k s
  | .vredMax t d a k => Sys2Proof.Machine.execVredMax t d a k s
  | .vredMin t d a k => Sys2Proof.Machine.execVredMin t d a k s
  | .vshuf t d a b k h => Sys2Proof.Machine.execVshuf t d a b k h s
  | .vrot t d a b k h => Sys2Proof.Machine.execVrot t d a b k h s
  | .vxg t d a b k h => Sys2Proof.Machine.execVxg t d a b k h s
  | .vbcast t d a k => Sys2Proof.Machine.execVbcast t d a k s
  | .vext t d a b => Sys2Proof.Machine.execVext t d a b s
  | .vld t d a b k => Sys2Proof.Machine.execVld t d a b k s
  | .vst t d a b k => Sys2Proof.Machine.execVst t d a b k s
  | .vgath t d a b k => Sys2Proof.Machine.execVgath t d a b k s
  | .vscat t d a b k => Sys2Proof.Machine.execVscat t d a b k s
  | .vamoAdd t d a b k => Sys2Proof.Machine.execVamoAdd t d a b k s
  | .vamoAddSr d a b k => Sys2Proof.Machine.execVamoAddSr d a b k s
  | .vamoMin t d a b k => Sys2Proof.Machine.execVamoMin t d a b k s
  | .vamoMax t d a b k => Sys2Proof.Machine.execVamoMax t d a b k s
  | .vamoFmax t d a b k => Sys2Proof.Machine.execVamoFmax t d a b k s
  | .vqpt t d a b k => Sys2Proof.Machine.execVqpt t d a b k s
  | .vmaskAnd d a b k => Sys2Proof.Machine.execVmaskAnd d a b k s
  | .vmaskOr d a b k => Sys2Proof.Machine.execVmaskOr d a b k s
  | .vmaskXor d a b k => Sys2Proof.Machine.execVmaskXor d a b k s
  | .vmaskAndn d a b k => Sys2Proof.Machine.execVmaskAndn d a b k s
  | .vmaskNot d a k => Sys2Proof.Machine.execVmaskNot d a k s
  | .vmaskMov d a k => Sys2Proof.Machine.execVmaskMov d a k s
  | .vmov t d a k => Sys2Proof.Machine.execVmov t d a k s
  | .mcall e imm f => Sys2Proof.Machine.execMcall e imm f s
  | .mlds a f p q => Sys2Proof.Machine.execMlds a f p q s
  | .mswap a => Sys2Proof.Machine.execMswap a s
  | .mstream a t imm => Sys2Proof.Machine.execMstream a t imm s
  | .mstreamEyepiece a e t imm => Sys2Proof.Machine.execMstreamEyepiece a e t imm s
  | .mdrain f t m c => Sys2Proof.Machine.execMdrain f t m c s
  | .mzero q => Sys2Proof.Machine.execMzero q s
  | .mepl e q => Sys2Proof.Machine.execMepl e q s
  | .mmode m o b w a => Sys2Proof.Machine.execMmode m o b w a s
  | .mseg f r c => Sys2Proof.Machine.execMseg f r c s
  | .mqset q a => Sys2Proof.Machine.execMqset q a s
  | .mephw a b f sel e => Sys2Proof.Machine.execMephw a b f sel e s
  | .mstat d c => Sys2Proof.Machine.execMstat d c s
  | .cpy n f a b c => Sys2Proof.Machine.execCpy n f a b c s
  | .cgath n f a b c => Sys2Proof.Machine.execCgath n f a b c s
  | .cscat n f a b c => Sys2Proof.Machine.execCscat n f a b c s
  | .cfill n f a b c => Sys2Proof.Machine.execCfill n f a b c s
  | .cred n f a b c => Sys2Proof.Machine.execCred n f a b c s
  | .cbcast n f a b c => Sys2Proof.Machine.execCbcast n f a b c s
  | .cxfm n f a b c => Sys2Proof.Machine.execCxfm n f a b c s
  | .cstashSave n f a b c => Sys2Proof.Machine.execCstashSave n f a b c s
  | .cstashGet n f a b c => Sys2Proof.Machine.execCstashGet n f a b c s
  | .cstashPf n f c => Sys2Proof.Machine.execCstashPf n f c s
  | .cstashDrop n f c => Sys2Proof.Machine.execCstashDrop n f c s
  | .cverFork n f a => Sys2Proof.Machine.execCverFork n f a s
  | .cverRetire n f a => Sys2Proof.Machine.execCverRetire n f a s
  | .cverSettle n f a => Sys2Proof.Machine.execCverSettle n f a s
  | .csend n f a b c => Sys2Proof.Machine.execCsend n f a b c s
  | .crecv n f a b c => Sys2Proof.Machine.execCrecv n f a b c s
  | .cringReduceScatter n f a b c => Sys2Proof.Machine.execCringReduceScatter n f a b c s
  | .cringAllGather n f a b c => Sys2Proof.Machine.execCringAllGather n f a b c s
  | .cringReduceScatterF32 n f a b c => Sys2Proof.Machine.execCringReduceScatterF32 n f a b c s
  | .cringAllGatherF32 n f a b c => Sys2Proof.Machine.execCringAllGatherF32 n f a b c s
  | .cnred n f a b c => Sys2Proof.Machine.execCnred n f a b c s
  | .cmaintClean n f a b c => Sys2Proof.Machine.execCmaintClean n f a b c s
  | .cmaintFlush n f a b c => Sys2Proof.Machine.execCmaintFlush n f a b c s
  | .cmaintInval n f a b c => Sys2Proof.Machine.execCmaintInval n f a b c s
  | .cmaintTlb n f a b c => Sys2Proof.Machine.execCmaintTlb n f a b c s
  | .cpin n f a b c => Sys2Proof.Machine.execCpin n f a b c s
  | .cpinUnpin n f a b c => Sys2Proof.Machine.execCpinUnpin n f a b c s
  | .cmcast n f a b => Sys2Proof.Machine.execCmcast n f a b s
  | .xcvt f g d a => Sys2Proof.Machine.execXcvt f g d a s
  | .xcvtSr f g d a b => Sys2Proof.Machine.execXcvtSr f g d a b s
  | .xq k sel m d a z => Sys2Proof.Machine.execXq k sel m d a z s
  | .xdq k sel m d a z => Sys2Proof.Machine.execXdq k sel m d a z s
  | .xsld v c k o z h b => Sys2Proof.Machine.execXsld v c k o z h b s
  | .xsst v c k o z h b => Sys2Proof.Machine.execXsst v c k o z h b s
  | .xtr w d a => Sys2Proof.Machine.execXtr w d a s
  | .xperm w d a b => Sys2Proof.Machine.execXperm w d a b s
  | .xhad n imm d a b => Sys2Proof.Machine.execXhad n imm d a b s
  | .xamax f d a b => Sys2Proof.Machine.execXamax f d a b s
  | .xpack m w sel g d a => Sys2Proof.Machine.execXpack m w sel g d a s
  | .xunpk m w g d a => Sys2Proof.Machine.execXunpk m w g d a s
  | .xexp w d a m => Sys2Proof.Machine.execXexp w d a m s
  | .xtblPerm a b => Sys2Proof.Machine.execXtblPerm a b s
  | .xtblKey a => Sys2Proof.Machine.execXtblKey a s
  | .retire => Sys2Proof.Machine.execRetire s
  | .retu => Sys2Proof.Machine.execRetu s
  | .retl => Sys2Proof.Machine.execRetl s
  | .mOperationExecute x => Sys2Proof.Machine.execMOperationExecute x s
  | .mldsCompletion x => Sys2Proof.Machine.execMldsCompletion x s
  | .mdrainCompletion x => Sys2Proof.Machine.execMdrainCompletion x s
  | .routineCompletion x => Sys2Proof.Machine.execRoutineCompletion x s
  | .packageReset b => Sys2Proof.Machine.execPackageReset b s
  | .loadDataArrival x => Sys2Proof.Machine.execLoadDataArrival x s
  | .registerFill x v => Sys2Proof.Machine.execRegisterFill x v s
  | .pageWalk x va => Sys2Proof.Machine.execPageWalk x va s
  | .releasedStorePerform x n => Sys2Proof.Machine.execReleasedStorePerform x n s
  | .storeRefused x n prot => Sys2Proof.Machine.execStoreRefused x n prot s
  | .rqctlRetry x => Sys2Proof.Machine.execRqctlRetry x s
  | .rqctlDrop x => Sys2Proof.Machine.execRqctlDrop x s
  | .commandExecute core queue => Sys2Proof.Machine.execCommandExecute core queue s
  | .commandCompletion core n outcome => Sys2Proof.Machine.execCommandCompletion core n outcome s
  | .ldBlkCompletion core n => Sys2Proof.Machine.execLdBlkCompletion core n s
  | .watchFire x j => Sys2Proof.Machine.execWatchFire x j s
  | .userInterruptDelivery x => Sys2Proof.Machine.execUserInterruptDelivery x s
  | .rldDeadline x => Sys2Proof.Machine.execRldDeadline x s
  | .rldReply x n => Sys2Proof.Machine.execRldReply x n s
  | .faultRecordWrite => Sys2Proof.Machine.execFaultRecordWrite s
  | .frqWrite v => Sys2Proof.Machine.execFrqWrite v s
  | .taskStart x => Sys2Proof.Machine.execTaskStart x s
  | .preemptionDecision l => Sys2Proof.Machine.execPreemptionDecision l s
  | .sliceFloorExpiry x => Sys2Proof.Machine.execSliceFloorExpiry x s
  | .quantumExpiry x => Sys2Proof.Machine.execQuantumExpiry x s
  | .preemptForcedCheckpoint x => Sys2Proof.Machine.execPreemptForcedCheckpoint x s
  | .checkpointSwitchOut x => Sys2Proof.Machine.execCheckpointSwitchOut x s
  | .taskResume x => Sys2Proof.Machine.execTaskResume x s
  | .meridianFiring m => Sys2Proof.Machine.execMeridianFiring m s
  | .channelMessageArrival ch peer pch tag lost data => Sys2Proof.Machine.execChannelMessageArrival ch peer pch tag lost data s
  | .stashPrefetch => Sys2Proof.Machine.execStashPrefetch s
  | .releaseFlush => Sys2Proof.Machine.execReleaseFlush s
  | .nredChunkArrival grp seq chunk rank fits lost data => Sys2Proof.Machine.execNredChunkArrival grp seq chunk rank fits lost data s
  | .nredDeadlineSpill grp seq chunk => Sys2Proof.Machine.execNredDeadlineSpill grp seq chunk s
  | .ringStepArrival id kind step n lost data => Sys2Proof.Machine.execRingStepArrival id kind step n lost data s
  | .keyAgreement port peer secret => Sys2Proof.Machine.execKeyAgreement port peer secret s
  | .epochRotation port peer secret => Sys2Proof.Machine.execEpochRotation port peer secret s
  | .frameReceive port epoch counter tagOk => Sys2Proof.Machine.execFrameReceive port epoch counter tagOk s
  | .roundTripMeasure port us ns => Sys2Proof.Machine.execRoundTripMeasure port us ns s
  | .packetReceive src stream seq data => Sys2Proof.Machine.execPacketReceive src stream seq data s
  | .e2eResend n => Sys2Proof.Machine.execE2eResend n s
  | .heartbeat port => Sys2Proof.Machine.execHeartbeat port s
  | .deadPeerDeclaration port => Sys2Proof.Machine.execDeadPeerDeclaration port s
  | .deadNoticeReceive dom coord => Sys2Proof.Machine.execDeadNoticeReceive dom coord s
  | .fabricRead line who => Sys2Proof.Machine.execFabricRead line who s
  | .fabricOwnership line who => Sys2Proof.Machine.execFabricOwnership line who s
  | .fabricInvalidation line home => Sys2Proof.Machine.execFabricInvalidation line home s
  | .invalidationAck line who => Sys2Proof.Machine.execInvalidationAck line who s
  | .fabricWriteBack line who data => Sys2Proof.Machine.execFabricWriteBack line who data s
  | .fabricEviction line who => Sys2Proof.Machine.execFabricEviction line who s
  | .hbmRefresh stack bank => Sys2Proof.Machine.execHbmRefresh stack bank s
  | .lpddrRefresh bank => Sys2Proof.Machine.execLpddrRefresh bank s
  | .linkRetrain port lane ok => Sys2Proof.Machine.execLinkRetrain port lane ok s
  | .scrub line => Sys2Proof.Machine.execScrub line s
  | .uncorrectableError at_ unit => Sys2Proof.Machine.execUncorrectableError at_ unit s
  | .correctedError u => Sys2Proof.Machine.execCorrectedError u s
  | .shutterArm m v => Sys2Proof.Machine.execShutterArm m v s
  | .shutterRelease m => Sys2Proof.Machine.execShutterRelease m s
  | .shutterFire src => Sys2Proof.Machine.execShutterFire src s
  | .shutterLatch => Sys2Proof.Machine.execShutterLatch s
  | .semaphoreAcquire m lease => Sys2Proof.Machine.execSemaphoreAcquire m lease s
  | .semaphoreRenew m lease epoch => Sys2Proof.Machine.execSemaphoreRenew m lease epoch s
  | .semaphoreRelease m epoch => Sys2Proof.Machine.execSemaphoreRelease m epoch s
  | .leaseExpiry => Sys2Proof.Machine.execLeaseExpiry s
  | .guardedWrite m w => Sys2Proof.Machine.execGuardedWrite m w s
  | .managementRequest r => Sys2Proof.Machine.execManagementRequest r s
  | .mgevtRead => Sys2Proof.Machine.execMgevtRead s
  | .attestationQuote nonce => Sys2Proof.Machine.execAttestationQuote nonce s
  | .counterWrite m n v => Sys2Proof.Machine.execCounterWrite m n v s
  | .mgclkWrite m v => Sys2Proof.Machine.execMgclkWrite m v s
  | .governorInterval watts mirrorWatts amps junction => Sys2Proof.Machine.execGovernorInterval watts mirrorWatts amps junction s
  | .coolantAlarm inlet flow => Sys2Proof.Machine.execCoolantAlarm inlet flow s
  | .thermalTrip => Sys2Proof.Machine.execThermalTrip s
  | .railShutoff => Sys2Proof.Machine.execRailShutoff s
  | .fctlResume x => Sys2Proof.Machine.execFctlResume x s
  | .fctlKill x => Sys2Proof.Machine.execFctlKill x s
  | .fctlSwitchOut x => Sys2Proof.Machine.execFctlSwitchOut x s
  | .flagsWrite x v => Sys2Proof.Machine.execFlagsWrite x v s
  | .mquartWrite x v => Sys2Proof.Machine.execMquartWrite x v s
  | .carveWrite x v => Sys2Proof.Machine.execCarveWrite x v s
  | .hgWrite x n v => Sys2Proof.Machine.execHgWrite x n v s
  | .hsWrite x n v => Sys2Proof.Machine.execHsWrite x n v s
  | .watchEntryWrite x j threshold v => Sys2Proof.Machine.execWatchEntryWrite x j threshold v s
  | .coreControlWrite core off v w => Sys2Proof.Machine.execCoreControlWrite core off v w s
  | .frposWrite v => Sys2Proof.Machine.execFrposWrite v s
  | .vrbWrite k v => Sys2Proof.Machine.execVrbWrite k v s
  | .contextCreate x pc sup => Sys2Proof.Machine.execContextCreate x pc sup s
  | .counterAdd x n => Sys2Proof.Machine.execCounterAdd x n s
  | .forwardedRequest line who own => Sys2Proof.Machine.execForwardedRequest line who own s
  | .coolantRestored inlet flow => Sys2Proof.Machine.execCoolantRestored inlet flow s

end Sys2Proof.Machine
end

