-- ==== Sys2Proof/Machine/Cycle.lean ====
section
/-! DEFINITION. One core cycle (R44 to R47): what each resident context presents, which of two colliding bundles issues,
and the issue of a bundle with all its slots. -/

namespace Sys2Proof.Machine

/-! ## Decode faults (R27) -/

/-- A slot of a bundle with its word and what that decodes to. -/
structure RawSlot where
  pos   : SlotPos
  word  : SlotWord
  instr : Option Instr
deriving DecidableEq, Repr

/-- The slots of a bundle, a G slot of kind none left out. -/
def rawSlots (b : List Byte) : List RawSlot :=
  (slotWords (headerSlots (b.getD 0 0)) (b.drop 1)).filterMap fun (p, w) =>
    if p == .g && bits w 12 3 == 0 then none else some { pos := p, word := w, instr := decodeSlot p w }

/-- What may not stand in a delay bundle, whatever its other fields hold (R56). -/
def RawSlot.barredFromDelay (r : RawSlot) : Bool := r.pos == .s && Machine.barredFromDelay (bits r.word 26 6)

/-- What may not stand in a handler's bundle (R276). -/
def RawSlot.barredFromHandler (g : Gate) (r : RawSlot) : Bool :=
  match r.pos with
  | .g => g.ckpt
  | .s => checkpointOpcode (bits r.word 26 6)
  | .c0 | .c1 => false
  | _ => true

/-- `retu` and `retl` outside the handler they end, a control register without a number, and an `mdrain` format that the
mode forbids are BADOP too (R69, R203, R277, R330). -/
def State.badHere (s : State) (i : Instr) : Bool :=
  match i with
  | .retu => (s.bank?.map (·.late)) != some false
  | .retl => (s.bank?.map (·.late)) != some true
  | .mfs _ n | .mts _ n => (ctlAccess n.toNat).isNone
  | .mdrain _ _ m _ => (mmMode ((s.aheadOf s.cur.ctx).ctx s.cur.ctx).mmode == 0) != (m.val == 2)
  | _ => false

/-- The first decode fault of a bundle that is placed at an offset of its line, in the order of R27. -/
def State.decodeFault (s : State) (off : Nat) (b : List Byte) : Option (Cause × Nat) :=
  let h := b.getD 0 0
  let raw := rawSlots b
  let gw := if bits h 7 1 = 1 then some (slotWordOf (b.drop 1)) else none
  let g := (gw.map gateFields).getD Gate.absent
  if off + bundleLength h > 64 then some (.badbundle, 8)
  else if (gw.map gateBad).getD false then some (.badbundle, 0)
  else
    let delay := s.pendingTransfer.isSome
    let misplaced (r : RawSlot) : Bool := (delay && r.barredFromDelay) || (s.bank?.isSome && r.barredFromHandler g)
    let gateSlot : List RawSlot :=
      if gw.isSome && !(raw.any fun r => r.pos == .g) then [{ pos := .g, word := 0, instr := none }] else []
    match (gateSlot ++ raw).find? misplaced with
    | some r => some (.badbundle, slotCode r.pos)
    | none => (raw.find? fun r => match r.instr with
        | none => true
        | some i => !i.wf || s.badHere i).map fun r => (.badop, slotCode r.pos)

/-- The solo bit of a bundle that may not decode (R28). -/
def soloOf (b : List Byte) : Bool :=
  if bits (b.getD 0 0) 7 1 = 1 then (gateFields (slotWordOf (b.drop 1))).solo else false

/-! ## What a context presents (R44) -/

/-- What the merge stage sees of a bundle: its header's slots and its solo bit (R45). -/
structure Head where
  header : Byte
  solo   : Bool
deriving DecidableEq, Repr

/-- What a context does at its boundary in place of a bundle: its release goes on (R320), it drains after its `retire`
(R304), it is held for the other's `carve` (R221), it takes a pre-emption's forced checkpoint, or it is switched out
(R313). -/
inductive AtBoundary where
  | release | drain | hold | force | leave
deriving DecidableEq, Repr

/-- What a slot brings to a core cycle: a bundle presented, or the fault that stands in its place; a bundle that is held
before issue, which it is not to present (R44); or what the context does at its boundary. A fault met before a bundle is read,
by fetch or by the check of a target, has no slots and collides with nothing (notes/assumptions/38.md). -/
inductive Offer where
  | bundle (addr : BitVec 56) (b : Bundle)
  | bad (addr : BitVec 56) (head : Option Head) (c : Cause) (slot : Nat) (i : Info)
  | held (addr : BitVec 56) (b : Bundle)
  | stay (w : AtBoundary)
deriving DecidableEq, Repr

def Bundle.head (b : Bundle) : Head := { header := b.header, solo := b.gate.solo }

def Offer.head (o : Offer) : Option Head :=
  match o with
  | .bundle _ b => some (Bundle.head b)
  | .bad _ h _ _ _ => h
  | .held _ _ | .stay _ => none

/-- The context presents (R44). -/
def Offer.presents (o : Offer) : Bool :=
  match o with
  | .bundle _ _ | .bad _ _ _ _ _ => true
  | .held _ _ | .stay _ => false

/-- A core cycle in which a context with a task does not issue, for a reason of R341, counted while the trace is on. -/
def State.lose (s : State) (x : CtxId) (reason : Fin 4) : State :=
  let c := s.ctx x
  if flag c.reg.trctl 63 && c.task.isSome then
    s.modCtx x fun c => { c with trace := { c.trace with
      stall := c.trace.stall + 1, reason := if c.trace.stall = 0 then reason else c.trace.reason } }
  else s

/-- The place fetch stands at: its address, whether its target check is made, and the transfer it came from. -/
structure Front where
  pc       : BitVec 56
  high     : Byte
  checked  : Bool
  cameFrom : Option (BitVec 56)
deriving DecidableEq, Repr

def State.frontOf (s : State) : Front :=
  match s.bank? with
  | some b => { pc := b.pc, high := b.high, checked := b.checked, cameFrom := b.cameFrom }
  | none => { pc := s.cx.pc, high := s.cx.high, checked := s.cx.checked, cameFrom := s.cx.cameFrom }

def State.setFront (s : State) (a : BitVec 56) : State :=
  match s.bank? with
  | some _ => s.modBank fun b => { b with pc := a, checked := true, cameFrom := none }
  | none => s.modCx fun c => { c with pc := a, checked := true, cameFrom := none }

/-- As many lines as there are addresses of lines: fetch passes every line that begins with a filler (R23). -/
def fetchFuel : Nat := 2 ^ 50

/-- The bundle at the front of the current context, past fillers, or the fault met on the way (R23, R26, R57, R58). -/
def State.front (s : State) (fuel : Nat) : State × Option Offer :=
  match fuel with
  | 0 => (s, none)
  | f + 1 =>
    let x := s.cur.ctx
    let here := s.frontOf
    let a := here.pc
    let src := here.cameFrom.getD a
    let bad (c : Cause) (i : Info) : Option Offer := some (.bad a none c 8 { i with src := some src })
    if here.high ≠ 0 then (s, bad .xlate { Info.none with addr := a })
    else
    let s := s.obtainCode x s.cx.reg.ptroot s.supervisor a
    match s.fetchLine x s.cx.reg.ptroot s.supervisor .bundle a with
    | .error e =>
      if e.walk then ((s.startWalk x s.cx.reg.ptroot e.addr none).lose x 1, none)
      else (s, bad e.cause { Info.none with addr := e.addr, sub := e.sub, looked := e.looked })
    | .ok line =>
      let s := s.touch x s.cx.reg.ptroot (lineOf a)
      let off := a.toNat % 64
      match if here.checked then none else targetCheck line off with
      | some c => (s, bad c { Info.none with addr := a })
      | none =>
        if off = 0 && isHead line then (s, some (.bad a none .headtarget 8 { Info.none with addr := a, src := some a }))
        else if line.getD off 0 = 0 then (s.setFront (lineOf a + 64)).front f
        else
          let bytes := line.drop off
          let head : Head := { header := bytes.getD 0 0, solo := soloOf bytes }
          match s.decodeFault off bytes with
          | some (c, slot) => (s, some (.bad a (some head) c slot { Info.none with src := some a }))
          | none =>
            match decodeBundle off bytes with
            | .ok b => (s, some (.bundle a b))
            | .error _ => (s, some (.bad a (some head) .badbundle 8 { Info.none with src := some a }))

/-- The vector registers a bundle names (R74). -/
def bundleNames (b : Bundle) : List (Fin 64) := b.ops.flatMap fun p => namesV p.2

/-- What stands between a bundle at the front and its presentation (R31, R52, R74, R269, R329): a flag with an error, a
wait, on the flags as they stood when the core cycle began, a register to fill, a late operand. -/
def State.ready (s : State) (began : Ctx) (a : BitVec 56) (b : Bundle) : State × Option Offer :=
  let x := s.cur.ctx
  let m := gateFlags b.gate
  match (if b.gate.wait = 0 then none else began.flagError m) with
  | some (f, e) => (s, some (.bad a (some (Bundle.head b)) e 0 { Info.none with flag := some f, src := some a }))
  | none =>
    if b.gate.wait ≠ 0 && !(began.flagsSet m) then (s.lose x 3, none)
    else
      let names := bundleNames b
      match names.find? fun r => !(s.kr.residentV x.slot r) with
      | some r =>
        match s.fill x r names with
        | .ok s => (s.lose x 2, none)
        | .error e => (s, some (.bad a (some (Bundle.head b)) .regfill 8
            { Info.none with addr := e.addr, sub := BitVec.ofNat 8 (causeCode e.cause), src := some a }))
      | none =>
        match operandStop s.bank?.isSome (s.bundleReads b.ops) with
        | some (_, .late cls grp reg) => ((s.lateTrap x cls grp reg).lose x 2, none)
        | _ => (s, some (.bundle a b))

/-- One pause cycle of a context (R51). -/
def State.pauseCycle (s : State) (x : CtxId) : State :=
  (s.modCtx x fun c => { c.tick with pause := c.pause - 1 }).boundary x

def State.bankPause (s : State) (x : CtxId) : State :=
  (s.modCore x.core fun k => { k with bank := k.bank.map fun b => { b with pause := b.pause - 1, delay := nearer b.delay } }).bankBoundary x

/-- A context whose `retire` has committed drains (R304): its release goes on, its delay lines advance, and when nothing is
left it ends. -/
def State.drain (s : State) (x : CtxId) : State :=
  let s := s.lose x 1
  if (s.ctx x).releasing.isSome then s.proceed x
  else if s.mayRetire x then s.retireTask x
  else if (s.ctx x).frozen then s
  else (s.modCtx x fun c => { c with delay := nearer c.delay }).boundary x

/-- A context beside one at a complete `carve` barrier is held at its boundary, at a checkpoint that has released all it
withheld, what its handler has withheld too (R221, R276). -/
def State.heldByCarve (s : State) (x : CtxId) : State :=
  if (s.ctx x).atCkpt && (s.ctx x).withheld.isEmpty && (s.ctx x).commands.isEmpty then s else s.forceCheckpoint x .sync

/-- A context at a barrier waits, as in a flag wait (R221). -/
def State.atBarrier (s : State) : Bool :=
  match s.cx.carveWord with
  | some (w, alone) => !(s.carveReady s.cur.ctx w alone)
  | none => false

/-! ## Issue -/

/-- The slots of a bundle act in slot order; one that ends the context's run or its handler after the others. -/
def endsRun (i : Instr) : Bool :=
  match i with
  | .trap _ | .retire | .retu | .retl => true
  | _ => false

def slotOrder (ops : List (SlotPos × Instr)) : List (SlotPos × Instr) :=
  ops.filter (fun p => !(endsRun p.2)) ++ ops.filter fun p => endsRun p.2

def runSlots (ops : List (SlotPos × Instr)) (s : State) : Host.Outcome State Fault Refusal :=
  match ops with
  | [] => .next s
  | (p, i) :: ops =>
    match exec i { s with cur := { s.cur with pos := p } } with
    | .next t => if t.raised.isSome then .next t else runSlots ops t
    | .fault f => .fault f
    | .refused r => .refused r

/-- A stop of a bundle, met in a slot: nothing of the bundle stands but what it waited for under a redirect (R117). -/
def State.stopBundle (s : State) (waited : State) (p : SlotPos) (e : Stop) : State :=
  match e with
  | .redirect _ =>
    let t := { waited with cur := { waited.cur with pos := p } }.takeStop e
    match t.bank? with
    | some _ => (t.modBank fun b => { b with delay := nearer b.delay }).bankBoundary t.cur.ctx
    | none => (t.modCx fun c => { c.tick with atCkpt := false, walk := none, refusal := none, lateHeld := none }).boundary t.cur.ctx
  | _ => { s with cur := { s.cur with pos := p } }.takeStop e

/-- The numbers drawn by a bundle that did not commit are not drawn again. -/
def State.drawn (s : State) (t : State) : State := { s with free := t.free, nextId := t.nextId }

/-- A wait names flags: the writes of the operations that completed them are complete to the context (R259), and a flag that a
watch has set makes it an acquire (R282). -/
def State.waitedFor (s : State) (x : CtxId) (m : BitVec 32) : State :=
  let s := if (s.ctx x).wn.any fun w => flag w 63 && flag w 62 && flag m (bits w 57 5) then s.acquireReached x else s
  let mine (f : Finished) : Bool := f.owner.serial == (s.ctx x).serial && flag m f.flag.val
  if s.finished.any mine then
    { (s.finished.filter mine).foldl State.complete s with finished := s.finished.filter fun f => !(mine f) }
  else s

/-- What comes of a bundle that is to issue: it is held before issue, for a reason of R341, with what it waits for begun and
its forced checkpoint taken; or it has issued or raised its fault. -/
inductive Attempt where
  | held (s : State) (reason : Fin 4)
  | done (o : Host.Outcome State Fault Refusal)

/-- What a bundle is held for, begun; none for a stop that holds nothing before issue. -/
def State.holdFor (s : State) (e : Stop) : Option Attempt :=
  match e with
  | .hold => some (.held s 1)
  | .walk _ _ | .claim _ => some (.held (s.takeStop e) 1)
  | .barrier _ _ => some (.held (s.takeStop e) 3)
  | _ => none

/-- A bundle issues (R46, R85, R95, R319, R320): its operand checks, forced checkpoints before it, its slots, its
commit. -/
def State.attempt (s : State) (a : BitVec 56) (b : Bundle) : Attempt :=
  let x := s.cur.ctx
  let handler := s.bank?.isSome
  let s := { s with cur := { s.cur with scope := b.gate.scope, addr := a, pos := .g }, raised := none }
  let s := s.modKr fun k => (bundleNames b).foldl (fun k r => k.name (liveSlot x.slot r)) k
  let s := if b.gate.wait ≠ 0 then s.waitedFor x (gateFlags b.gate) else s
  let take (s : State) : State := if b.gate.wait = 2 then s.modCx fun c => c.consume (gateFlags b.gate) else s
  let stop (s : State) (p : SlotPos) (e : Stop) : Attempt :=
    (s.holdFor e).getD (.done (.next ((s.traceStall x).stopBundle (take (s.traceStall x)) p e)))
  if (bundleNames b).any fun r => !(s.kr.residentV x.slot r) then .held s 2
  else match operandStop handler (s.bundleReads b.ops) with
  | some (p, e) => stop s p e
  | none =>
    match s.earlyCheck b.ops with
    | .error e => stop s .s e
    | .ok _ =>
      match s.allow b.ops with
      | (s, false) => .held s 1
      | (s, true) =>
        match (if handler then .ok s else s.reopenPhase) with
        | .error e => stop s .g e
        | .ok r =>
          match runSlots (slotOrder b.ops) (take (r.traceStall x)) with
          | .next t =>
            match t.raised with
            | some e => stop (s.drawn t) t.cur.pos e
            | none =>
              if b.ops.any fun p => endsRun p.2 then .done (.next t)
              else if handler then .done (.next (t.commitHandler x))
              else .done (.next (t.commit x (b.gate.ckpt || b.ops.any fun p => commitsAsCheckpoint p.2 || writesCarve p.2)))
          | .fault f => .done (.fault f)
          | .refused r => .done (.refused r)

/-- What may issue presents; what is held before issue does not (R44). The registers a bundle names are the most recently
named (R75). -/
def State.offer (s : State) (o : Option Offer) : State × Option Offer :=
  match o with
  | some (.bundle a b) =>
    match s.attempt a b with
    | .held _ _ => (s, some (.held a b))
    | .done _ => (s.modKr fun k => (bundleNames b).foldl (fun k r => k.name (liveSlot s.cur.slot r)) k, o)
  | o => (s, o)

/-- What a resident context of a running handler brings (R276). -/
def State.presentHandler (s : State) (began : Ctx) (b : Bank) : State × Option Offer :=
  let x := s.cur.ctx
  if b.frozen then (s.lose x 1, none)
  else if b.pause ≠ 0 then (s.bankPause x, none)
  else if s.carveHolds x then (s, some (.stay .hold))
  else match s.front fetchFuel with
    | (s, some (.bundle a b)) =>
      let (t, o) := s.ready began a b
      t.offer o
    | r => r

/-- A context at its next bundle: past its pauses and barriers to the bundle at its front. -/
def State.presentBundle (s : State) (began : Ctx) : State × Option Offer :=
  let x := s.cur.ctx
  match s.cx.reloadErr with
  | some (c, n) => ((s.modCx fun c => { c with reloadErr := none }).takeFault x c 8
      { Info.none with detail := BitVec.ofNat 14 n, src := some s.cx.pc }, none)
  | none =>
    if s.cx.pause ≠ 0 then (if s.logDue x then s.lose x 2 else s.pauseCycle x, none)
    else if s.carveHolds x then (s, some (.stay .hold))
    else if s.atBarrier then (s.lose x 3, none)
    else match s.front fetchFuel with
      | (s, some (.bundle a b)) =>
        match s.ready began a b with
        | (t, some o) => if t.logDue x then (t.lose x 2, none) else t.offer (some o)
        | r => r
      | r => r

/-- A context's part of a core cycle before the merge stage (R44), with `cur` at its slot: what it brings, if anything.
`began` is the context as it stood when the cycle began. -/
def State.present (s : State) (began : Ctx) : State × Option Offer :=
  let x := s.cur.ctx
  match s.cx.status with
  | .empty => (s, none)
  | .faulting => (s.lose x 2, none)
  | .halted => (s.lose x 2, if s.switchDue x && !s.halted then some (.stay .leave) else none)
  | .retiring => if s.halted then (s.lose x 2, none) else (s, some (.stay .drain))
  | .running =>
    if s.halted then (s.lose x 2, none)
    else match s.bank? with
      | some b => s.presentHandler began b
      | none =>
        if s.cx.releasing.isSome then (s.lose x 1, some (.stay .release))
        else if s.cx.frozen then (s.lose x 1, none)
        else
          let s := s.thaw x
          if !(s.runs x) then (s.lose x 2, none)
          else if s.forceDue x then (s, some (.stay .force))
          else if s.switchDue x then (s, some (.stay .leave))
          else if s.switchWaits x then (s.lose x 2, none)
          else s.presentBundle began

/-- A bundle that won the merge stage; it may find that the other context's bundle of this cycle has taken the room or the
register slot it needs. -/
def State.issueBundle (s : State) (a : BitVec 56) (b : Bundle) : Host.Outcome State Fault Refusal :=
  match s.attempt a b with
  | .held t r => .next (t.lose s.cur.ctx r)
  | .done o => o

/-- A bundle held before issue: what it waits for is begun; where that has come in this very cycle, it presents in the
next. -/
def State.holdBundle (s : State) (a : BitVec 56) (b : Bundle) : State :=
  match s.attempt a b with
  | .held t r => t.lose s.cur.ctx r
  | .done _ => s.lose s.cur.ctx 2

/-- What a context does at its boundary. The pre-emption's forced checkpoint stands in the cycle in which the context is
switched out, where its release finds room (R313, R320). -/
def State.actAt (s : State) (x : CtxId) (w : AtBoundary) : State :=
  match w with
  | .release => s.proceed x
  | .drain => s.drain x
  | .hold => (s.heldByCarve x).lose x 2
  | .leave => s.switchOut x
  | .force =>
    let s := s.forceCheckpoint x .pre
    if (s.ctx x).releasing.isNone && s.switchDue x then s.switchOut x else s.lose x 1

/-- An offer that won the merge stage, or that presents nothing. -/
def State.accept (s : State) (slot : Fin 2) (o : Offer) : Host.Outcome State Fault Refusal :=
  let s := { s with cur := { s.cur with slot := slot } }
  match o with
  | .bundle a b => s.issueBundle a b
  | .bad a _ c slot i => .next ({ s.traceStall s.cur.ctx with cur := { s.cur with addr := a } }.takeFault s.cur.ctx c slot i)
  | .held a b => .next (s.holdBundle a b)
  | .stay w => .next (s.actAt s.cur.ctx w)

/-! ## The merge stage (R45) -/

def collide (a b : Offer) : Bool :=
  match a.head, b.head with
  | some h, some k => h.solo || k.solo || bits h.header 0 7 &&& bits k.header 0 7 != 0
  | _, _ => false

/-- The clock and the slices of a core pass one cycle. -/
def Core.tickClock (k : Core) : Core :=
  { k with clock := k.clock + 1, ctx := k.ctx.map fun c => if c.resident then { c with slice := c.slice + 1 } else c }

/-! ## Work outside the issue port -/

/-- A slot's next piece of work outside the issue port, in this model's order (notes/assumptions/60.md): awaited data, a
released store, mirror work, a block's completion, the end of a pre-emption, a start or a resumption, an overdue
reply. -/
def State.slotWork (s : State) (x : CtxId) : Option State :=
  let c := s.ctx x
  let frozen := c.frozen || (match (s.core x.core).bank with
    | some b => b.slot == x.slot && b.frozen
    | none => false)
  if frozen then some (((s.arriveData x).thaw x).thawBank x)
  else match (List.range c.released.length).find? (s.mayPerform x) with
    | some n => some (s.arriveStore x n).watchAll
    | none => if c.walk.any fun w => w.running && w.failed.isNone then some (s.endWalk x) else match s.mirrorStep x with
      | some t => some t
      | none => match (s.core x.core).flagsDue.find? fun d => d.owner.ctx == x with
        | some d => some (s.applyDue x.core d)
        | none =>
          if s.forceDue x then some (s.forceCheckpoint x .pre)
          else if s.switchDue x then some (s.switchOut x)
          else match s.nextFor x with
            | some r =>
              if r.saved then (s.saved.find? (·.key == r.key)).map fun v => s.resumeTask x v r.quart
              else
                let t := s.startTask x r
                if (t.ctx x).resident then some t else none
            | none =>
              if c.overdue.isEmpty then none
              else some (s.answer x 0)

/-- A core's next piece of work: its records, its slots, its command queues, its meridians' firings. -/
def State.progress (s : State) (c : Fin 1792) : Option State :=
  let t := s.writeRecord
  if t.waiting.length < s.waiting.length then some t.watchAll
  else match (s.slotWork { core := c, slot := 0 }) <|> (s.slotWork { core := c, slot := 1 }) with
    | some t => some t
    | none =>
      let k := s.core c
      match (List.finRange 2).findSome? (s.advance c) with
      | some t => some t
      | none => match (List.range k.done.length).find? fun n => ((s.canComplete c n).map (!·.outside)).getD false with
        | some n =>
          match s.canComplete c n with
          | some d =>
            match d.err with
            | some e => some (s.completeCommand d n (some e))
            | none =>
              let (e, t) := s.completionEffect d
              some (t.completeCommand d n e)
          | none => none
        | none => match k.blocks.find? (·.due.isSome) with
          | some b =>
            match b.due with
            | some d => some ((s.modCore c fun k => k.blockDone b.id).completeFlag d.owner d.flag d.err)
            | none => none
          | none => match (List.finRange 8).find? fun m => (s.firingRow m).isSome with
            | some m => some (s.fireMeridian m).settleHeld
            | none => if s.prefetch.isEmpty then none else some s.stashPrefetch

/-- What the slots bring, one after the other: those of slot 0 before those of slot 1 (R47). -/
def State.acceptAll (s : State) (l : List (Fin 2 × Offer)) : Host.Outcome State Fault Refusal :=
  match l with
  | [] => .next s
  | (slot, o) :: l =>
    match s.accept slot o with
    | .next t => t.acceptAll l
    | r => r

/-- What leaves a slot, or ends a task, comes after what issues in the cycle: a flag that it sets is not consumed by it
(R268). -/
def Offer.later (o : Offer) : Bool :=
  match o with
  | .stay .drain | .stay .leave | .stay .force => true
  | _ => false

def offers (o0 o1 : Option Offer) : List (Fin 2 × Offer) :=
  let l := (o0.toList.map ((0 : Fin 2), ·)) ++ o1.toList.map ((1 : Fin 2), ·)
  l.filter (fun p => !p.2.later) ++ l.filter fun p => p.2.later

/-- Two presented bundles that collide (R45). -/
def clash (o0 o1 : Option Offer) : Option (Offer × Offer) :=
  match o0, o1 with
  | some p, some q => if collide p q then some (p, q) else none
  | _, _ => none

/-- Issue of what both slots bring (R45); where neither presents a bundle and the turn lets idle units work, the core's next
piece of work outside its issue port. -/
def State.merge (s : State) (work : Bool) (o0 o1 : Option Offer) : Host.Outcome State Fault Refusal :=
  let c := s.cur.core
  let streak (n : Nat) : State := s.modCore c fun k => { k with streak := n }
  match clash o0 o1 with
  | some (p, q) =>
    let n := s.kr.streak + 1
    if n % 2 = 1 then ((streak n).lose { core := c, slot := 1 } 0).accept 0 p
    else ((streak n).lose { core := c, slot := 0 } 0).accept 1 q
  | none =>
    match (streak 0).acceptAll (offers o0 o1) with
    | .next t => .next (if work && !(o0.any Offer.presents || o1.any Offer.presents) then (t.progress c).getD t else t)
    | r => r

/-- The shutter latches at the end of the cycle of the firing core that it is due in (R466). -/
def State.shutterCycle (s : State) : State :=
  if s.mgmt.shutter.fired.any fun f => f.core == s.cur.core then s.latchShutter else s

/-- What a core cycle is in a core that the part has: the clock, a delivery, the two slots, the merge stage, and at its end
the writes of core control that have performed (R268). -/
def State.coreCycle (s : State) (work : Bool) (c : Fin 1792) : Host.Outcome State Fault Refusal :=
  if s.absent.contains c then .fault .absentCore
  else
    let s := { s with cur := { s.cur with core := c, slot := 0, pos := .g, scope := 0 }, raised := none }
    let began := s.kr.ctx
    let s := s.shutterCycle.modCore c Core.tickClock
    let s := match s.firstServed c with
      | some x => s.deliverInterrupt x
      | none => s
    let (s, o0) := s.present (began.get 0)
    let (s, o1) := { s with cur := { s.cur with slot := 1 } }.present (began.get 1)
    match s.merge work o0 o1 with
    | .next t => .next t.settleCtl
    | r => r

/-! ## Events, and the host's placing of an instruction -/

/-- The master whose request or guarded write an event brings to the arbiter (R459). -/
def masterOf (e : Instr) : Option Master :=
  match e with
  | .semaphoreAcquire m _ | .semaphoreRenew m _ _ | .semaphoreRelease m _ | .guardedWrite m _ | .counterWrite m _ _
  | .mgclkWrite m _ | .shutterArm m _ | .shutterRelease m => some m
  | _ => none

/-- The arbiter's order (R459): of two requests by different masters that arrive in one tick, which a free number says they
do, the one goes first whose master is not the current or the last owner. -/
def State.arbitrate (s : State) (e : Instr) : Instr × State :=
  match s.agenda with
  | [] => (e, s)
  | j :: l => match masterOf e, masterOf j with
    | some m, some n =>
      if m ≠ n ∧ s.mgmt.lastOwner = some m then
        (if Config.freeNat s.free % 2 = 0 then (e, { s with free := s.free + 1 })
         else (j, { s with free := s.free + 1, agenda := e :: l }))
      else (e, s)
    | _, _ => (e, s)

/-- An event of the agenda happens; an instruction of a slot is no event and is passed over. -/
def runEvent (e : Instr) (s : State) : Host.Outcome State Fault Refusal :=
  if (encodeNat e).isSome then .next s
  else
    let (e, s) := s.arbitrate e
    exec e { s with raised := none }

/-- A translation of the first 1 GiB of virtual addresses to the same physical addresses of this package, with every
permission, as a TLB entry of ASID 0 (R350, R352). -/
def identityEntry (coord : BitVec 11) : TlbEntry where
  asid := 0
  page := 0
  level := 2
  leaf := BitVec.ofNat 64 (0xC780000000000000 + coord.toNat)
  pins := 0

/-- A state whose next step issues a bundle of one slot with a table word: the bundle at address 64, that address mapped,
context 0 of core 0 resident and running there at supervisor privilege, in a handler for the two instructions that end
one, and nothing else due first (notes/assumptions/7.md). -/
def State.placeWord (s : State) (nbits w : Nat) : State :=
  let sw : SlotWord := BitVec.ofNat 32 (w % 2 ^ nbits)
  let (p, bank) : SlotPos × Option Bool := match slotOfWord sw with
    | some (p, .retu) => (p, some false)
    | some (p, .retl) => (p, some true)
    | some (p, _) => (p, none)
    | none => (.s, none)
  let s := s.putBytes (homeKey s.fabric.coord 64) (headerOf p :: slotBytes sw)
  let s := s.modCore 0 fun k => { k with
    tlb := identityEntry s.fabric.coord :: k.tlb
    bank := bank.map fun late => { Bank.enter 0 late 64 with checked := true } }
  let s := s.modCtx { core := 0, slot := 0 } fun c => { c with
    status := .running, sup := true, pc := 64, checked := true, cameFrom := none, pause := 0, transfer := none, delay := []
    reg := { c.reg with ptroot := 0 } }
  let m := s.mgmt
  { s with agenda := [], turns := [], mgmt := { m with shutter := { m.shutter with halt := false, fired := [] }, trip := false, railsOff := false }, cur := { s.cur with core := 0 } }

end Sys2Proof.Machine
end

