-- ==== Sys2Proof/Machine/Step.lean ====
section
/-! DEFINITION. The step: the next event the outside or the schedule names, or a core cycle of the core whose turn it is, in which its idle units work or do not
(notes/assumptions/3.md); and where the host places an instruction. -/

namespace Sys2Proof.Machine

/-- One step of the machine. -/
def step (s : State) : Host.Outcome State Fault Refusal :=
  match s.agenda with
  | e :: rest => runEvent e { s with agenda := rest }
  | [] =>
    match s.turns with
    | t :: rest => ({ s with turns := rest }.complexReads t.reads).coreCycle t.work t.core
    | [] => s.coreCycle true s.cur.core

def State.withFetchWord (s : State) (nbits w : Nat) : State := s.placeWord nbits w

end Sys2Proof.Machine
end

