-- ==== Sys2Proof/Laws/PerInstr.lean ====
section
/-! SUPPORT. For every constructor of `Instr`: the word its encoder gives, read by the decoder of the slot it stands in,
is the instruction again; an event has no word. -/

namespace Sys2Proof.Laws

open Sys2Proof

/-- The decoder of the slot whose table an instruction stands in (R33, R34, R40 to R42, R28). -/
def Coded.decoder (i : Instr) : SlotWord → Option Instr :=
  match i with
  | .vadd _ _ _ _ _ _ | .vaddSat _ _ _ _ _ _ | .vsub _ _ _ _ _ _ | .vsubSat _ _ _ _ _ _ | .vmul _ _ _ _ _ _
  | .vmulHi _ _ _ _ _ _ | .vmulWide _ _ _ _ _ _ | .vfma _ _ _ _ _ _ | .vfmaFms _ _ _ _ _ _ | .vfmaFnma _ _ _ _ _ _
  | .vmin _ _ _ _ _ _ | .vmax _ _ _ _ _ _ | .vabs _ _ _ _ | .vneg _ _ _ _ | .vlogAnd _ _ _ _ _ _ | .vlogOr _ _ _ _ _ _
  | .vlogXor _ _ _ _ _ _ | .vlogAndn _ _ _ _ _ _ | .vlogNot _ _ _ _ | .vshShl _ _ _ _ _ _ | .vshShr _ _ _ _ _ _
  | .vshSar _ _ _ _ _ _ | .vcmpEq _ _ _ _ _ _ | .vcmpNe _ _ _ _ _ _ | .vcmpLt _ _ _ _ _ _ | .vcmpLe _ _ _ _ _ _
  | .vcmpGt _ _ _ _ _ _ | .vcmpGe _ _ _ _ _ _ | .vcmpUo _ _ _ _ _ _ | .vsel _ _ _ _ _ _ _ | .vbitClz _ _ _ _
  | .vbitCtz _ _ _ _ | .vbitFfs _ _ _ _ | .vbitPopc _ _ _ _ | .vbfxN32 _ _ _ _ _ | .vbfxI32 _ _ _ _ _
  | .vfshLeft _ _ _ _ _ _ | .vfshRight _ _ _ _ _ _ | .vspecExp2 _ _ _ | .vspecLog2 _ _ _ | .vspecRcp _ _ _
  | .vspecRsqrt _ _ _ | .vspecSqrt _ _ _ | .vredAdd _ _ _ _ | .vredMax _ _ _ _ | .vredMin _ _ _ _ | .vshuf _ _ _ _ _ _
  | .vrot _ _ _ _ _ _ | .vxg _ _ _ _ _ _ | .vbcast _ _ _ _ | .vext _ _ _ _ | .vld _ _ _ _ _ | .vst _ _ _ _ _
  | .vgath _ _ _ _ _ | .vscat _ _ _ _ _ | .vamoAdd _ _ _ _ _ | .vamoAddSr _ _ _ _ | .vamoMin _ _ _ _ _
  | .vamoMax _ _ _ _ _ | .vamoFmax _ _ _ _ _ | .vqpt _ _ _ _ _ | .vmaskAnd _ _ _ _ | .vmaskOr _ _ _ _
  | .vmaskXor _ _ _ _ | .vmaskAndn _ _ _ _ | .vmaskNot _ _ _ | .vmaskMov _ _ _ | .vmov _ _ _ _ => decodeVector
  | .mcall _ _ _ | .mlds _ _ _ _ | .mswap _ | .mstream _ _ _ | .mstreamEyepiece _ _ _ _ | .mdrain _ _ _ _ | .mzero _
  | .mepl _ _ | .mmode _ _ _ _ _ | .mseg _ _ _ | .mqset _ _ | .mephw _ _ _ _ _ | .mstat _ _ => decodeMatrix
  | .cpy _ _ _ _ _ | .cgath _ _ _ _ _ | .cscat _ _ _ _ _ | .cfill _ _ _ _ _ | .cred _ _ _ _ _ | .cbcast _ _ _ _ _
  | .cxfm _ _ _ _ _ | .cstashSave _ _ _ _ _ | .cstashGet _ _ _ _ _ | .cstashPf _ _ _ | .cstashDrop _ _ _
  | .cverFork _ _ _ | .cverRetire _ _ _ | .cverSettle _ _ _ | .csend _ _ _ _ _ | .crecv _ _ _ _ _
  | .cringReduceScatter _ _ _ _ _ | .cringAllGather _ _ _ _ _ | .cringReduceScatterF32 _ _ _ _ _
  | .cringAllGatherF32 _ _ _ _ _ | .cnred _ _ _ _ _ | .cmaintClean _ _ _ _ _ | .cmaintFlush _ _ _ _ _
  | .cmaintInval _ _ _ _ _ | .cmaintTlb _ _ _ _ _ | .cpin _ _ _ _ _ | .cpinUnpin _ _ _ _ _ | .cmcast _ _ _ _ => decodeCopy
  | .xcvt _ _ _ _ | .xcvtSr _ _ _ _ _ | .xq _ _ _ _ _ _ | .xdq _ _ _ _ _ _ | .xsld _ _ _ _ _ _ _ | .xsst _ _ _ _ _ _ _
  | .xtr _ _ _ | .xperm _ _ _ _ | .xhad _ _ _ _ _ | .xamax _ _ _ _ | .xpack _ _ _ _ _ _ | .xunpk _ _ _ _ _
  | .xexp _ _ _ _ | .xtblPerm _ _ | .xtblKey _ => decodeTransform
  | .pause _ _ | .phase _ _ | .mark _ _ => decodeGate
  | _ => decodeScalar

/-- Rows that one encoding shares and a register tells apart decode to the first of them. -/
def Coded.row (i : Instr) : Instr :=
  match i with
  | .cverRetire n f a => .cverFork n f a
  | .cverSettle n f a => .cverFork n f a
  | .cringAllGather n f a b c => .cringReduceScatter n f a b c
  | .cringReduceScatterF32 n f a b c => .cringReduceScatter n f a b c
  | .cringAllGatherF32 n f a b c => .cringReduceScatter n f a b c
  | .cmaintFlush n f a b c => .cmaintClean n f a b c
  | .cmaintInval n f a b c => .cmaintClean n f a b c
  | .cmaintTlb n f a b c => .cmaintClean n f a b c
  | .cpinUnpin n f a b c => .cpin n f a b c
  | i => i

/-- The rows of the table that are events of the machine and not instructions of a slot: they have no word. -/
def Coded.isEvent (i : Instr) : Bool :=
  match i with
  | .mOperationExecute _ | .mldsCompletion _ | .mdrainCompletion _ | .routineCompletion _ | .packageReset _
  | .loadDataArrival _ | .registerFill _ _ | .pageWalk _ _ | .releasedStorePerform _ _ | .storeRefused _ _ _
  | .rqctlRetry _ | .rqctlDrop _ | .commandExecute _ _ | .commandCompletion _ _ _ | .ldBlkCompletion _ _
  | .watchFire _ _ | .userInterruptDelivery _ | .rldDeadline _ | .rldReply _ _ | .faultRecordWrite | .frqWrite _
  | .taskStart _ | .preemptionDecision _ | .sliceFloorExpiry _ | .quantumExpiry _ | .preemptForcedCheckpoint _
  | .checkpointSwitchOut _ | .taskResume _ | .meridianFiring _ | .channelMessageArrival _ _ _ _ _ _ | .stashPrefetch
  | .releaseFlush | .nredChunkArrival _ _ _ _ _ _ _ | .nredDeadlineSpill _ _ _ | .ringStepArrival _ _ _ _ _ _
  | .keyAgreement _ _ _ | .epochRotation _ _ _ | .frameReceive _ _ _ _ | .roundTripMeasure _ _ _
  | .packetReceive _ _ _ _ | .e2eResend _ | .heartbeat _ | .deadPeerDeclaration _ | .deadNoticeReceive _ _
  | .fabricRead _ _ | .fabricOwnership _ _ | .fabricInvalidation _ _ | .invalidationAck _ _ | .fabricWriteBack _ _ _
  | .fabricEviction _ _ | .hbmRefresh _ _ | .lpddrRefresh _ | .linkRetrain _ _ _ | .scrub _ | .uncorrectableError _ _
  | .correctedError _ | .shutterArm _ _ | .shutterRelease _ | .shutterFire _ | .shutterLatch | .semaphoreAcquire _ _
  | .semaphoreRenew _ _ _ | .semaphoreRelease _ _ | .leaseExpiry | .guardedWrite _ _ | .managementRequest _
  | .mgevtRead | .attestationQuote _ | .counterWrite _ _ _ | .mgclkWrite _ _ | .governorInterval _ _ _ _
  | .coolantAlarm _ _ | .thermalTrip | .railShutoff | .fctlResume _ | .fctlKill _ | .fctlSwitchOut _ | .flagsWrite _ _
  | .mquartWrite _ _ | .carveWrite _ _ | .hgWrite _ _ _ | .hsWrite _ _ _ | .watchEntryWrite _ _ _ _
  | .coreControlWrite _ _ _ _ | .frposWrite _ | .vrbWrite _ _ | .contextCreate _ _ _ | .counterAdd _ _
  | .forwardedRequest _ _ _ | .coolantRestored _ _ => true
  | _ => false

/-- The round trip of one instruction. -/
def Coded.Statement (i : Instr) : Prop := i.wf = true → ∀ w, encode i = some w → Coded.decoder i w = some (Coded.row i)

/-! ## Fields of a packed word -/

/-- The fields of a word: value, lowest bit, width. -/
abbrev Coded.Fields := List (Nat × Nat × Nat)

/-- The fields without their widths, as `pack` takes them. -/
def Coded.strip (fs : Coded.Fields) : List (Nat × Nat) := fs.map fun e => (e.1, e.2.1)

/-- Fields stand one below the other under a bound, none overlapping. -/
def Coded.sorted (top : Nat) (fs : Coded.Fields) : Bool :=
  match fs with
  | [] => true
  | (_, lo, n) :: fs => Nat.ble (lo + n) top && Coded.sorted lo fs

/-- Every field's value fits its width. -/
def Coded.small (fs : Coded.Fields) : Prop :=
  match fs with
  | [] => True
  | (v, _, n) :: fs => v < 2 ^ n ∧ Coded.small fs

/-- What bits [lo + n - 1 : lo] of the packed word hold, where whole fields stand there. -/
def Coded.get (fs : Coded.Fields) (lo n : Nat) : Option Nat :=
  match fs with
  | [] => some 0
  | (v, l, m) :: fs =>
    cond (Nat.ble (l + m) lo) (some 0)
      (cond (Nat.beq lo l && Nat.beq n m) (some v)
        (cond (Nat.ble (lo + n) l) (Coded.get fs lo n)
          (cond (Nat.ble lo l && Nat.ble (l + m) (lo + n)) ((Coded.get fs lo (l - lo)).map fun r => v * 2 ^ (l - lo) + r) none)))

theorem Coded.pack_lt (fs : Coded.Fields) (top : Nat) (hs : Coded.sorted top fs = true) (hm : Coded.small fs) :
    pack (Coded.strip fs) < 2 ^ top := by
  induction fs generalizing top with
  | nil => exact Nat.two_pow_pos top
  | cons e fs ih =>
    obtain ⟨v, l, m⟩ := e
    simp only [Coded.sorted, Bool.and_eq_true, Nat.ble_eq] at hs
    have h1 := ih l hs.2 hm.2
    have hv : v < 2 ^ m := hm.1
    have hle : 2 ^ (l + m) ≤ 2 ^ top := Nat.pow_le_pow_right (by decide) hs.1
    have : (v + 1) * 2 ^ l ≤ 2 ^ (l + m) := by
      rw [Nat.add_comm l m, Nat.pow_add]; exact Nat.mul_le_mul_right _ hv
    show v * 2 ^ l + pack (Coded.strip fs) < 2 ^ top
    rw [Nat.add_mul] at this
    omega

theorem Coded.bits_skip (v l r lo n : Nat) (h : lo + n ≤ l) : (v * 2 ^ l + r) / 2 ^ lo % 2 ^ n = r / 2 ^ lo % 2 ^ n := by
  obtain ⟨k, rfl⟩ := Nat.exists_eq_add_of_le h
  have : v * 2 ^ (lo + n + k) = 2 ^ lo * (v * 2 ^ k * 2 ^ n) := by
    rw [Nat.pow_add, Nat.pow_add]; ac_rfl
  rw [this, Nat.mul_add_div (Nat.two_pow_pos lo), Nat.add_comm, Nat.add_mul_mod_self_right]

theorem Coded.bits_get (fs : Coded.Fields) (top lo n v : Nat) (hs : Coded.sorted top fs = true) (hm : Coded.small fs)
    (hg : Coded.get fs lo n = some v) : pack (Coded.strip fs) / 2 ^ lo % 2 ^ n = v := by
  induction fs generalizing top n v with
  | nil =>
    have : v = 0 := (Option.some.inj hg).symm
    simp [Coded.strip, pack, this]
  | cons e fs ih =>
    obtain ⟨u, l, m⟩ := e
    have hlt := Coded.pack_lt _ _ (show Coded.sorted (l + m) ((u, l, m) :: fs) = true by
      simp only [Coded.sorted, Bool.and_eq_true, Nat.ble_eq] at hs ⊢; exact ⟨Nat.le_refl _, hs.2⟩) hm
    simp only [Coded.sorted, Bool.and_eq_true, Nat.ble_eq] at hs
    have hr := Coded.pack_lt fs l hs.2 hm.2
    have hu : u < 2 ^ m := hm.1
    have e1 : pack (Coded.strip ((u, l, m) :: fs)) = u * 2 ^ l + pack (Coded.strip fs) := rfl
    simp only [Coded.get, Bool.cond_eq_ite] at hg
    split at hg
    · rename_i h
      have h := Nat.le_of_ble_eq_true h
      have := Option.some.inj hg
      rw [Nat.div_eq_of_lt (Nat.lt_of_lt_of_le hlt (Nat.pow_le_pow_right (by decide) h))]
      simpa using this
    · split at hg
      · rename_i h
        simp only [Bool.and_eq_true, Nat.beq_eq] at h
        have hv := Option.some.inj hg
        obtain ⟨rfl, rfl⟩ := h
        rw [e1, Nat.mul_comm u, Nat.mul_add_div (Nat.two_pow_pos lo), Nat.div_eq_of_lt hr, Nat.add_zero, Nat.mod_eq_of_lt hu, hv]
      · split at hg
        · rename_i h
          rw [e1, Coded.bits_skip _ _ _ _ _ (Nat.le_of_ble_eq_true h)]
          exact ih l _ _ hs.2 hm.2 hg
        · split at hg
          · rename_i h
            simp only [Bool.and_eq_true, Nat.ble_eq] at h
            obtain ⟨h1, h2⟩ := h
            cases hq : Coded.get fs lo (l - lo) with
            | none => rw [hq] at hg; simp at hg
            | some r =>
              rw [hq] at hg
              have hv : u * 2 ^ (l - lo) + r = v := Option.some.inj hg
              have hi := ih l _ _ hs.2 hm.2 hq
              obtain ⟨k, rfl⟩ := Nat.exists_eq_add_of_le h1
              have hk : lo + k - lo = k := by omega
              rw [hk] at hv hi
              have e2 : u * 2 ^ (lo + k) = 2 ^ lo * (u * 2 ^ k) := by rw [Nat.pow_add]; ac_rfl
              have hr' : pack (Coded.strip fs) / 2 ^ lo < 2 ^ k := by
                apply Nat.div_lt_of_lt_mul; rw [← Nat.pow_add]; exact hr
              rw [Nat.mod_eq_of_lt hr'] at hi
              rw [e1, e2, Nat.mul_add_div (Nat.two_pow_pos lo), hi, hv]
              apply Nat.mod_eq_of_lt
              have : (u + 1) * 2 ^ k ≤ 2 ^ (m + k) := by rw [Nat.pow_add]; exact Nat.mul_le_mul_right _ hu
              have h3 : 2 ^ (m + k) ≤ 2 ^ n := Nat.pow_le_pow_right (by decide) (by omega)
              rw [Nat.add_mul] at this
              omega
          · exact absurd hg (by simp)

/-- The bits of a word whose encoder packs these fields. -/
theorem Coded.read {w : SlotWord} (fs : Coded.Fields) (h : (some (pack (Coded.strip fs))).map (BitVec.ofNat 32) = some w)
    (hs : Coded.sorted 32 fs = true) (hm : Coded.small fs) (lo n v : Nat) (hg : Coded.get fs lo n = some v) : bits w lo n = v := by
  have hw : w.toNat = pack (Coded.strip fs) := by
    rw [← Option.some.inj h, BitVec.toNat_ofNat]
    exact Nat.mod_eq_of_lt (Coded.pack_lt fs 32 hs hm)
  unfold bits
  rw [hw]
  exact Coded.bits_get fs 32 lo n v hs hm hg
theorem Coded.fld_eq (w : SlotWord) (lo n : Nat) (d : Fin (2 ^ n)) (h : bits w lo n = d.val) : fld w lo n = d := Fin.ext h

theorem Coded.bfld_eq (w : SlotWord) (lo n : Nat) (d : BitVec n) (h : bits w lo n = d.toNat) : bfld w lo n = d := by
  simp [bfld, h]

theorem Coded.bit_eq (w : SlotWord) (lo : Nat) (b : Bool) (h : bits w lo 1 = b.toNat) : bit w lo = b := by
  cases b <;> simp [bit, h]

theorem Coded.ofCode_code (t : VFmt) : VFmt.ofCode t.code = t := by cases t <;> rfl

theorem Coded.fmt_eq (w : SlotWord) (lo n : Nat) (t : VFmt) (h : bits w lo n = t.code) : VFmt.ofCode (bits w lo n) = t := by
  rw [h, Coded.ofCode_code]

theorem Coded.code_lt (t : VFmt) : t.code < 8 := by cases t <;> decide

theorem Coded.toNat_lt (b : Bool) : b.toNat < 2 := by cases b <;> decide

/-- The gate's fields from the word of a gate kind. -/
theorem Coded.gate (w : SlotWord) (g : Gate) (k : Nat) (n : BitVec 12) (hk : k < 2 ^ 3)
    (h : (some (encodeGate g k n)).map (BitVec.ofNat 32) = some w) :
    bits w 12 3 = k ∧ gateFields w = g ∧ bfld w 0 12 = n := by
  have R := Coded.read [(g.ckpt.toNat, 31, 1), (g.scope.val, 28, 3), (g.solo.toNat, 27, 1), (g.wait.val, 25, 2),
    (g.bank.val, 23, 2), (g.mask.toNat, 15, 8), (k, 12, 3), (n.toNat, 0, 12)] h rfl
    ⟨Coded.toNat_lt _, g.scope.isLt, Coded.toNat_lt _, g.wait.isLt, g.bank.isLt, g.mask.isLt, hk, n.isLt, trivial⟩
  refine ⟨R _ _ _ rfl, ?_, Coded.bfld_eq w 0 12 n (R _ _ _ rfl)⟩
  unfold gateFields
  rw [Coded.bit_eq w 31 g.ckpt (R _ _ _ rfl), Coded.fld_eq w 28 3 g.scope (R _ _ _ rfl),
    Coded.bit_eq w 27 g.solo (R _ _ _ rfl), Coded.fld_eq w 25 2 g.wait (R _ _ _ rfl),
    Coded.fld_eq w 23 2 g.bank (R _ _ _ rfl), Coded.bfld_eq w 15 8 g.mask (R _ _ _ rfl)]

theorem Coded.gate_pause (w : SlotWord) (g : Gate) (n : BitVec 12) (h : encode (.pause g n) = some w) :
    decodeGate w = some (.pause g n) := by
  obtain ⟨h1, h2, h3⟩ := Coded.gate w g 1 n (by decide) h
  unfold decodeGate; rw [h1, h2, h3]; rfl

theorem Coded.gate_phase (w : SlotWord) (g : Gate) (n : BitVec 12) (h : encode (.phase g n) = some w) :
    decodeGate w = some (.phase g n) := by
  obtain ⟨h1, h2, h3⟩ := Coded.gate w g 3 n (by decide) h
  unfold decodeGate; rw [h1, h2, h3]; rfl

theorem Coded.gate_mark (w : SlotWord) (g : Gate) (n : BitVec 12) (h : encode (.mark g n) = some w) :
    decodeGate w = some (.mark g n) := by
  obtain ⟨h1, h2, h3⟩ := Coded.gate w g 4 n (by decide) h
  unfold decodeGate; rw [h1, h2, h3]; rfl

/-! ## Arms of the decoders -/

theorem Coded.arm_Copy_9 (w : SlotWord) (h : bits w 27 5 = 0x09) : decodeCopy w = decodeCstashGroup w := by
  unfold decodeCopy; rw [h]; rfl

theorem Coded.arm_Scalar_1 (w : SlotWord) (h : bits w 26 6 = 0x01) : decodeScalar w = decodeAluGroup w := by
  unfold decodeScalar; rw [h]; rfl

theorem Coded.arm_AluGroup_0 (w : SlotWord) (h : bits w 0 8 = 0x00) : decodeAluGroup w = some (.add (fld w 20 6) (fld w 14 6) (fld w 8 6)) := by
  unfold decodeAluGroup; rw [h]; rfl

theorem Coded.arm_AluGroup_1 (w : SlotWord) (h : bits w 0 8 = 0x01) : decodeAluGroup w = some (.sub (fld w 20 6) (fld w 14 6) (fld w 8 6)) := by
  unfold decodeAluGroup; rw [h]; rfl

theorem Coded.arm_AluGroup_2 (w : SlotWord) (h : bits w 0 8 = 0x02) : decodeAluGroup w = some (.and (fld w 20 6) (fld w 14 6) (fld w 8 6)) := by
  unfold decodeAluGroup; rw [h]; rfl

theorem Coded.arm_AluGroup_3 (w : SlotWord) (h : bits w 0 8 = 0x03) : decodeAluGroup w = some (.or (fld w 20 6) (fld w 14 6) (fld w 8 6)) := by
  unfold decodeAluGroup; rw [h]; rfl

theorem Coded.arm_AluGroup_4 (w : SlotWord) (h : bits w 0 8 = 0x04) : decodeAluGroup w = some (.xor (fld w 20 6) (fld w 14 6) (fld w 8 6)) := by
  unfold decodeAluGroup; rw [h]; rfl

theorem Coded.arm_AluGroup_5 (w : SlotWord) (h : bits w 0 8 = 0x05) : decodeAluGroup w = some (.andn (fld w 20 6) (fld w 14 6) (fld w 8 6)) := by
  unfold decodeAluGroup; rw [h]; rfl

theorem Coded.arm_AluGroup_6 (w : SlotWord) (h : bits w 0 8 = 0x06) : decodeAluGroup w = some (.shl (fld w 20 6) (fld w 14 6) (fld w 8 6)) := by
  unfold decodeAluGroup; rw [h]; rfl

theorem Coded.arm_AluGroup_7 (w : SlotWord) (h : bits w 0 8 = 0x07) : decodeAluGroup w = some (.shr (fld w 20 6) (fld w 14 6) (fld w 8 6)) := by
  unfold decodeAluGroup; rw [h]; rfl

theorem Coded.arm_AluGroup_8 (w : SlotWord) (h : bits w 0 8 = 0x08) : decodeAluGroup w = some (.sar (fld w 20 6) (fld w 14 6) (fld w 8 6)) := by
  unfold decodeAluGroup; rw [h]; rfl

theorem Coded.arm_AluGroup_9 (w : SlotWord) (h : bits w 0 8 = 0x09) : decodeAluGroup w = some (.rol (fld w 20 6) (fld w 14 6) (fld w 8 6)) := by
  unfold decodeAluGroup; rw [h]; rfl

theorem Coded.arm_AluGroup_10 (w : SlotWord) (h : bits w 0 8 = 0x0A) : decodeAluGroup w = some (.min (fld w 20 6) (fld w 14 6) (fld w 8 6)) := by
  unfold decodeAluGroup; rw [h]; rfl

theorem Coded.arm_AluGroup_11 (w : SlotWord) (h : bits w 0 8 = 0x0B) : decodeAluGroup w = some (.max (fld w 20 6) (fld w 14 6) (fld w 8 6)) := by
  unfold decodeAluGroup; rw [h]; rfl

theorem Coded.arm_AluGroup_12 (w : SlotWord) (h : bits w 0 8 = 0x0C) : decodeAluGroup w = some (.minn (fld w 20 6) (fld w 14 6) (fld w 8 6)) := by
  unfold decodeAluGroup; rw [h]; rfl

theorem Coded.arm_AluGroup_13 (w : SlotWord) (h : bits w 0 8 = 0x0D) : decodeAluGroup w = some (.maxn (fld w 20 6) (fld w 14 6) (fld w 8 6)) := by
  unfold decodeAluGroup; rw [h]; rfl

theorem Coded.arm_AluGroup_16 (w : SlotWord) (h : bits w 0 8 = 0x10) : decodeAluGroup w = some (.cmpEq (fld w 20 6) (fld w 14 6) (fld w 8 6)) := by
  unfold decodeAluGroup; rw [h]; rfl

theorem Coded.arm_AluGroup_17 (w : SlotWord) (h : bits w 0 8 = 0x11) : decodeAluGroup w = some (.cmpNe (fld w 20 6) (fld w 14 6) (fld w 8 6)) := by
  unfold decodeAluGroup; rw [h]; rfl

theorem Coded.arm_AluGroup_18 (w : SlotWord) (h : bits w 0 8 = 0x12) : decodeAluGroup w = some (.cmpLt (fld w 20 6) (fld w 14 6) (fld w 8 6)) := by
  unfold decodeAluGroup; rw [h]; rfl

theorem Coded.arm_AluGroup_19 (w : SlotWord) (h : bits w 0 8 = 0x13) : decodeAluGroup w = some (.cmpLe (fld w 20 6) (fld w 14 6) (fld w 8 6)) := by
  unfold decodeAluGroup; rw [h]; rfl

theorem Coded.arm_AluGroup_20 (w : SlotWord) (h : bits w 0 8 = 0x14) : decodeAluGroup w = some (.cmpLtn (fld w 20 6) (fld w 14 6) (fld w 8 6)) := by
  unfold decodeAluGroup; rw [h]; rfl

theorem Coded.arm_AluGroup_21 (w : SlotWord) (h : bits w 0 8 = 0x15) : decodeAluGroup w = some (.cmpLen (fld w 20 6) (fld w 14 6) (fld w 8 6)) := by
  unfold decodeAluGroup; rw [h]; rfl

theorem Coded.arm_AluGroup_24 (w : SlotWord) (h : bits w 0 8 = 0x18) : decodeAluGroup w = if bits w 8 6 = 0 then some (.clz (fld w 20 6) (fld w 14 6)) else none := by
  unfold decodeAluGroup; rw [h]; rfl

theorem Coded.arm_AluGroup_25 (w : SlotWord) (h : bits w 0 8 = 0x19) : decodeAluGroup w = if bits w 8 6 = 0 then some (.ctz (fld w 20 6) (fld w 14 6)) else none := by
  unfold decodeAluGroup; rw [h]; rfl

theorem Coded.arm_AluGroup_26 (w : SlotWord) (h : bits w 0 8 = 0x1A) : decodeAluGroup w = if bits w 8 6 = 0 then some (.ffs (fld w 20 6) (fld w 14 6)) else none := by
  unfold decodeAluGroup; rw [h]; rfl

theorem Coded.arm_AluGroup_27 (w : SlotWord) (h : bits w 0 8 = 0x1B) : decodeAluGroup w = if bits w 8 6 = 0 then some (.popc (fld w 20 6) (fld w 14 6)) else none := by
  unfold decodeAluGroup; rw [h]; rfl

theorem Coded.arm_AluGroup_28 (w : SlotWord) (h : bits w 0 8 = 0x1C) : decodeAluGroup w = if bits w 8 6 = 0 then some (.brev (fld w 20 6) (fld w 14 6)) else none := by
  unfold decodeAluGroup; rw [h]; rfl

theorem Coded.arm_Scalar_2 (w : SlotWord) (h : bits w 26 6 = 0x02) : decodeScalar w = decodeMulGroup w := by
  unfold decodeScalar; rw [h]; rfl

theorem Coded.arm_MulGroup_0 (w : SlotWord) (h : bits w 0 8 = 0x00) : decodeMulGroup w = some (.mul (fld w 20 6) (fld w 14 6) (fld w 8 6)) := by
  unfold decodeMulGroup; rw [h]; rfl

theorem Coded.arm_MulGroup_1 (w : SlotWord) (h : bits w 0 8 = 0x01) : decodeMulGroup w = some (.mulh (fld w 20 6) (fld w 14 6) (fld w 8 6)) := by
  unfold decodeMulGroup; rw [h]; rfl

theorem Coded.arm_MulGroup_2 (w : SlotWord) (h : bits w 0 8 = 0x02) : decodeMulGroup w = some (.mulhn (fld w 20 6) (fld w 14 6) (fld w 8 6)) := by
  unfold decodeMulGroup; rw [h]; rfl

theorem Coded.arm_MulGroup_3 (w : SlotWord) (h : bits w 0 8 = 0x03) : decodeMulGroup w = some (.div (fld w 20 6) (fld w 14 6) (fld w 8 6)) := by
  unfold decodeMulGroup; rw [h]; rfl

theorem Coded.arm_MulGroup_4 (w : SlotWord) (h : bits w 0 8 = 0x04) : decodeMulGroup w = some (.divn (fld w 20 6) (fld w 14 6) (fld w 8 6)) := by
  unfold decodeMulGroup; rw [h]; rfl

theorem Coded.arm_MulGroup_5 (w : SlotWord) (h : bits w 0 8 = 0x05) : decodeMulGroup w = some (.rem (fld w 20 6) (fld w 14 6) (fld w 8 6)) := by
  unfold decodeMulGroup; rw [h]; rfl

theorem Coded.arm_MulGroup_6 (w : SlotWord) (h : bits w 0 8 = 0x06) : decodeMulGroup w = some (.remn (fld w 20 6) (fld w 14 6) (fld w 8 6)) := by
  unfold decodeMulGroup; rw [h]; rfl

theorem Coded.arm_Scalar_3 (w : SlotWord) (h : bits w 26 6 = 0x03) : decodeScalar w = some (.addi (fld w 20 6) (fld w 14 6) (bfld w 0 14)) := by
  unfold decodeScalar; rw [h]; rfl

theorem Coded.arm_Scalar_4 (w : SlotWord) (h : bits w 26 6 = 0x04) : decodeScalar w = some (.andi (fld w 20 6) (fld w 14 6) (bfld w 0 14)) := by
  unfold decodeScalar; rw [h]; rfl

theorem Coded.arm_Scalar_5 (w : SlotWord) (h : bits w 26 6 = 0x05) : decodeScalar w = some (.ori (fld w 20 6) (fld w 14 6) (bfld w 0 14)) := by
  unfold decodeScalar; rw [h]; rfl

theorem Coded.arm_Scalar_6 (w : SlotWord) (h : bits w 26 6 = 0x06) : decodeScalar w = some (.xori (fld w 20 6) (fld w 14 6) (bfld w 0 14)) := by
  unfold decodeScalar; rw [h]; rfl

theorem Coded.arm_Scalar_7 (w : SlotWord) (h : bits w 26 6 = 0x07) : decodeScalar w = decodeShiftImm w := by
  unfold decodeScalar; rw [h]; rfl

theorem Coded.arm_ShiftImm_0 (w : SlotWord) (h : bits w 6 8 = 0x00) : decodeShiftImm w = some (.shli (fld w 20 6) (fld w 14 6) (bfld w 0 6)) := by
  unfold decodeShiftImm; rw [h]; rfl

theorem Coded.arm_ShiftImm_64 (w : SlotWord) (h : bits w 6 8 = 0x40) : decodeShiftImm w = some (.shri (fld w 20 6) (fld w 14 6) (bfld w 0 6)) := by
  unfold decodeShiftImm; rw [h]; rfl

theorem Coded.arm_ShiftImm_128 (w : SlotWord) (h : bits w 6 8 = 0x80) : decodeShiftImm w = some (.sari (fld w 20 6) (fld w 14 6) (bfld w 0 6)) := by
  unfold decodeShiftImm; rw [h]; rfl

theorem Coded.arm_ShiftImm_192 (w : SlotWord) (h : bits w 6 8 = 0xC0) : decodeShiftImm w = some (.roli (fld w 20 6) (fld w 14 6) (bfld w 0 6)) := by
  unfold decodeShiftImm; rw [h]; rfl

theorem Coded.arm_Scalar_8 (w : SlotWord) (h : bits w 26 6 = 0x08) : decodeScalar w = decodeCmpImm w := by
  unfold decodeScalar; rw [h]; rfl

theorem Coded.arm_CmpImm_0 (w : SlotWord) (h : bits w 11 3 = 0x00) : decodeCmpImm w = some (.cmpiEq (fld w 20 6) (fld w 14 6) (bfld w 0 11)) := by
  unfold decodeCmpImm; rw [h]; rfl

theorem Coded.arm_CmpImm_1 (w : SlotWord) (h : bits w 11 3 = 0x01) : decodeCmpImm w = some (.cmpiNe (fld w 20 6) (fld w 14 6) (bfld w 0 11)) := by
  unfold decodeCmpImm; rw [h]; rfl

theorem Coded.arm_CmpImm_2 (w : SlotWord) (h : bits w 11 3 = 0x02) : decodeCmpImm w = some (.cmpiLt (fld w 20 6) (fld w 14 6) (bfld w 0 11)) := by
  unfold decodeCmpImm; rw [h]; rfl

theorem Coded.arm_CmpImm_3 (w : SlotWord) (h : bits w 11 3 = 0x03) : decodeCmpImm w = some (.cmpiLe (fld w 20 6) (fld w 14 6) (bfld w 0 11)) := by
  unfold decodeCmpImm; rw [h]; rfl

theorem Coded.arm_CmpImm_4 (w : SlotWord) (h : bits w 11 3 = 0x04) : decodeCmpImm w = some (.cmpiLtn (fld w 20 6) (fld w 14 6) (bfld w 0 11)) := by
  unfold decodeCmpImm; rw [h]; rfl

theorem Coded.arm_CmpImm_5 (w : SlotWord) (h : bits w 11 3 = 0x05) : decodeCmpImm w = some (.cmpiLen (fld w 20 6) (fld w 14 6) (bfld w 0 11)) := by
  unfold decodeCmpImm; rw [h]; rfl

theorem Coded.arm_Scalar_9 (w : SlotWord) (h : bits w 26 6 = 0x09) : decodeScalar w = decodeBfxGroup w := by
  unfold decodeScalar; rw [h]; rfl

theorem Coded.arm_BfxGroup_0 (w : SlotWord) (h : bits w 12 2 = 0x00) : decodeBfxGroup w = some (.bfxN (fld w 20 6) (fld w 14 6) (bfld w 6 6) (bfld w 0 6)) := by
  unfold decodeBfxGroup; rw [h]; rfl

theorem Coded.arm_BfxGroup_1 (w : SlotWord) (h : bits w 12 2 = 0x01) : decodeBfxGroup w = some (.bfxI (fld w 20 6) (fld w 14 6) (bfld w 6 6) (bfld w 0 6)) := by
  unfold decodeBfxGroup; rw [h]; rfl

theorem Coded.arm_Scalar_10 (w : SlotWord) (h : bits w 26 6 = 0x0A) : decodeScalar w = if bits w 12 2 = 0 then some (.bfi (fld w 20 6) (fld w 14 6) (bfld w 6 6) (bfld w 0 6)) else none := by
  unfold decodeScalar; rw [h]; rfl

theorem Coded.arm_Scalar_11 (w : SlotWord) (h : bits w 26 6 = 0x0B) : decodeScalar w = decodeFunnelImm w := by
  unfold decodeScalar; rw [h]; rfl

theorem Coded.arm_FunnelImm_0 (w : SlotWord) (h : bits w 6 2 = 0x00) : decodeFunnelImm w = some (.fshl (fld w 20 6) (fld w 14 6) (fld w 8 6) (bfld w 0 6)) := by
  unfold decodeFunnelImm; rw [h]; rfl

theorem Coded.arm_FunnelImm_1 (w : SlotWord) (h : bits w 6 2 = 0x01) : decodeFunnelImm w = some (.fshr (fld w 20 6) (fld w 14 6) (fld w 8 6) (bfld w 0 6)) := by
  unfold decodeFunnelImm; rw [h]; rfl

theorem Coded.arm_Scalar_12 (w : SlotWord) (h : bits w 26 6 = 0x0C) : decodeScalar w = decodeFunnelReg w := by
  unfold decodeScalar; rw [h]; rfl

theorem Coded.arm_FunnelReg_0 (w : SlotWord) (h : bits w 6 2 = 0x00) : decodeFunnelReg w = some (.fshlv (fld w 20 6) (fld w 14 6) (fld w 8 6) (fld w 0 6)) := by
  unfold decodeFunnelReg; rw [h]; rfl

theorem Coded.arm_FunnelReg_1 (w : SlotWord) (h : bits w 6 2 = 0x01) : decodeFunnelReg w = some (.fshrv (fld w 20 6) (fld w 14 6) (fld w 8 6) (fld w 0 6)) := by
  unfold decodeFunnelReg; rw [h]; rfl

theorem Coded.arm_Scalar_13 (w : SlotWord) (h : bits w 26 6 = 0x0D) : decodeScalar w = if bits w 6 2 = 0 then some (.sel (fld w 20 6) (fld w 14 6) (fld w 8 6) (fld w 0 6)) else none := by
  unfold decodeScalar; rw [h]; rfl

theorem Coded.arm_Scalar_16 (w : SlotWord) (h : bits w 26 6 = 0x10) : decodeScalar w = some (.li (fld w 20 6) (bfld w 0 20)) := by
  unfold decodeScalar; rw [h]; rfl

theorem Coded.arm_Scalar_17 (w : SlotWord) (h : bits w 26 6 = 0x11) : decodeScalar w = some (.liu (fld w 20 6) (bfld w 0 20)) := by
  unfold decodeScalar; rw [h]; rfl

theorem Coded.arm_Scalar_18 (w : SlotWord) (h : bits w 26 6 = 0x12) : decodeScalar w = if bits w 14 6 = 0 then some (.mfs (fld w 20 6) (bfld w 0 14)) else none := by
  unfold decodeScalar; rw [h]; rfl

theorem Coded.arm_Scalar_19 (w : SlotWord) (h : bits w 26 6 = 0x13) : decodeScalar w = if bits w 20 6 = 0 then some (.mts (fld w 14 6) (bfld w 0 14)) else none := by
  unfold decodeScalar; rw [h]; rfl

theorem Coded.arm_Scalar_20 (w : SlotWord) (h : bits w 26 6 = 0x14) : decodeScalar w = if bits w 0 20 = 0 then some (.clk (fld w 20 6)) else none := by
  unfold decodeScalar; rw [h]; rfl

theorem Coded.arm_Scalar_21 (w : SlotWord) (h : bits w 26 6 = 0x15) : decodeScalar w = decodeCoreidGroup w := by
  unfold decodeScalar; rw [h]; rfl

theorem Coded.arm_CoreidGroup_0 (w : SlotWord) (h : bits w 0 20 = 0x00) : decodeCoreidGroup w = some (.coreidLog (fld w 20 6)) := by
  unfold decodeCoreidGroup; rw [h]; rfl

theorem Coded.arm_CoreidGroup_1 (w : SlotWord) (h : bits w 0 20 = 0x01) : decodeCoreidGroup w = some (.coreidPhys (fld w 20 6)) := by
  unfold decodeCoreidGroup; rw [h]; rfl

theorem Coded.arm_Scalar_24 (w : SlotWord) (h : bits w 26 6 = 0x18) : decodeScalar w = decodeBranchGroup w := by
  unfold decodeScalar; rw [h]; rfl

theorem Coded.arm_BranchGroup_0 (w : SlotWord) (h : bits w 22 4 = 0x00) : decodeBranchGroup w = some (.brZ (fld w 16 6) (bfld w 0 16)) := by
  unfold decodeBranchGroup; rw [h]; rfl

theorem Coded.arm_BranchGroup_1 (w : SlotWord) (h : bits w 22 4 = 0x01) : decodeBranchGroup w = some (.brNz (fld w 16 6) (bfld w 0 16)) := by
  unfold decodeBranchGroup; rw [h]; rfl

theorem Coded.arm_BranchGroup_2 (w : SlotWord) (h : bits w 22 4 = 0x02) : decodeBranchGroup w = some (.brNeg (fld w 16 6) (bfld w 0 16)) := by
  unfold decodeBranchGroup; rw [h]; rfl

theorem Coded.arm_BranchGroup_3 (w : SlotWord) (h : bits w 22 4 = 0x03) : decodeBranchGroup w = some (.brNneg (fld w 16 6) (bfld w 0 16)) := by
  unfold decodeBranchGroup; rw [h]; rfl

theorem Coded.arm_BranchGroup_4 (w : SlotWord) (h : bits w 22 4 = 0x04) : decodeBranchGroup w = some (.brPos (fld w 16 6) (bfld w 0 16)) := by
  unfold decodeBranchGroup; rw [h]; rfl

theorem Coded.arm_BranchGroup_5 (w : SlotWord) (h : bits w 22 4 = 0x05) : decodeBranchGroup w = some (.brNpos (fld w 16 6) (bfld w 0 16)) := by
  unfold decodeBranchGroup; rw [h]; rfl

theorem Coded.arm_BranchGroup_6 (w : SlotWord) (h : bits w 22 4 = 0x06) : decodeBranchGroup w = if bits w 16 6 = 0 then some (.br (bfld w 0 16)) else none := by
  unfold decodeBranchGroup; rw [h]; rfl

theorem Coded.arm_Scalar_25 (w : SlotWord) (h : bits w 26 6 = 0x19) : decodeScalar w = if bits w 20 6 = 0 ∧ bits w 0 14 = 0 then some (.jmp (fld w 14 6)) else none := by
  unfold decodeScalar; rw [h]; rfl

theorem Coded.arm_Scalar_26 (w : SlotWord) (h : bits w 26 6 = 0x1A) : decodeScalar w = if bits w 20 6 = 0 then some (.call (bfld w 0 20)) else none := by
  unfold decodeScalar; rw [h]; rfl

theorem Coded.arm_Scalar_27 (w : SlotWord) (h : bits w 26 6 = 0x1B) : decodeScalar w = if bits w 20 6 = 0 ∧ bits w 0 14 = 0 then some (.callr (fld w 14 6)) else none := by
  unfold decodeScalar; rw [h]; rfl

theorem Coded.arm_Scalar_28 (w : SlotWord) (h : bits w 26 6 = 0x1C) : decodeScalar w = if bits w 22 4 = 0 then some (.chk (fld w 16 6) (bfld w 0 16)) else none := by
  unfold decodeScalar; rw [h]; rfl

theorem Coded.arm_Scalar_32 (w : SlotWord) (h : bits w 26 6 = 0x20) : decodeScalar w = some (.ldI8 (fld w 20 6) (fld w 14 6) (fld w 10 4) (bfld w 0 10)) := by
  unfold decodeScalar; rw [h]; rfl

theorem Coded.arm_Scalar_33 (w : SlotWord) (h : bits w 26 6 = 0x21) : decodeScalar w = some (.ldN8 (fld w 20 6) (fld w 14 6) (fld w 10 4) (bfld w 0 10)) := by
  unfold decodeScalar; rw [h]; rfl

theorem Coded.arm_Scalar_34 (w : SlotWord) (h : bits w 26 6 = 0x22) : decodeScalar w = some (.ldI16 (fld w 20 6) (fld w 14 6) (fld w 10 4) (bfld w 0 10)) := by
  unfold decodeScalar; rw [h]; rfl

theorem Coded.arm_Scalar_35 (w : SlotWord) (h : bits w 26 6 = 0x23) : decodeScalar w = some (.ldN16 (fld w 20 6) (fld w 14 6) (fld w 10 4) (bfld w 0 10)) := by
  unfold decodeScalar; rw [h]; rfl

theorem Coded.arm_Scalar_36 (w : SlotWord) (h : bits w 26 6 = 0x24) : decodeScalar w = some (.ldI32 (fld w 20 6) (fld w 14 6) (fld w 10 4) (bfld w 0 10)) := by
  unfold decodeScalar; rw [h]; rfl

theorem Coded.arm_Scalar_37 (w : SlotWord) (h : bits w 26 6 = 0x25) : decodeScalar w = some (.ldN32 (fld w 20 6) (fld w 14 6) (fld w 10 4) (bfld w 0 10)) := by
  unfold decodeScalar; rw [h]; rfl

theorem Coded.arm_Scalar_38 (w : SlotWord) (h : bits w 26 6 = 0x26) : decodeScalar w = some (.ldI64 (fld w 20 6) (fld w 14 6) (fld w 10 4) (bfld w 0 10)) := by
  unfold decodeScalar; rw [h]; rfl

theorem Coded.arm_Scalar_39 (w : SlotWord) (h : bits w 26 6 = 0x27) : decodeScalar w = some (.ldSN32 (fld w 20 6) (fld w 14 6) (fld w 10 4) (bfld w 0 10)) := by
  unfold decodeScalar; rw [h]; rfl

theorem Coded.arm_Scalar_40 (w : SlotWord) (h : bits w 26 6 = 0x28) : decodeScalar w = some (.ldSI64 (fld w 20 6) (fld w 14 6) (fld w 10 4) (bfld w 0 10)) := by
  unfold decodeScalar; rw [h]; rfl

theorem Coded.arm_Scalar_41 (w : SlotWord) (h : bits w 26 6 = 0x29) : decodeScalar w = some (.st8 (fld w 20 6) (fld w 14 6) (fld w 10 4) (bfld w 0 10)) := by
  unfold decodeScalar; rw [h]; rfl

theorem Coded.arm_Scalar_42 (w : SlotWord) (h : bits w 26 6 = 0x2A) : decodeScalar w = some (.st16 (fld w 20 6) (fld w 14 6) (fld w 10 4) (bfld w 0 10)) := by
  unfold decodeScalar; rw [h]; rfl

theorem Coded.arm_Scalar_43 (w : SlotWord) (h : bits w 26 6 = 0x2B) : decodeScalar w = some (.st32 (fld w 20 6) (fld w 14 6) (fld w 10 4) (bfld w 0 10)) := by
  unfold decodeScalar; rw [h]; rfl

theorem Coded.arm_Scalar_44 (w : SlotWord) (h : bits w 26 6 = 0x2C) : decodeScalar w = some (.st64 (fld w 20 6) (fld w 14 6) (fld w 10 4) (bfld w 0 10)) := by
  unfold decodeScalar; rw [h]; rfl

theorem Coded.arm_Scalar_45 (w : SlotWord) (h : bits w 26 6 = 0x2D) : decodeScalar w = if bits w 25 1 = 0 ∧ bits w 6 2 = 0 then some (.ldBlk (fld w 20 5) (fld w 14 6) (fld w 8 6) (bfld w 4 2) (fld w 0 4)) else none := by
  unfold decodeScalar; rw [h]; rfl

theorem Coded.arm_Scalar_46 (w : SlotWord) (h : bits w 26 6 = 0x2E) : decodeScalar w = some (.amo32 (fld w 20 6) (fld w 14 6) (fld w 8 6) (bfld w 4 4) (fld w 0 4)) := by
  unfold decodeScalar; rw [h]; rfl

theorem Coded.arm_Scalar_47 (w : SlotWord) (h : bits w 26 6 = 0x2F) : decodeScalar w = some (.amo64 (fld w 20 6) (fld w 14 6) (fld w 8 6) (bfld w 4 4) (fld w 0 4)) := by
  unfold decodeScalar; rw [h]; rfl

theorem Coded.arm_Scalar_48 (w : SlotWord) (h : bits w 26 6 = 0x30) : decodeScalar w = some (.rld (fld w 20 6) (fld w 14 6) (bfld w 0 14)) := by
  unfold decodeScalar; rw [h]; rfl

theorem Coded.arm_Scalar_49 (w : SlotWord) (h : bits w 26 6 = 0x31) : decodeScalar w = if bits w 16 10 = 0 then some (.fenceC (bfld w 0 16)) else none := by
  unfold decodeScalar; rw [h]; rfl

theorem Coded.arm_Scalar_50 (w : SlotWord) (h : bits w 26 6 = 0x32) : decodeScalar w = if bits w 6 20 = 0 then some (.fenceP (bfld w 3 3) (bfld w 0 3)) else none := by
  unfold decodeScalar; rw [h]; rfl

theorem Coded.arm_Scalar_51 (w : SlotWord) (h : bits w 26 6 = 0x33) : decodeScalar w = decodeFlagRing w := by
  unfold decodeScalar; rw [h]; rfl

theorem Coded.arm_FlagRing_0 (w : SlotWord) (h : bits w 0 8 = 0x00) : decodeFlagRing w = if bits w 20 6 = 0 ∧ bits w 8 6 = 0 then some (.sig (fld w 14 6)) else none := by
  unfold decodeFlagRing; rw [h]; rfl

theorem Coded.arm_FlagRing_1 (w : SlotWord) (h : bits w 0 8 = 0x01) : decodeFlagRing w = if bits w 20 6 = 0 ∧ bits w 8 6 = 0 then some (.clrf (fld w 14 6)) else if bits w 20 6 = 1 ∧ bits w 8 6 = 0 then some (.clrfErr (fld w 14 6)) else none := by
  unfold decodeFlagRing; rw [h]; rfl

theorem Coded.arm_FlagRing_2 (w : SlotWord) (h : bits w 0 8 = 0x02) : decodeFlagRing w = if bits w 24 2 = 0 ∧ bits w 14 6 = 0 then some (.advP (fld w 20 4) (fld w 8 6)) else none := by
  unfold decodeFlagRing; rw [h]; rfl

theorem Coded.arm_FlagRing_3 (w : SlotWord) (h : bits w 0 8 = 0x03) : decodeFlagRing w = if bits w 24 2 = 0 ∧ bits w 14 6 = 0 then some (.advC (fld w 20 4) (fld w 8 6)) else none := by
  unfold decodeFlagRing; rw [h]; rfl

theorem Coded.arm_FlagRing_4 (w : SlotWord) (h : bits w 0 8 = 0x04) : decodeFlagRing w = if bits w 25 1 = 0 ∧ bits w 18 2 = 0 then some (.rfill (fld w 20 5) (fld w 14 4) (fld w 8 6)) else none := by
  unfold decodeFlagRing; rw [h]; rfl

theorem Coded.arm_FlagRing_5 (w : SlotWord) (h : bits w 0 8 = 0x05) : decodeFlagRing w = if bits w 25 1 = 0 ∧ bits w 18 2 = 0 then some (.rfree (fld w 20 5) (fld w 14 4) (fld w 8 6)) else none := by
  unfold decodeFlagRing; rw [h]; rfl

theorem Coded.arm_Scalar_52 (w : SlotWord) (h : bits w 26 6 = 0x34) : decodeScalar w = if bits w 20 6 = 0 ∧ bits w 0 8 = 0 then some (.seqadd (fld w 14 6) (fld w 8 6)) else none := by
  unfold decodeScalar; rw [h]; rfl

theorem Coded.arm_Scalar_53 (w : SlotWord) (h : bits w 26 6 = 0x35) : decodeScalar w = decodeSeqwatchGroup w := by
  unfold decodeScalar; rw [h]; rfl

theorem Coded.arm_SeqwatchGroup_0 (w : SlotWord) (h : bits w 25 1 = 0x00) : decodeSeqwatchGroup w = if bits w 0 8 = 0 then some (.seqwatch (fld w 20 5) (fld w 14 6) (fld w 8 6)) else none := by
  unfold decodeSeqwatchGroup; rw [h]; rfl

theorem Coded.arm_SeqwatchGroup_1 (w : SlotWord) (h : bits w 25 1 = 0x01) : decodeSeqwatchGroup w = if bits w 0 8 = 0 then some (.seqwatchTag (fld w 20 5) (fld w 14 6) (fld w 8 6)) else none := by
  unfold decodeSeqwatchGroup; rw [h]; rfl

theorem Coded.arm_Scalar_54 (w : SlotWord) (h : bits w 26 6 = 0x36) : decodeScalar w = if bits w 0 14 = 0 then some (.seqrd (fld w 20 6) (fld w 14 6)) else none := by
  unfold decodeScalar; rw [h]; rfl

theorem Coded.arm_Scalar_55 (w : SlotWord) (h : bits w 26 6 = 0x37) : decodeScalar w = decodeLaunchGroup w := by
  unfold decodeScalar; rw [h]; rfl

theorem Coded.arm_LaunchGroup_0 (w : SlotWord) (h : bits w 0 8 = 0x00) : decodeLaunchGroup w = some (.launch (fld w 20 6) (fld w 14 6) (fld w 8 6)) := by
  unfold decodeLaunchGroup; rw [h]; rfl

theorem Coded.arm_LaunchGroup_1 (w : SlotWord) (h : bits w 0 8 = 0x01) : decodeLaunchGroup w = if bits w 14 6 = 0 then some (.launchQF (fld w 20 6) (fld w 8 6)) else none := by
  unfold decodeLaunchGroup; rw [h]; rfl

theorem Coded.arm_LaunchGroup_2 (w : SlotWord) (h : bits w 0 8 = 0x02) : decodeLaunchGroup w = if bits w 14 6 = 0 then some (.launchQB (fld w 20 6) (fld w 8 6)) else none := by
  unfold decodeLaunchGroup; rw [h]; rfl

theorem Coded.arm_LaunchGroup_3 (w : SlotWord) (h : bits w 0 8 = 0x03) : decodeLaunchGroup w = if bits w 14 6 = 0 then some (.launchQW (fld w 20 6) (fld w 8 6)) else none := by
  unfold decodeLaunchGroup; rw [h]; rfl

theorem Coded.arm_Scalar_57 (w : SlotWord) (h : bits w 26 6 = 0x39) : decodeScalar w = if bits w 0 14 = 0 then some (.carve (fld w 20 6) (fld w 14 6)) else none := by
  unfold decodeScalar; rw [h]; rfl

theorem Coded.arm_Scalar_58 (w : SlotWord) (h : bits w 26 6 = 0x3A) : decodeScalar w = if bits w 14 12 = 0 then some (.trap (bfld w 0 14)) else none := by
  unfold decodeScalar; rw [h]; rfl

theorem Coded.arm_Scalar_61 (w : SlotWord) (h : bits w 26 6 = 0x3D) : decodeScalar w = decodeSeqUnit w := by
  unfold decodeScalar; rw [h]; rfl

theorem Coded.arm_SeqUnit_0 (w : SlotWord) (h : bits w 0 8 = 0x00) : decodeSeqUnit w = if bits w 20 6 = 0 then some (.qseed (fld w 14 6) (fld w 8 6)) else none := by
  unfold decodeSeqUnit; rw [h]; rfl

theorem Coded.arm_SeqUnit_1 (w : SlotWord) (h : bits w 0 8 = 0x01) : decodeSeqUnit w = if bits w 24 2 = 0 then some (.qldt (fld w 20 4) (fld w 14 6) (fld w 8 6)) else none := by
  unfold decodeSeqUnit; rw [h]; rfl

theorem Coded.arm_SeqUnit_2 (w : SlotWord) (h : bits w 0 8 = 0x02) : decodeSeqUnit w = some (.qpt (fld w 20 6) (fld w 14 6) (fld w 8 6)) := by
  unfold decodeSeqUnit; rw [h]; rfl

theorem Coded.arm_SeqUnit_3 (w : SlotWord) (h : bits w 0 8 = 0x03) : decodeSeqUnit w = if bits w 24 2 = 0 then some (.qsave (fld w 20 4) (fld w 14 6) (fld w 8 6)) else none := by
  unfold decodeSeqUnit; rw [h]; rfl

theorem Coded.arm_Vector_1 (w : SlotWord) (h : bits w 27 5 = 0x01) : decodeVector w = decodeVaddGroup w := by
  unfold decodeVector; rw [h]; rfl

theorem Coded.arm_VaddGroup_0 (w : SlotWord) (h : bits w 0 3 = 0x00) : decodeVaddGroup w = some (.vadd (VFmt.ofCode (bits w 24 3)) (fld w 18 6) (fld w 12 6) (fld w 6 6) (fld w 4 2) (bit w 3)) := by
  unfold decodeVaddGroup; rw [h]; rfl

theorem Coded.arm_VaddGroup_1 (w : SlotWord) (h : bits w 0 3 = 0x01) : decodeVaddGroup w = some (.vaddSat (VFmt.ofCode (bits w 24 3)) (fld w 18 6) (fld w 12 6) (fld w 6 6) (fld w 4 2) (bit w 3)) := by
  unfold decodeVaddGroup; rw [h]; rfl

theorem Coded.arm_Vector_2 (w : SlotWord) (h : bits w 27 5 = 0x02) : decodeVector w = decodeVsubGroup w := by
  unfold decodeVector; rw [h]; rfl

theorem Coded.arm_VsubGroup_0 (w : SlotWord) (h : bits w 0 3 = 0x00) : decodeVsubGroup w = some (.vsub (VFmt.ofCode (bits w 24 3)) (fld w 18 6) (fld w 12 6) (fld w 6 6) (fld w 4 2) (bit w 3)) := by
  unfold decodeVsubGroup; rw [h]; rfl

theorem Coded.arm_VsubGroup_1 (w : SlotWord) (h : bits w 0 3 = 0x01) : decodeVsubGroup w = some (.vsubSat (VFmt.ofCode (bits w 24 3)) (fld w 18 6) (fld w 12 6) (fld w 6 6) (fld w 4 2) (bit w 3)) := by
  unfold decodeVsubGroup; rw [h]; rfl

theorem Coded.arm_Vector_3 (w : SlotWord) (h : bits w 27 5 = 0x03) : decodeVector w = decodeVmulGroup w := by
  unfold decodeVector; rw [h]; rfl

theorem Coded.arm_VmulGroup_0 (w : SlotWord) (h : bits w 0 3 = 0x00) : decodeVmulGroup w = some (.vmul (VFmt.ofCode (bits w 24 3)) (fld w 18 6) (fld w 12 6) (fld w 6 6) (fld w 4 2) (bit w 3)) := by
  unfold decodeVmulGroup; rw [h]; rfl

theorem Coded.arm_VmulGroup_1 (w : SlotWord) (h : bits w 0 3 = 0x01) : decodeVmulGroup w = some (.vmulHi (VFmt.ofCode (bits w 24 3)) (fld w 18 6) (fld w 12 6) (fld w 6 6) (fld w 4 2) (bit w 3)) := by
  unfold decodeVmulGroup; rw [h]; rfl

theorem Coded.arm_VmulGroup_2 (w : SlotWord) (h : bits w 0 3 = 0x02) : decodeVmulGroup w = some (.vmulWide (VFmt.ofCode (bits w 24 3)) (fld w 18 6) (fld w 12 6) (fld w 6 6) (fld w 4 2) (bit w 3)) := by
  unfold decodeVmulGroup; rw [h]; rfl

theorem Coded.arm_Vector_4 (w : SlotWord) (h : bits w 27 5 = 0x04) : decodeVector w = decodeVfmaGroup w := by
  unfold decodeVector; rw [h]; rfl

theorem Coded.arm_VfmaGroup_0 (w : SlotWord) (h : bits w 0 3 = 0x00) : decodeVfmaGroup w = some (.vfma (VFmt.ofCode (bits w 24 3)) (fld w 18 6) (fld w 12 6) (fld w 6 6) (fld w 4 2) (bit w 3)) := by
  unfold decodeVfmaGroup; rw [h]; rfl

theorem Coded.arm_VfmaGroup_1 (w : SlotWord) (h : bits w 0 3 = 0x01) : decodeVfmaGroup w = some (.vfmaFms (VFmt.ofCode (bits w 24 3)) (fld w 18 6) (fld w 12 6) (fld w 6 6) (fld w 4 2) (bit w 3)) := by
  unfold decodeVfmaGroup; rw [h]; rfl

theorem Coded.arm_VfmaGroup_2 (w : SlotWord) (h : bits w 0 3 = 0x02) : decodeVfmaGroup w = some (.vfmaFnma (VFmt.ofCode (bits w 24 3)) (fld w 18 6) (fld w 12 6) (fld w 6 6) (fld w 4 2) (bit w 3)) := by
  unfold decodeVfmaGroup; rw [h]; rfl

theorem Coded.arm_Vector_5 (w : SlotWord) (h : bits w 27 5 = 0x05) : decodeVector w = if bits w 0 3 = 0 then some (.vmin (VFmt.ofCode (bits w 24 3)) (fld w 18 6) (fld w 12 6) (fld w 6 6) (fld w 4 2) (bit w 3)) else none := by
  unfold decodeVector; rw [h]; rfl

theorem Coded.arm_Vector_6 (w : SlotWord) (h : bits w 27 5 = 0x06) : decodeVector w = if bits w 0 3 = 0 then some (.vmax (VFmt.ofCode (bits w 24 3)) (fld w 18 6) (fld w 12 6) (fld w 6 6) (fld w 4 2) (bit w 3)) else none := by
  unfold decodeVector; rw [h]; rfl

theorem Coded.arm_Vector_7 (w : SlotWord) (h : bits w 27 5 = 0x07) : decodeVector w = decodeVabsGroup w := by
  unfold decodeVector; rw [h]; rfl

theorem Coded.arm_VabsGroup_0 (w : SlotWord) (h : bits w 0 4 = 0x00) : decodeVabsGroup w = if bits w 6 6 = 0 then some (.vabs (VFmt.ofCode (bits w 24 3)) (fld w 18 6) (fld w 12 6) (fld w 4 2)) else none := by
  unfold decodeVabsGroup; rw [h]; rfl

theorem Coded.arm_VabsGroup_1 (w : SlotWord) (h : bits w 0 4 = 0x01) : decodeVabsGroup w = if bits w 6 6 = 0 then some (.vneg (VFmt.ofCode (bits w 24 3)) (fld w 18 6) (fld w 12 6) (fld w 4 2)) else none := by
  unfold decodeVabsGroup; rw [h]; rfl

theorem Coded.arm_Vector_8 (w : SlotWord) (h : bits w 27 5 = 0x08) : decodeVector w = decodeVlogGroup w := by
  unfold decodeVector; rw [h]; rfl

theorem Coded.arm_VlogGroup_0 (w : SlotWord) (h : bits w 0 3 = 0x00) : decodeVlogGroup w = some (.vlogAnd (VFmt.ofCode (bits w 24 3)) (fld w 18 6) (fld w 12 6) (fld w 6 6) (fld w 4 2) (bit w 3)) := by
  unfold decodeVlogGroup; rw [h]; rfl

theorem Coded.arm_VlogGroup_1 (w : SlotWord) (h : bits w 0 3 = 0x01) : decodeVlogGroup w = some (.vlogOr (VFmt.ofCode (bits w 24 3)) (fld w 18 6) (fld w 12 6) (fld w 6 6) (fld w 4 2) (bit w 3)) := by
  unfold decodeVlogGroup; rw [h]; rfl

theorem Coded.arm_VlogGroup_2 (w : SlotWord) (h : bits w 0 3 = 0x02) : decodeVlogGroup w = some (.vlogXor (VFmt.ofCode (bits w 24 3)) (fld w 18 6) (fld w 12 6) (fld w 6 6) (fld w 4 2) (bit w 3)) := by
  unfold decodeVlogGroup; rw [h]; rfl

theorem Coded.arm_VlogGroup_3 (w : SlotWord) (h : bits w 0 3 = 0x03) : decodeVlogGroup w = some (.vlogAndn (VFmt.ofCode (bits w 24 3)) (fld w 18 6) (fld w 12 6) (fld w 6 6) (fld w 4 2) (bit w 3)) := by
  unfold decodeVlogGroup; rw [h]; rfl

theorem Coded.arm_VlogGroup_4 (w : SlotWord) (h : bits w 0 3 = 0x04) : decodeVlogGroup w = if bits w 6 6 = 0 ∧ bits w 3 1 = 0 then some (.vlogNot (VFmt.ofCode (bits w 24 3)) (fld w 18 6) (fld w 12 6) (fld w 4 2)) else none := by
  unfold decodeVlogGroup; rw [h]; rfl

theorem Coded.arm_Vector_9 (w : SlotWord) (h : bits w 27 5 = 0x09) : decodeVector w = decodeVshGroup w := by
  unfold decodeVector; rw [h]; rfl

theorem Coded.arm_VshGroup_0 (w : SlotWord) (h : bits w 0 3 = 0x00) : decodeVshGroup w = some (.vshShl (VFmt.ofCode (bits w 24 3)) (fld w 18 6) (fld w 12 6) (fld w 6 6) (fld w 4 2) (bit w 3)) := by
  unfold decodeVshGroup; rw [h]; rfl

theorem Coded.arm_VshGroup_1 (w : SlotWord) (h : bits w 0 3 = 0x01) : decodeVshGroup w = some (.vshShr (VFmt.ofCode (bits w 24 3)) (fld w 18 6) (fld w 12 6) (fld w 6 6) (fld w 4 2) (bit w 3)) := by
  unfold decodeVshGroup; rw [h]; rfl

theorem Coded.arm_VshGroup_2 (w : SlotWord) (h : bits w 0 3 = 0x02) : decodeVshGroup w = some (.vshSar (VFmt.ofCode (bits w 24 3)) (fld w 18 6) (fld w 12 6) (fld w 6 6) (fld w 4 2) (bit w 3)) := by
  unfold decodeVshGroup; rw [h]; rfl

theorem Coded.arm_Vector_10 (w : SlotWord) (h : bits w 27 5 = 0x0A) : decodeVector w = decodeVcmpGroup w := by
  unfold decodeVector; rw [h]; rfl

theorem Coded.arm_VcmpGroup_0 (w : SlotWord) (h : bits w 0 3 = 0x00) : decodeVcmpGroup w = if bits w 22 2 = 0 then some (.vcmpEq (VFmt.ofCode (bits w 24 3)) (fld w 18 4) (fld w 12 6) (fld w 6 6) (fld w 4 2) (bit w 3)) else none := by
  unfold decodeVcmpGroup; rw [h]; rfl

theorem Coded.arm_VcmpGroup_1 (w : SlotWord) (h : bits w 0 3 = 0x01) : decodeVcmpGroup w = if bits w 22 2 = 0 then some (.vcmpNe (VFmt.ofCode (bits w 24 3)) (fld w 18 4) (fld w 12 6) (fld w 6 6) (fld w 4 2) (bit w 3)) else none := by
  unfold decodeVcmpGroup; rw [h]; rfl

theorem Coded.arm_VcmpGroup_2 (w : SlotWord) (h : bits w 0 3 = 0x02) : decodeVcmpGroup w = if bits w 22 2 = 0 then some (.vcmpLt (VFmt.ofCode (bits w 24 3)) (fld w 18 4) (fld w 12 6) (fld w 6 6) (fld w 4 2) (bit w 3)) else none := by
  unfold decodeVcmpGroup; rw [h]; rfl

theorem Coded.arm_VcmpGroup_3 (w : SlotWord) (h : bits w 0 3 = 0x03) : decodeVcmpGroup w = if bits w 22 2 = 0 then some (.vcmpLe (VFmt.ofCode (bits w 24 3)) (fld w 18 4) (fld w 12 6) (fld w 6 6) (fld w 4 2) (bit w 3)) else none := by
  unfold decodeVcmpGroup; rw [h]; rfl

theorem Coded.arm_VcmpGroup_4 (w : SlotWord) (h : bits w 0 3 = 0x04) : decodeVcmpGroup w = if bits w 22 2 = 0 then some (.vcmpGt (VFmt.ofCode (bits w 24 3)) (fld w 18 4) (fld w 12 6) (fld w 6 6) (fld w 4 2) (bit w 3)) else none := by
  unfold decodeVcmpGroup; rw [h]; rfl

theorem Coded.arm_VcmpGroup_5 (w : SlotWord) (h : bits w 0 3 = 0x05) : decodeVcmpGroup w = if bits w 22 2 = 0 then some (.vcmpGe (VFmt.ofCode (bits w 24 3)) (fld w 18 4) (fld w 12 6) (fld w 6 6) (fld w 4 2) (bit w 3)) else none := by
  unfold decodeVcmpGroup; rw [h]; rfl

theorem Coded.arm_VcmpGroup_6 (w : SlotWord) (h : bits w 0 3 = 0x06) : decodeVcmpGroup w = if bits w 22 2 = 0 then some (.vcmpUo (VFmt.ofCode (bits w 24 3)) (fld w 18 4) (fld w 12 6) (fld w 6 6) (fld w 4 2) (bit w 3)) else none := by
  unfold decodeVcmpGroup; rw [h]; rfl

theorem Coded.arm_Vector_11 (w : SlotWord) (h : bits w 27 5 = 0x0B) : decodeVector w = some (.vsel (VFmt.ofCode (bits w 24 3)) (fld w 18 6) (fld w 12 6) (fld w 6 6) (fld w 4 2) (bit w 3) (fld w 0 3)) := by
  unfold decodeVector; rw [h]; rfl

theorem Coded.arm_Vector_12 (w : SlotWord) (h : bits w 27 5 = 0x0C) : decodeVector w = decodeVbitGroup w := by
  unfold decodeVector; rw [h]; rfl

theorem Coded.arm_VbitGroup_0 (w : SlotWord) (h : bits w 0 4 = 0x00) : decodeVbitGroup w = if bits w 6 6 = 0 then some (.vbitClz (VFmt.ofCode (bits w 24 3)) (fld w 18 6) (fld w 12 6) (fld w 4 2)) else none := by
  unfold decodeVbitGroup; rw [h]; rfl

theorem Coded.arm_VbitGroup_1 (w : SlotWord) (h : bits w 0 4 = 0x01) : decodeVbitGroup w = if bits w 6 6 = 0 then some (.vbitCtz (VFmt.ofCode (bits w 24 3)) (fld w 18 6) (fld w 12 6) (fld w 4 2)) else none := by
  unfold decodeVbitGroup; rw [h]; rfl

theorem Coded.arm_VbitGroup_2 (w : SlotWord) (h : bits w 0 4 = 0x02) : decodeVbitGroup w = if bits w 6 6 = 0 then some (.vbitFfs (VFmt.ofCode (bits w 24 3)) (fld w 18 6) (fld w 12 6) (fld w 4 2)) else none := by
  unfold decodeVbitGroup; rw [h]; rfl

theorem Coded.arm_VbitGroup_3 (w : SlotWord) (h : bits w 0 4 = 0x03) : decodeVbitGroup w = if bits w 6 6 = 0 then some (.vbitPopc (VFmt.ofCode (bits w 24 3)) (fld w 18 6) (fld w 12 6) (fld w 4 2)) else none := by
  unfold decodeVbitGroup; rw [h]; rfl

theorem Coded.arm_Vector_13 (w : SlotWord) (h : bits w 27 5 = 0x0D) : decodeVector w = decodeVbfxGroup w := by
  unfold decodeVector; rw [h]; rfl

theorem Coded.arm_VbfxGroup_4 (w : SlotWord) (h : bits w 24 3 = 0x04) : decodeVbfxGroup w = if bits w 0 3 = 0 then some (.vbfxN32 (fld w 18 6) (fld w 12 6) (fld w 6 6) (fld w 4 2) (bit w 3)) else none := by
  unfold decodeVbfxGroup; rw [h]; rfl

theorem Coded.arm_VbfxGroup_2 (w : SlotWord) (h : bits w 24 3 = 0x02) : decodeVbfxGroup w = if bits w 0 3 = 1 then some (.vbfxI32 (fld w 18 6) (fld w 12 6) (fld w 6 6) (fld w 4 2) (bit w 3)) else none := by
  unfold decodeVbfxGroup; rw [h]; rfl

theorem Coded.arm_Vector_14 (w : SlotWord) (h : bits w 27 5 = 0x0E) : decodeVector w = decodeVfshGroup w := by
  unfold decodeVector; rw [h]; rfl

theorem Coded.arm_VfshGroup_0 (w : SlotWord) (h : bits w 0 3 = 0x00) : decodeVfshGroup w = some (.vfshLeft (VFmt.ofCode (bits w 24 3)) (fld w 18 6) (fld w 12 6) (fld w 6 6) (fld w 4 2) (bit w 3)) := by
  unfold decodeVfshGroup; rw [h]; rfl

theorem Coded.arm_VfshGroup_1 (w : SlotWord) (h : bits w 0 3 = 0x01) : decodeVfshGroup w = some (.vfshRight (VFmt.ofCode (bits w 24 3)) (fld w 18 6) (fld w 12 6) (fld w 6 6) (fld w 4 2) (bit w 3)) := by
  unfold decodeVfshGroup; rw [h]; rfl

theorem Coded.arm_Vector_15 (w : SlotWord) (h : bits w 27 5 = 0x0F) : decodeVector w = decodeVspecGroup w := by
  unfold decodeVector; rw [h]; rfl

theorem Coded.arm_VspecGroup_0 (w : SlotWord) (h : bits w 0 4 = 0x00) : decodeVspecGroup w = if bits w 24 3 = 7 ∧ bits w 6 6 = 0 then some (.vspecExp2 (fld w 18 6) (fld w 12 6) (fld w 4 2)) else none := by
  unfold decodeVspecGroup; rw [h]; rfl

theorem Coded.arm_VspecGroup_1 (w : SlotWord) (h : bits w 0 4 = 0x01) : decodeVspecGroup w = if bits w 24 3 = 7 ∧ bits w 6 6 = 0 then some (.vspecLog2 (fld w 18 6) (fld w 12 6) (fld w 4 2)) else none := by
  unfold decodeVspecGroup; rw [h]; rfl

theorem Coded.arm_VspecGroup_2 (w : SlotWord) (h : bits w 0 4 = 0x02) : decodeVspecGroup w = if bits w 24 3 = 7 ∧ bits w 6 6 = 0 then some (.vspecRcp (fld w 18 6) (fld w 12 6) (fld w 4 2)) else none := by
  unfold decodeVspecGroup; rw [h]; rfl

theorem Coded.arm_VspecGroup_3 (w : SlotWord) (h : bits w 0 4 = 0x03) : decodeVspecGroup w = if bits w 24 3 = 7 ∧ bits w 6 6 = 0 then some (.vspecRsqrt (fld w 18 6) (fld w 12 6) (fld w 4 2)) else none := by
  unfold decodeVspecGroup; rw [h]; rfl

theorem Coded.arm_VspecGroup_4 (w : SlotWord) (h : bits w 0 4 = 0x04) : decodeVspecGroup w = if bits w 24 3 = 7 ∧ bits w 6 6 = 0 then some (.vspecSqrt (fld w 18 6) (fld w 12 6) (fld w 4 2)) else none := by
  unfold decodeVspecGroup; rw [h]; rfl

theorem Coded.arm_Vector_16 (w : SlotWord) (h : bits w 27 5 = 0x10) : decodeVector w = decodeVredGroup w := by
  unfold decodeVector; rw [h]; rfl

theorem Coded.arm_VredGroup_0 (w : SlotWord) (h : bits w 0 4 = 0x00) : decodeVredGroup w = if bits w 6 6 = 0 then some (.vredAdd (VFmt.ofCode (bits w 24 3)) (fld w 18 6) (fld w 12 6) (fld w 4 2)) else none := by
  unfold decodeVredGroup; rw [h]; rfl

theorem Coded.arm_VredGroup_1 (w : SlotWord) (h : bits w 0 4 = 0x01) : decodeVredGroup w = if bits w 6 6 = 0 then some (.vredMax (VFmt.ofCode (bits w 24 3)) (fld w 18 6) (fld w 12 6) (fld w 4 2)) else none := by
  unfold decodeVredGroup; rw [h]; rfl

theorem Coded.arm_VredGroup_2 (w : SlotWord) (h : bits w 0 4 = 0x02) : decodeVredGroup w = if bits w 6 6 = 0 then some (.vredMin (VFmt.ofCode (bits w 24 3)) (fld w 18 6) (fld w 12 6) (fld w 4 2)) else none := by
  unfold decodeVredGroup; rw [h]; rfl

theorem Coded.arm_Vector_17 (w : SlotWord) (h : bits w 27 5 = 0x11) : decodeVector w = if bits w 0 3 = 0 then some (.vshuf (VFmt.ofCode (bits w 24 3)) (fld w 18 6) (fld w 12 6) (fld w 6 6) (fld w 4 2) (bit w 3)) else none := by
  unfold decodeVector; rw [h]; rfl

theorem Coded.arm_Vector_18 (w : SlotWord) (h : bits w 27 5 = 0x12) : decodeVector w = if bits w 0 3 = 0 then some (.vrot (VFmt.ofCode (bits w 24 3)) (fld w 18 6) (fld w 12 6) (fld w 6 6) (fld w 4 2) (bit w 3)) else none := by
  unfold decodeVector; rw [h]; rfl

theorem Coded.arm_Vector_19 (w : SlotWord) (h : bits w 27 5 = 0x13) : decodeVector w = if bits w 0 3 = 0 then some (.vxg (VFmt.ofCode (bits w 24 3)) (fld w 18 6) (fld w 12 6) (fld w 6 6) (fld w 4 2) (bit w 3)) else none := by
  unfold decodeVector; rw [h]; rfl

theorem Coded.arm_Vector_20 (w : SlotWord) (h : bits w 27 5 = 0x14) : decodeVector w = if bits w 6 6 = 0 ∧ bits w 0 4 = 0 then some (.vbcast (VFmt.ofCode (bits w 24 3)) (fld w 18 6) (fld w 12 6) (fld w 4 2)) else none := by
  unfold decodeVector; rw [h]; rfl

theorem Coded.arm_Vector_21 (w : SlotWord) (h : bits w 27 5 = 0x15) : decodeVector w = if bits w 0 6 = 0 then some (.vext (VFmt.ofCode (bits w 24 3)) (fld w 18 6) (fld w 12 6) (fld w 6 6)) else none := by
  unfold decodeVector; rw [h]; rfl

theorem Coded.arm_Vector_22 (w : SlotWord) (h : bits w 27 5 = 0x16) : decodeVector w = if bits w 0 4 = 0 then some (.vld (VFmt.ofCode (bits w 24 3)) (fld w 18 6) (fld w 12 6) (fld w 6 6) (fld w 4 2)) else none := by
  unfold decodeVector; rw [h]; rfl

theorem Coded.arm_Vector_23 (w : SlotWord) (h : bits w 27 5 = 0x17) : decodeVector w = if bits w 0 4 = 0 then some (.vst (VFmt.ofCode (bits w 24 3)) (fld w 18 6) (fld w 12 6) (fld w 6 6) (fld w 4 2)) else none := by
  unfold decodeVector; rw [h]; rfl

theorem Coded.arm_Vector_24 (w : SlotWord) (h : bits w 27 5 = 0x18) : decodeVector w = if bits w 0 4 = 0 then some (.vgath (VFmt.ofCode (bits w 24 3)) (fld w 18 6) (fld w 12 6) (fld w 6 6) (fld w 4 2)) else none := by
  unfold decodeVector; rw [h]; rfl

theorem Coded.arm_Vector_25 (w : SlotWord) (h : bits w 27 5 = 0x19) : decodeVector w = if bits w 0 4 = 0 then some (.vscat (VFmt.ofCode (bits w 24 3)) (fld w 18 6) (fld w 12 6) (fld w 6 6) (fld w 4 2)) else none := by
  unfold decodeVector; rw [h]; rfl

theorem Coded.arm_Vector_26 (w : SlotWord) (h : bits w 27 5 = 0x1A) : decodeVector w = decodeVamoGroup w := by
  unfold decodeVector; rw [h]; rfl

theorem Coded.arm_VamoGroup_0 (w : SlotWord) (h : bits w 0 4 = 0x00) : decodeVamoGroup w = some (.vamoAdd (VFmt.ofCode (bits w 24 3)) (fld w 18 6) (fld w 12 6) (fld w 6 6) (fld w 4 2)) := by
  unfold decodeVamoGroup; rw [h]; rfl

theorem Coded.arm_VamoGroup_1 (w : SlotWord) (h : bits w 0 4 = 0x01) : decodeVamoGroup w = if bits w 24 3 = 6 then some (.vamoAddSr (fld w 18 6) (fld w 12 6) (fld w 6 6) (fld w 4 2)) else none := by
  unfold decodeVamoGroup; rw [h]; rfl

theorem Coded.arm_VamoGroup_2 (w : SlotWord) (h : bits w 0 4 = 0x02) : decodeVamoGroup w = some (.vamoMin (VFmt.ofCode (bits w 24 3)) (fld w 18 6) (fld w 12 6) (fld w 6 6) (fld w 4 2)) := by
  unfold decodeVamoGroup; rw [h]; rfl

theorem Coded.arm_VamoGroup_3 (w : SlotWord) (h : bits w 0 4 = 0x03) : decodeVamoGroup w = some (.vamoMax (VFmt.ofCode (bits w 24 3)) (fld w 18 6) (fld w 12 6) (fld w 6 6) (fld w 4 2)) := by
  unfold decodeVamoGroup; rw [h]; rfl

theorem Coded.arm_VamoGroup_4 (w : SlotWord) (h : bits w 0 4 = 0x04) : decodeVamoGroup w = some (.vamoFmax (VFmt.ofCode (bits w 24 3)) (fld w 18 6) (fld w 12 6) (fld w 6 6) (fld w 4 2)) := by
  unfold decodeVamoGroup; rw [h]; rfl

theorem Coded.arm_Vector_28 (w : SlotWord) (h : bits w 27 5 = 0x1C) : decodeVector w = if bits w 0 4 = 0 then some (.vqpt (VFmt.ofCode (bits w 24 3)) (fld w 18 6) (fld w 12 6) (fld w 6 6) (fld w 4 2)) else none := by
  unfold decodeVector; rw [h]; rfl

theorem Coded.arm_Vector_29 (w : SlotWord) (h : bits w 27 5 = 0x1D) : decodeVector w = decodeVmaskGroup w := by
  unfold decodeVector; rw [h]; rfl

theorem Coded.arm_VmaskGroup_0 (w : SlotWord) (h : bits w 0 4 = 0x00) : decodeVmaskGroup w = if bits w 22 5 = 0 ∧ bits w 16 2 = 0 ∧ bits w 10 2 = 0 then some (.vmaskAnd (fld w 18 4) (fld w 12 4) (fld w 6 4) (fld w 4 2)) else none := by
  unfold decodeVmaskGroup; rw [h]; rfl

theorem Coded.arm_VmaskGroup_1 (w : SlotWord) (h : bits w 0 4 = 0x01) : decodeVmaskGroup w = if bits w 22 5 = 0 ∧ bits w 16 2 = 0 ∧ bits w 10 2 = 0 then some (.vmaskOr (fld w 18 4) (fld w 12 4) (fld w 6 4) (fld w 4 2)) else none := by
  unfold decodeVmaskGroup; rw [h]; rfl

theorem Coded.arm_VmaskGroup_2 (w : SlotWord) (h : bits w 0 4 = 0x02) : decodeVmaskGroup w = if bits w 22 5 = 0 ∧ bits w 16 2 = 0 ∧ bits w 10 2 = 0 then some (.vmaskXor (fld w 18 4) (fld w 12 4) (fld w 6 4) (fld w 4 2)) else none := by
  unfold decodeVmaskGroup; rw [h]; rfl

theorem Coded.arm_VmaskGroup_3 (w : SlotWord) (h : bits w 0 4 = 0x03) : decodeVmaskGroup w = if bits w 22 5 = 0 ∧ bits w 16 2 = 0 ∧ bits w 10 2 = 0 then some (.vmaskAndn (fld w 18 4) (fld w 12 4) (fld w 6 4) (fld w 4 2)) else none := by
  unfold decodeVmaskGroup; rw [h]; rfl

theorem Coded.arm_VmaskGroup_4 (w : SlotWord) (h : bits w 0 4 = 0x04) : decodeVmaskGroup w = if bits w 22 5 = 0 ∧ bits w 16 2 = 0 ∧ bits w 6 6 = 0 then some (.vmaskNot (fld w 18 4) (fld w 12 4) (fld w 4 2)) else none := by
  unfold decodeVmaskGroup; rw [h]; rfl

theorem Coded.arm_VmaskGroup_5 (w : SlotWord) (h : bits w 0 4 = 0x05) : decodeVmaskGroup w = if bits w 22 5 = 0 ∧ bits w 16 2 = 0 ∧ bits w 6 6 = 0 then some (.vmaskMov (fld w 18 4) (fld w 12 4) (fld w 4 2)) else none := by
  unfold decodeVmaskGroup; rw [h]; rfl

theorem Coded.arm_Vector_30 (w : SlotWord) (h : bits w 27 5 = 0x1E) : decodeVector w = if bits w 6 6 = 0 ∧ bits w 0 4 = 0 then some (.vmov (VFmt.ofCode (bits w 24 3)) (fld w 18 6) (fld w 12 6) (fld w 4 2)) else none := by
  unfold decodeVector; rw [h]; rfl

theorem Coded.arm_Matrix_1 (w : SlotWord) (h : bits w 28 4 = 0x01) : decodeMatrix w = if bits w 0 1 = 0 then some (.mcall (fld w 22 6) (bfld w 6 16) (fld w 1 5)) else none := by
  unfold decodeMatrix; rw [h]; rfl

theorem Coded.arm_Matrix_2 (w : SlotWord) (h : bits w 28 4 = 0x02) : decodeMatrix w = if bits w 0 13 = 0 then some (.mlds (fld w 24 4) (fld w 19 5) (fld w 16 3) (fld w 13 3)) else none := by
  unfold decodeMatrix; rw [h]; rfl

theorem Coded.arm_Matrix_3 (w : SlotWord) (h : bits w 28 4 = 0x03) : decodeMatrix w = if bits w 0 24 = 0 then some (.mswap (fld w 24 4)) else none := by
  unfold decodeMatrix; rw [h]; rfl

theorem Coded.arm_Matrix_4 (w : SlotWord) (h : bits w 28 4 = 0x04) : decodeMatrix w = decodeMstreamGroup w := by
  unfold decodeMatrix; rw [h]; rfl

theorem Coded.arm_MstreamGroup_0 (w : SlotWord) (h : bits w 23 1 = 0x00) : decodeMstreamGroup w = if bits w 20 3 = 0 ∧ bits w 0 16 = 0 then some (.mstream (fld w 24 4) (fld w 17 3) (bit w 16)) else none := by
  unfold decodeMstreamGroup; rw [h]; rfl

theorem Coded.arm_MstreamGroup_1 (w : SlotWord) (h : bits w 23 1 = 0x01) : decodeMstreamGroup w = if bits w 0 16 = 0 then some (.mstreamEyepiece (fld w 24 4) (fld w 20 3) (fld w 17 3) (bit w 16)) else none := by
  unfold decodeMstreamGroup; rw [h]; rfl

theorem Coded.arm_Matrix_5 (w : SlotWord) (h : bits w 28 4 = 0x05) : decodeMatrix w = if bits w 0 15 = 0 then some (.mdrain (fld w 23 5) (fld w 20 3) (fld w 16 4) (bit w 15)) else none := by
  unfold decodeMatrix; rw [h]; rfl

theorem Coded.arm_Matrix_6 (w : SlotWord) (h : bits w 28 4 = 0x06) : decodeMatrix w = if bits w 0 25 = 0 then some (.mzero (fld w 25 3)) else none := by
  unfold decodeMatrix; rw [h]; rfl

theorem Coded.arm_Matrix_7 (w : SlotWord) (h : bits w 28 4 = 0x07) : decodeMatrix w = if bits w 0 22 = 0 then some (.mepl (fld w 25 3) (fld w 22 3)) else none := by
  unfold decodeMatrix; rw [h]; rfl

theorem Coded.arm_Matrix_8 (w : SlotWord) (h : bits w 28 4 = 0x08) : decodeMatrix w = if bits w 0 17 = 0 then some (.mmode (bfld w 25 3) (bit w 24) (bit w 23) (bfld w 20 3) (bfld w 17 3)) else none := by
  unfold decodeMatrix; rw [h]; rfl

theorem Coded.arm_Matrix_9 (w : SlotWord) (h : bits w 28 4 = 0x09) : decodeMatrix w = if bits w 0 20 = 0 then some (.mseg (fld w 24 4) (bfld w 22 2) (bfld w 20 2)) else none := by
  unfold decodeMatrix; rw [h]; rfl

theorem Coded.arm_Matrix_10 (w : SlotWord) (h : bits w 28 4 = 0x0A) : decodeMatrix w = if bits w 0 19 = 0 then some (.mqset (fld w 25 3) (fld w 19 6)) else none := by
  unfold decodeMatrix; rw [h]; rfl

theorem Coded.arm_Matrix_11 (w : SlotWord) (h : bits w 28 4 = 0x0B) : decodeMatrix w = if bits w 0 5 = 0 then some (.mephw (fld w 25 3) (fld w 22 3) (fld w 12 10) (bit w 11) (fld w 5 6)) else none := by
  unfold decodeMatrix; rw [h]; rfl

theorem Coded.arm_Matrix_12 (w : SlotWord) (h : bits w 28 4 = 0x0C) : decodeMatrix w = if bits w 0 21 = 0 then some (.mstat (fld w 22 6) (bit w 21)) else none := by
  unfold decodeMatrix; rw [h]; rfl

theorem Coded.arm_Copy_1 (w : SlotWord) (h : bits w 27 5 = 0x01) : decodeCopy w = some (.cpy (fld w 23 4) (fld w 18 5) (fld w 12 6) (fld w 6 6) (fld w 0 6)) := by
  unfold decodeCopy; rw [h]; rfl

theorem Coded.arm_Copy_2 (w : SlotWord) (h : bits w 27 5 = 0x02) : decodeCopy w = some (.cgath (fld w 23 4) (fld w 18 5) (fld w 12 6) (fld w 6 6) (fld w 0 6)) := by
  unfold decodeCopy; rw [h]; rfl

theorem Coded.arm_Copy_3 (w : SlotWord) (h : bits w 27 5 = 0x03) : decodeCopy w = some (.cscat (fld w 23 4) (fld w 18 5) (fld w 12 6) (fld w 6 6) (fld w 0 6)) := by
  unfold decodeCopy; rw [h]; rfl

theorem Coded.arm_Copy_4 (w : SlotWord) (h : bits w 27 5 = 0x04) : decodeCopy w = some (.cfill (fld w 23 4) (fld w 18 5) (fld w 12 6) (fld w 6 6) (fld w 0 6)) := by
  unfold decodeCopy; rw [h]; rfl

theorem Coded.arm_Copy_5 (w : SlotWord) (h : bits w 27 5 = 0x05) : decodeCopy w = some (.cred (fld w 23 4) (fld w 18 5) (fld w 12 6) (fld w 6 6) (fld w 0 6)) := by
  unfold decodeCopy; rw [h]; rfl

theorem Coded.arm_Copy_6 (w : SlotWord) (h : bits w 27 5 = 0x06) : decodeCopy w = some (.cbcast (fld w 23 4) (fld w 18 5) (fld w 12 6) (fld w 6 6) (fld w 0 6)) := by
  unfold decodeCopy; rw [h]; rfl

theorem Coded.arm_Copy_7 (w : SlotWord) (h : bits w 27 5 = 0x07) : decodeCopy w = some (.cxfm (fld w 23 4) (fld w 18 5) (fld w 12 6) (fld w 6 6) (fld w 0 6)) := by
  unfold decodeCopy; rw [h]; rfl

theorem Coded.arm_Copy_8 (w : SlotWord) (h : bits w 27 5 = 0x08) : decodeCopy w = some (.cstashSave (fld w 23 4) (fld w 18 5) (fld w 12 6) (fld w 6 6) (fld w 0 6)) := by
  unfold decodeCopy; rw [h]; rfl

theorem Coded.arm_Copy_10 (w : SlotWord) (h : bits w 27 5 = 0x0A) : decodeCopy w = if bits w 6 12 = 0 then some (.cstashDrop (fld w 23 4) (fld w 18 5) (fld w 0 6)) else none := by
  unfold decodeCopy; rw [h]; rfl

theorem Coded.arm_Copy_11 (w : SlotWord) (h : bits w 27 5 = 0x0B) : decodeCopy w = if bits w 0 12 = 0 then some (.cverFork (fld w 23 4) (fld w 18 5) (fld w 12 6)) else none := by
  unfold decodeCopy; rw [h]; rfl

theorem Coded.arm_Copy_12 (w : SlotWord) (h : bits w 27 5 = 0x0C) : decodeCopy w = some (.csend (fld w 23 4) (fld w 18 5) (fld w 12 6) (fld w 6 6) (fld w 0 6)) := by
  unfold decodeCopy; rw [h]; rfl

theorem Coded.arm_Copy_13 (w : SlotWord) (h : bits w 27 5 = 0x0D) : decodeCopy w = some (.crecv (fld w 23 4) (fld w 18 5) (fld w 12 6) (fld w 6 6) (fld w 0 6)) := by
  unfold decodeCopy; rw [h]; rfl

theorem Coded.arm_Copy_14 (w : SlotWord) (h : bits w 27 5 = 0x0E) : decodeCopy w = some (.cringReduceScatter (fld w 23 4) (fld w 18 5) (fld w 12 6) (fld w 6 6) (fld w 0 6)) := by
  unfold decodeCopy; rw [h]; rfl

theorem Coded.arm_Copy_15 (w : SlotWord) (h : bits w 27 5 = 0x0F) : decodeCopy w = some (.cnred (fld w 23 4) (fld w 18 5) (fld w 12 6) (fld w 6 6) (fld w 0 6)) := by
  unfold decodeCopy; rw [h]; rfl

theorem Coded.arm_Copy_16 (w : SlotWord) (h : bits w 27 5 = 0x10) : decodeCopy w = some (.cmaintClean (fld w 23 4) (fld w 18 5) (fld w 12 6) (fld w 6 6) (fld w 0 6)) := by
  unfold decodeCopy; rw [h]; rfl

theorem Coded.arm_Copy_17 (w : SlotWord) (h : bits w 27 5 = 0x11) : decodeCopy w = some (.cpin (fld w 23 4) (fld w 18 5) (fld w 12 6) (fld w 6 6) (fld w 0 6)) := by
  unfold decodeCopy; rw [h]; rfl

theorem Coded.arm_Copy_18 (w : SlotWord) (h : bits w 27 5 = 0x12) : decodeCopy w = if bits w 0 6 = 0 then some (.cmcast (fld w 23 4) (fld w 18 5) (fld w 12 6) (fld w 6 6)) else none := by
  unfold decodeCopy; rw [h]; rfl

theorem Coded.arm_Transform_1 (w : SlotWord) (h : bits w 27 5 = 0x01) : decodeTransform w = decodeXcvtGroup w := by
  unfold decodeTransform; rw [h]; rfl

theorem Coded.arm_XcvtGroup_0 (w : SlotWord) (h : bits w 18 1 = 0x00) : decodeXcvtGroup w = if bits w 0 6 = 0 then some (.xcvt (bfld w 23 4) (bfld w 19 4) (fld w 12 6) (fld w 6 6)) else none := by
  unfold decodeXcvtGroup; rw [h]; rfl

theorem Coded.arm_XcvtGroup_1 (w : SlotWord) (h : bits w 18 1 = 0x01) : decodeXcvtGroup w = some (.xcvtSr (bfld w 23 4) (bfld w 19 4) (fld w 12 6) (fld w 6 6) (fld w 0 6)) := by
  unfold decodeXcvtGroup; rw [h]; rfl

theorem Coded.arm_Transform_2 (w : SlotWord) (h : bits w 27 5 = 0x02) : decodeTransform w = if bits w 4 2 = 0 then some (.xq (bit w 26) (bfld w 22 4) (bfld w 18 4) (fld w 12 6) (fld w 6 6) (fld w 0 4)) else none := by
  unfold decodeTransform; rw [h]; rfl

theorem Coded.arm_Transform_3 (w : SlotWord) (h : bits w 27 5 = 0x03) : decodeTransform w = if bits w 4 2 = 0 then some (.xdq (bit w 26) (bfld w 22 4) (bfld w 18 4) (fld w 12 6) (fld w 6 6) (fld w 0 4)) else none := by
  unfold decodeTransform; rw [h]; rfl

theorem Coded.arm_Transform_4 (w : SlotWord) (h : bits w 27 5 = 0x04) : decodeTransform w = if bits w 16 2 = 0 ∧ bits w 10 2 = 0 then some (.xsld (bit w 26) (bfld w 22 4) (bit w 21) (bfld w 18 3) (fld w 12 4) (fld w 6 4) (fld w 0 6)) else none := by
  unfold decodeTransform; rw [h]; rfl

theorem Coded.arm_Transform_5 (w : SlotWord) (h : bits w 27 5 = 0x05) : decodeTransform w = if bits w 16 2 = 0 ∧ bits w 10 2 = 0 then some (.xsst (bit w 26) (bfld w 22 4) (bit w 21) (bfld w 18 3) (fld w 12 4) (fld w 6 4) (fld w 0 6)) else none := by
  unfold decodeTransform; rw [h]; rfl

theorem Coded.arm_Transform_6 (w : SlotWord) (h : bits w 27 5 = 0x06) : decodeTransform w = if bits w 20 7 = 0 ∧ bits w 0 6 = 0 then some (.xtr (bfld w 18 2) (fld w 12 6) (fld w 6 6)) else none := by
  unfold decodeTransform; rw [h]; rfl

theorem Coded.arm_Transform_7 (w : SlotWord) (h : bits w 27 5 = 0x07) : decodeTransform w = if bits w 20 7 = 0 then some (.xperm (bfld w 18 2) (fld w 12 6) (fld w 6 6) (fld w 0 6)) else none := by
  unfold decodeTransform; rw [h]; rfl

theorem Coded.arm_Transform_8 (w : SlotWord) (h : bits w 27 5 = 0x08) : decodeTransform w = if bits w 18 6 = 0 then some (.xhad (bfld w 25 2) (bit w 24) (fld w 12 6) (fld w 6 6) (fld w 0 6)) else none := by
  unfold decodeTransform; rw [h]; rfl

theorem Coded.arm_Transform_9 (w : SlotWord) (h : bits w 27 5 = 0x09) : decodeTransform w = if bits w 26 1 = 0 ∧ bits w 18 4 = 0 then some (.xamax (bfld w 22 4) (fld w 12 6) (fld w 6 6) (fld w 0 6)) else none := by
  unfold decodeTransform; rw [h]; rfl

theorem Coded.arm_Transform_10 (w : SlotWord) (h : bits w 27 5 = 0x0A) : decodeTransform w = decodeXpackGroup w := by
  unfold decodeTransform; rw [h]; rfl

theorem Coded.arm_XpackGroup_0 (w : SlotWord) (h : bits w 26 1 = 0x00) : decodeXpackGroup w = if bits w 0 6 = 0 then some (.xpack (bfld w 22 4) (bfld w 20 2) (bit w 19) (bit w 18) (fld w 12 6) (fld w 6 6)) else none := by
  unfold decodeXpackGroup; rw [h]; rfl

theorem Coded.arm_XpackGroup_1 (w : SlotWord) (h : bits w 26 1 = 0x01) : decodeXpackGroup w = if bits w 19 1 = 0 ∧ bits w 0 6 = 0 then some (.xunpk (bfld w 22 4) (bfld w 20 2) (bit w 18) (fld w 12 6) (fld w 6 6)) else none := by
  unfold decodeXpackGroup; rw [h]; rfl

theorem Coded.arm_Transform_11 (w : SlotWord) (h : bits w 27 5 = 0x0B) : decodeTransform w = if bits w 20 7 = 0 ∧ bits w 4 2 = 0 then some (.xexp (bfld w 18 2) (fld w 12 6) (fld w 6 6) (fld w 0 4)) else none := by
  unfold decodeTransform; rw [h]; rfl

theorem Coded.arm_Transform_12 (w : SlotWord) (h : bits w 27 5 = 0x0C) : decodeTransform w = decodeXtblGroup w := by
  unfold decodeTransform; rw [h]; rfl

theorem Coded.arm_XtblGroup_0 (w : SlotWord) (h : bits w 12 15 = 0x00) : decodeXtblGroup w = some (.xtblPerm (fld w 6 6) (fld w 0 6)) := by
  unfold decodeXtblGroup; rw [h]; rfl

theorem Coded.arm_XtblGroup_16384 (w : SlotWord) (h : bits w 12 15 = 0x4000) : decodeXtblGroup w = if bits w 0 6 = 0 then some (.xtblKey (fld w 6 6)) else none := by
  unfold decodeXtblGroup; rw [h]; rfl

theorem Coded.arm_Scalar_56 (w : SlotWord) (h : bits w 26 6 = 0x38) : decodeScalar w = if bits w 0 26 = 0 then some .retire else none := by
  unfold decodeScalar; rw [h]; rfl

theorem Coded.arm_Scalar_59 (w : SlotWord) (h : bits w 26 6 = 0x3B) : decodeScalar w = if bits w 0 26 = 0 then some .retu else none := by
  unfold decodeScalar; rw [h]; rfl

theorem Coded.arm_Scalar_60 (w : SlotWord) (h : bits w 26 6 = 0x3C) : decodeScalar w = if bits w 0 26 = 0 then some .retl else none := by
  unfold decodeScalar; rw [h]; rfl

/-! ## The instructions -/

theorem Coded.add (d : Fin 64) (a : Fin 64) (b : Fin 64) : Coded.Statement (.add d a b) := by
  intro _ w h
  have R := Coded.read [(0x01, 26, 1), (d.val, 20, 6), (a.val, 14, 6), (b.val, 8, 6)] h rfl
    ⟨by decide, d.isLt, a.isLt, b.isLt, trivial⟩
  have eScalar := Coded.arm_Scalar_1 w (R _ _ _ rfl)
  have eAluGroup := Coded.arm_AluGroup_0 w (R _ _ _ rfl)
  show decodeScalar w = _
  rw [eScalar, eAluGroup]
  rw [Coded.fld_eq w 20 6 d (R _ _ _ rfl),
    Coded.fld_eq w 14 6 a (R _ _ _ rfl),
    Coded.fld_eq w 8 6 b (R _ _ _ rfl)]
  rfl

theorem Coded.sub (d : Fin 64) (a : Fin 64) (b : Fin 64) : Coded.Statement (.sub d a b) := by
  intro _ w h
  have R := Coded.read [(0x01, 26, 1), (d.val, 20, 6), (a.val, 14, 6), (b.val, 8, 6), (0x01, 0, 1)] h rfl
    ⟨by decide, d.isLt, a.isLt, b.isLt, by decide, trivial⟩
  have eScalar := Coded.arm_Scalar_1 w (R _ _ _ rfl)
  have eAluGroup := Coded.arm_AluGroup_1 w (R _ _ _ rfl)
  show decodeScalar w = _
  rw [eScalar, eAluGroup]
  rw [Coded.fld_eq w 20 6 d (R _ _ _ rfl),
    Coded.fld_eq w 14 6 a (R _ _ _ rfl),
    Coded.fld_eq w 8 6 b (R _ _ _ rfl)]
  rfl

theorem Coded.and (d : Fin 64) (a : Fin 64) (b : Fin 64) : Coded.Statement (.and d a b) := by
  intro _ w h
  have R := Coded.read [(0x01, 26, 1), (d.val, 20, 6), (a.val, 14, 6), (b.val, 8, 6), (0x02, 0, 2)] h rfl
    ⟨by decide, d.isLt, a.isLt, b.isLt, by decide, trivial⟩
  have eScalar := Coded.arm_Scalar_1 w (R _ _ _ rfl)
  have eAluGroup := Coded.arm_AluGroup_2 w (R _ _ _ rfl)
  show decodeScalar w = _
  rw [eScalar, eAluGroup]
  rw [Coded.fld_eq w 20 6 d (R _ _ _ rfl),
    Coded.fld_eq w 14 6 a (R _ _ _ rfl),
    Coded.fld_eq w 8 6 b (R _ _ _ rfl)]
  rfl

theorem Coded.or (d : Fin 64) (a : Fin 64) (b : Fin 64) : Coded.Statement (.or d a b) := by
  intro _ w h
  have R := Coded.read [(0x01, 26, 1), (d.val, 20, 6), (a.val, 14, 6), (b.val, 8, 6), (0x03, 0, 2)] h rfl
    ⟨by decide, d.isLt, a.isLt, b.isLt, by decide, trivial⟩
  have eScalar := Coded.arm_Scalar_1 w (R _ _ _ rfl)
  have eAluGroup := Coded.arm_AluGroup_3 w (R _ _ _ rfl)
  show decodeScalar w = _
  rw [eScalar, eAluGroup]
  rw [Coded.fld_eq w 20 6 d (R _ _ _ rfl),
    Coded.fld_eq w 14 6 a (R _ _ _ rfl),
    Coded.fld_eq w 8 6 b (R _ _ _ rfl)]
  rfl

theorem Coded.xor (d : Fin 64) (a : Fin 64) (b : Fin 64) : Coded.Statement (.xor d a b) := by
  intro _ w h
  have R := Coded.read [(0x01, 26, 1), (d.val, 20, 6), (a.val, 14, 6), (b.val, 8, 6), (0x04, 0, 3)] h rfl
    ⟨by decide, d.isLt, a.isLt, b.isLt, by decide, trivial⟩
  have eScalar := Coded.arm_Scalar_1 w (R _ _ _ rfl)
  have eAluGroup := Coded.arm_AluGroup_4 w (R _ _ _ rfl)
  show decodeScalar w = _
  rw [eScalar, eAluGroup]
  rw [Coded.fld_eq w 20 6 d (R _ _ _ rfl),
    Coded.fld_eq w 14 6 a (R _ _ _ rfl),
    Coded.fld_eq w 8 6 b (R _ _ _ rfl)]
  rfl

theorem Coded.andn (d : Fin 64) (a : Fin 64) (b : Fin 64) : Coded.Statement (.andn d a b) := by
  intro _ w h
  have R := Coded.read [(0x01, 26, 1), (d.val, 20, 6), (a.val, 14, 6), (b.val, 8, 6), (0x05, 0, 3)] h rfl
    ⟨by decide, d.isLt, a.isLt, b.isLt, by decide, trivial⟩
  have eScalar := Coded.arm_Scalar_1 w (R _ _ _ rfl)
  have eAluGroup := Coded.arm_AluGroup_5 w (R _ _ _ rfl)
  show decodeScalar w = _
  rw [eScalar, eAluGroup]
  rw [Coded.fld_eq w 20 6 d (R _ _ _ rfl),
    Coded.fld_eq w 14 6 a (R _ _ _ rfl),
    Coded.fld_eq w 8 6 b (R _ _ _ rfl)]
  rfl

theorem Coded.shl (d : Fin 64) (a : Fin 64) (b : Fin 64) : Coded.Statement (.shl d a b) := by
  intro _ w h
  have R := Coded.read [(0x01, 26, 1), (d.val, 20, 6), (a.val, 14, 6), (b.val, 8, 6), (0x06, 0, 3)] h rfl
    ⟨by decide, d.isLt, a.isLt, b.isLt, by decide, trivial⟩
  have eScalar := Coded.arm_Scalar_1 w (R _ _ _ rfl)
  have eAluGroup := Coded.arm_AluGroup_6 w (R _ _ _ rfl)
  show decodeScalar w = _
  rw [eScalar, eAluGroup]
  rw [Coded.fld_eq w 20 6 d (R _ _ _ rfl),
    Coded.fld_eq w 14 6 a (R _ _ _ rfl),
    Coded.fld_eq w 8 6 b (R _ _ _ rfl)]
  rfl

theorem Coded.shr (d : Fin 64) (a : Fin 64) (b : Fin 64) : Coded.Statement (.shr d a b) := by
  intro _ w h
  have R := Coded.read [(0x01, 26, 1), (d.val, 20, 6), (a.val, 14, 6), (b.val, 8, 6), (0x07, 0, 3)] h rfl
    ⟨by decide, d.isLt, a.isLt, b.isLt, by decide, trivial⟩
  have eScalar := Coded.arm_Scalar_1 w (R _ _ _ rfl)
  have eAluGroup := Coded.arm_AluGroup_7 w (R _ _ _ rfl)
  show decodeScalar w = _
  rw [eScalar, eAluGroup]
  rw [Coded.fld_eq w 20 6 d (R _ _ _ rfl),
    Coded.fld_eq w 14 6 a (R _ _ _ rfl),
    Coded.fld_eq w 8 6 b (R _ _ _ rfl)]
  rfl

theorem Coded.sar (d : Fin 64) (a : Fin 64) (b : Fin 64) : Coded.Statement (.sar d a b) := by
  intro _ w h
  have R := Coded.read [(0x01, 26, 1), (d.val, 20, 6), (a.val, 14, 6), (b.val, 8, 6), (0x08, 0, 4)] h rfl
    ⟨by decide, d.isLt, a.isLt, b.isLt, by decide, trivial⟩
  have eScalar := Coded.arm_Scalar_1 w (R _ _ _ rfl)
  have eAluGroup := Coded.arm_AluGroup_8 w (R _ _ _ rfl)
  show decodeScalar w = _
  rw [eScalar, eAluGroup]
  rw [Coded.fld_eq w 20 6 d (R _ _ _ rfl),
    Coded.fld_eq w 14 6 a (R _ _ _ rfl),
    Coded.fld_eq w 8 6 b (R _ _ _ rfl)]
  rfl

theorem Coded.rol (d : Fin 64) (a : Fin 64) (b : Fin 64) : Coded.Statement (.rol d a b) := by
  intro _ w h
  have R := Coded.read [(0x01, 26, 1), (d.val, 20, 6), (a.val, 14, 6), (b.val, 8, 6), (0x09, 0, 4)] h rfl
    ⟨by decide, d.isLt, a.isLt, b.isLt, by decide, trivial⟩
  have eScalar := Coded.arm_Scalar_1 w (R _ _ _ rfl)
  have eAluGroup := Coded.arm_AluGroup_9 w (R _ _ _ rfl)
  show decodeScalar w = _
  rw [eScalar, eAluGroup]
  rw [Coded.fld_eq w 20 6 d (R _ _ _ rfl),
    Coded.fld_eq w 14 6 a (R _ _ _ rfl),
    Coded.fld_eq w 8 6 b (R _ _ _ rfl)]
  rfl

theorem Coded.min (d : Fin 64) (a : Fin 64) (b : Fin 64) : Coded.Statement (.min d a b) := by
  intro _ w h
  have R := Coded.read [(0x01, 26, 1), (d.val, 20, 6), (a.val, 14, 6), (b.val, 8, 6), (0x0A, 0, 4)] h rfl
    ⟨by decide, d.isLt, a.isLt, b.isLt, by decide, trivial⟩
  have eScalar := Coded.arm_Scalar_1 w (R _ _ _ rfl)
  have eAluGroup := Coded.arm_AluGroup_10 w (R _ _ _ rfl)
  show decodeScalar w = _
  rw [eScalar, eAluGroup]
  rw [Coded.fld_eq w 20 6 d (R _ _ _ rfl),
    Coded.fld_eq w 14 6 a (R _ _ _ rfl),
    Coded.fld_eq w 8 6 b (R _ _ _ rfl)]
  rfl

theorem Coded.max (d : Fin 64) (a : Fin 64) (b : Fin 64) : Coded.Statement (.max d a b) := by
  intro _ w h
  have R := Coded.read [(0x01, 26, 1), (d.val, 20, 6), (a.val, 14, 6), (b.val, 8, 6), (0x0B, 0, 4)] h rfl
    ⟨by decide, d.isLt, a.isLt, b.isLt, by decide, trivial⟩
  have eScalar := Coded.arm_Scalar_1 w (R _ _ _ rfl)
  have eAluGroup := Coded.arm_AluGroup_11 w (R _ _ _ rfl)
  show decodeScalar w = _
  rw [eScalar, eAluGroup]
  rw [Coded.fld_eq w 20 6 d (R _ _ _ rfl),
    Coded.fld_eq w 14 6 a (R _ _ _ rfl),
    Coded.fld_eq w 8 6 b (R _ _ _ rfl)]
  rfl

theorem Coded.minn (d : Fin 64) (a : Fin 64) (b : Fin 64) : Coded.Statement (.minn d a b) := by
  intro _ w h
  have R := Coded.read [(0x01, 26, 1), (d.val, 20, 6), (a.val, 14, 6), (b.val, 8, 6), (0x0C, 0, 4)] h rfl
    ⟨by decide, d.isLt, a.isLt, b.isLt, by decide, trivial⟩
  have eScalar := Coded.arm_Scalar_1 w (R _ _ _ rfl)
  have eAluGroup := Coded.arm_AluGroup_12 w (R _ _ _ rfl)
  show decodeScalar w = _
  rw [eScalar, eAluGroup]
  rw [Coded.fld_eq w 20 6 d (R _ _ _ rfl),
    Coded.fld_eq w 14 6 a (R _ _ _ rfl),
    Coded.fld_eq w 8 6 b (R _ _ _ rfl)]
  rfl

theorem Coded.maxn (d : Fin 64) (a : Fin 64) (b : Fin 64) : Coded.Statement (.maxn d a b) := by
  intro _ w h
  have R := Coded.read [(0x01, 26, 1), (d.val, 20, 6), (a.val, 14, 6), (b.val, 8, 6), (0x0D, 0, 4)] h rfl
    ⟨by decide, d.isLt, a.isLt, b.isLt, by decide, trivial⟩
  have eScalar := Coded.arm_Scalar_1 w (R _ _ _ rfl)
  have eAluGroup := Coded.arm_AluGroup_13 w (R _ _ _ rfl)
  show decodeScalar w = _
  rw [eScalar, eAluGroup]
  rw [Coded.fld_eq w 20 6 d (R _ _ _ rfl),
    Coded.fld_eq w 14 6 a (R _ _ _ rfl),
    Coded.fld_eq w 8 6 b (R _ _ _ rfl)]
  rfl

theorem Coded.cmpEq (d : Fin 64) (a : Fin 64) (b : Fin 64) : Coded.Statement (.cmpEq d a b) := by
  intro _ w h
  have R := Coded.read [(0x01, 26, 1), (d.val, 20, 6), (a.val, 14, 6), (b.val, 8, 6), (0x10, 0, 5)] h rfl
    ⟨by decide, d.isLt, a.isLt, b.isLt, by decide, trivial⟩
  have eScalar := Coded.arm_Scalar_1 w (R _ _ _ rfl)
  have eAluGroup := Coded.arm_AluGroup_16 w (R _ _ _ rfl)
  show decodeScalar w = _
  rw [eScalar, eAluGroup]
  rw [Coded.fld_eq w 20 6 d (R _ _ _ rfl),
    Coded.fld_eq w 14 6 a (R _ _ _ rfl),
    Coded.fld_eq w 8 6 b (R _ _ _ rfl)]
  rfl

theorem Coded.cmpNe (d : Fin 64) (a : Fin 64) (b : Fin 64) : Coded.Statement (.cmpNe d a b) := by
  intro _ w h
  have R := Coded.read [(0x01, 26, 1), (d.val, 20, 6), (a.val, 14, 6), (b.val, 8, 6), (0x11, 0, 5)] h rfl
    ⟨by decide, d.isLt, a.isLt, b.isLt, by decide, trivial⟩
  have eScalar := Coded.arm_Scalar_1 w (R _ _ _ rfl)
  have eAluGroup := Coded.arm_AluGroup_17 w (R _ _ _ rfl)
  show decodeScalar w = _
  rw [eScalar, eAluGroup]
  rw [Coded.fld_eq w 20 6 d (R _ _ _ rfl),
    Coded.fld_eq w 14 6 a (R _ _ _ rfl),
    Coded.fld_eq w 8 6 b (R _ _ _ rfl)]
  rfl

theorem Coded.cmpLt (d : Fin 64) (a : Fin 64) (b : Fin 64) : Coded.Statement (.cmpLt d a b) := by
  intro _ w h
  have R := Coded.read [(0x01, 26, 1), (d.val, 20, 6), (a.val, 14, 6), (b.val, 8, 6), (0x12, 0, 5)] h rfl
    ⟨by decide, d.isLt, a.isLt, b.isLt, by decide, trivial⟩
  have eScalar := Coded.arm_Scalar_1 w (R _ _ _ rfl)
  have eAluGroup := Coded.arm_AluGroup_18 w (R _ _ _ rfl)
  show decodeScalar w = _
  rw [eScalar, eAluGroup]
  rw [Coded.fld_eq w 20 6 d (R _ _ _ rfl),
    Coded.fld_eq w 14 6 a (R _ _ _ rfl),
    Coded.fld_eq w 8 6 b (R _ _ _ rfl)]
  rfl

theorem Coded.cmpLe (d : Fin 64) (a : Fin 64) (b : Fin 64) : Coded.Statement (.cmpLe d a b) := by
  intro _ w h
  have R := Coded.read [(0x01, 26, 1), (d.val, 20, 6), (a.val, 14, 6), (b.val, 8, 6), (0x13, 0, 5)] h rfl
    ⟨by decide, d.isLt, a.isLt, b.isLt, by decide, trivial⟩
  have eScalar := Coded.arm_Scalar_1 w (R _ _ _ rfl)
  have eAluGroup := Coded.arm_AluGroup_19 w (R _ _ _ rfl)
  show decodeScalar w = _
  rw [eScalar, eAluGroup]
  rw [Coded.fld_eq w 20 6 d (R _ _ _ rfl),
    Coded.fld_eq w 14 6 a (R _ _ _ rfl),
    Coded.fld_eq w 8 6 b (R _ _ _ rfl)]
  rfl

theorem Coded.cmpLtn (d : Fin 64) (a : Fin 64) (b : Fin 64) : Coded.Statement (.cmpLtn d a b) := by
  intro _ w h
  have R := Coded.read [(0x01, 26, 1), (d.val, 20, 6), (a.val, 14, 6), (b.val, 8, 6), (0x14, 0, 5)] h rfl
    ⟨by decide, d.isLt, a.isLt, b.isLt, by decide, trivial⟩
  have eScalar := Coded.arm_Scalar_1 w (R _ _ _ rfl)
  have eAluGroup := Coded.arm_AluGroup_20 w (R _ _ _ rfl)
  show decodeScalar w = _
  rw [eScalar, eAluGroup]
  rw [Coded.fld_eq w 20 6 d (R _ _ _ rfl),
    Coded.fld_eq w 14 6 a (R _ _ _ rfl),
    Coded.fld_eq w 8 6 b (R _ _ _ rfl)]
  rfl

theorem Coded.cmpLen (d : Fin 64) (a : Fin 64) (b : Fin 64) : Coded.Statement (.cmpLen d a b) := by
  intro _ w h
  have R := Coded.read [(0x01, 26, 1), (d.val, 20, 6), (a.val, 14, 6), (b.val, 8, 6), (0x15, 0, 5)] h rfl
    ⟨by decide, d.isLt, a.isLt, b.isLt, by decide, trivial⟩
  have eScalar := Coded.arm_Scalar_1 w (R _ _ _ rfl)
  have eAluGroup := Coded.arm_AluGroup_21 w (R _ _ _ rfl)
  show decodeScalar w = _
  rw [eScalar, eAluGroup]
  rw [Coded.fld_eq w 20 6 d (R _ _ _ rfl),
    Coded.fld_eq w 14 6 a (R _ _ _ rfl),
    Coded.fld_eq w 8 6 b (R _ _ _ rfl)]
  rfl

theorem Coded.clz (d : Fin 64) (a : Fin 64) : Coded.Statement (.clz d a) := by
  intro _ w h
  have R := Coded.read [(0x01, 26, 1), (d.val, 20, 6), (a.val, 14, 6), (0x18, 0, 5)] h rfl
    ⟨by decide, d.isLt, a.isLt, by decide, trivial⟩
  have eScalar := Coded.arm_Scalar_1 w (R _ _ _ rfl)
  have eAluGroup := Coded.arm_AluGroup_24 w (R _ _ _ rfl)
  show decodeScalar w = _
  rw [eScalar, eAluGroup, if_pos (R _ _ _ rfl)]
  rw [Coded.fld_eq w 20 6 d (R _ _ _ rfl),
    Coded.fld_eq w 14 6 a (R _ _ _ rfl)]
  rfl

theorem Coded.ctz (d : Fin 64) (a : Fin 64) : Coded.Statement (.ctz d a) := by
  intro _ w h
  have R := Coded.read [(0x01, 26, 1), (d.val, 20, 6), (a.val, 14, 6), (0x19, 0, 5)] h rfl
    ⟨by decide, d.isLt, a.isLt, by decide, trivial⟩
  have eScalar := Coded.arm_Scalar_1 w (R _ _ _ rfl)
  have eAluGroup := Coded.arm_AluGroup_25 w (R _ _ _ rfl)
  show decodeScalar w = _
  rw [eScalar, eAluGroup, if_pos (R _ _ _ rfl)]
  rw [Coded.fld_eq w 20 6 d (R _ _ _ rfl),
    Coded.fld_eq w 14 6 a (R _ _ _ rfl)]
  rfl

theorem Coded.ffs (d : Fin 64) (a : Fin 64) : Coded.Statement (.ffs d a) := by
  intro _ w h
  have R := Coded.read [(0x01, 26, 1), (d.val, 20, 6), (a.val, 14, 6), (0x1A, 0, 5)] h rfl
    ⟨by decide, d.isLt, a.isLt, by decide, trivial⟩
  have eScalar := Coded.arm_Scalar_1 w (R _ _ _ rfl)
  have eAluGroup := Coded.arm_AluGroup_26 w (R _ _ _ rfl)
  show decodeScalar w = _
  rw [eScalar, eAluGroup, if_pos (R _ _ _ rfl)]
  rw [Coded.fld_eq w 20 6 d (R _ _ _ rfl),
    Coded.fld_eq w 14 6 a (R _ _ _ rfl)]
  rfl

theorem Coded.popc (d : Fin 64) (a : Fin 64) : Coded.Statement (.popc d a) := by
  intro _ w h
  have R := Coded.read [(0x01, 26, 1), (d.val, 20, 6), (a.val, 14, 6), (0x1B, 0, 5)] h rfl
    ⟨by decide, d.isLt, a.isLt, by decide, trivial⟩
  have eScalar := Coded.arm_Scalar_1 w (R _ _ _ rfl)
  have eAluGroup := Coded.arm_AluGroup_27 w (R _ _ _ rfl)
  show decodeScalar w = _
  rw [eScalar, eAluGroup, if_pos (R _ _ _ rfl)]
  rw [Coded.fld_eq w 20 6 d (R _ _ _ rfl),
    Coded.fld_eq w 14 6 a (R _ _ _ rfl)]
  rfl

theorem Coded.brev (d : Fin 64) (a : Fin 64) : Coded.Statement (.brev d a) := by
  intro _ w h
  have R := Coded.read [(0x01, 26, 1), (d.val, 20, 6), (a.val, 14, 6), (0x1C, 0, 5)] h rfl
    ⟨by decide, d.isLt, a.isLt, by decide, trivial⟩
  have eScalar := Coded.arm_Scalar_1 w (R _ _ _ rfl)
  have eAluGroup := Coded.arm_AluGroup_28 w (R _ _ _ rfl)
  show decodeScalar w = _
  rw [eScalar, eAluGroup, if_pos (R _ _ _ rfl)]
  rw [Coded.fld_eq w 20 6 d (R _ _ _ rfl),
    Coded.fld_eq w 14 6 a (R _ _ _ rfl)]
  rfl

theorem Coded.mul (d : Fin 64) (a : Fin 64) (b : Fin 64) : Coded.Statement (.mul d a b) := by
  intro _ w h
  have R := Coded.read [(0x02, 26, 2), (d.val, 20, 6), (a.val, 14, 6), (b.val, 8, 6)] h rfl
    ⟨by decide, d.isLt, a.isLt, b.isLt, trivial⟩
  have eScalar := Coded.arm_Scalar_2 w (R _ _ _ rfl)
  have eMulGroup := Coded.arm_MulGroup_0 w (R _ _ _ rfl)
  show decodeScalar w = _
  rw [eScalar, eMulGroup]
  rw [Coded.fld_eq w 20 6 d (R _ _ _ rfl),
    Coded.fld_eq w 14 6 a (R _ _ _ rfl),
    Coded.fld_eq w 8 6 b (R _ _ _ rfl)]
  rfl

theorem Coded.mulh (d : Fin 64) (a : Fin 64) (b : Fin 64) : Coded.Statement (.mulh d a b) := by
  intro _ w h
  have R := Coded.read [(0x02, 26, 2), (d.val, 20, 6), (a.val, 14, 6), (b.val, 8, 6), (0x01, 0, 1)] h rfl
    ⟨by decide, d.isLt, a.isLt, b.isLt, by decide, trivial⟩
  have eScalar := Coded.arm_Scalar_2 w (R _ _ _ rfl)
  have eMulGroup := Coded.arm_MulGroup_1 w (R _ _ _ rfl)
  show decodeScalar w = _
  rw [eScalar, eMulGroup]
  rw [Coded.fld_eq w 20 6 d (R _ _ _ rfl),
    Coded.fld_eq w 14 6 a (R _ _ _ rfl),
    Coded.fld_eq w 8 6 b (R _ _ _ rfl)]
  rfl

theorem Coded.mulhn (d : Fin 64) (a : Fin 64) (b : Fin 64) : Coded.Statement (.mulhn d a b) := by
  intro _ w h
  have R := Coded.read [(0x02, 26, 2), (d.val, 20, 6), (a.val, 14, 6), (b.val, 8, 6), (0x02, 0, 2)] h rfl
    ⟨by decide, d.isLt, a.isLt, b.isLt, by decide, trivial⟩
  have eScalar := Coded.arm_Scalar_2 w (R _ _ _ rfl)
  have eMulGroup := Coded.arm_MulGroup_2 w (R _ _ _ rfl)
  show decodeScalar w = _
  rw [eScalar, eMulGroup]
  rw [Coded.fld_eq w 20 6 d (R _ _ _ rfl),
    Coded.fld_eq w 14 6 a (R _ _ _ rfl),
    Coded.fld_eq w 8 6 b (R _ _ _ rfl)]
  rfl

theorem Coded.div (d : Fin 64) (a : Fin 64) (b : Fin 64) : Coded.Statement (.div d a b) := by
  intro _ w h
  have R := Coded.read [(0x02, 26, 2), (d.val, 20, 6), (a.val, 14, 6), (b.val, 8, 6), (0x03, 0, 2)] h rfl
    ⟨by decide, d.isLt, a.isLt, b.isLt, by decide, trivial⟩
  have eScalar := Coded.arm_Scalar_2 w (R _ _ _ rfl)
  have eMulGroup := Coded.arm_MulGroup_3 w (R _ _ _ rfl)
  show decodeScalar w = _
  rw [eScalar, eMulGroup]
  rw [Coded.fld_eq w 20 6 d (R _ _ _ rfl),
    Coded.fld_eq w 14 6 a (R _ _ _ rfl),
    Coded.fld_eq w 8 6 b (R _ _ _ rfl)]
  rfl

theorem Coded.divn (d : Fin 64) (a : Fin 64) (b : Fin 64) : Coded.Statement (.divn d a b) := by
  intro _ w h
  have R := Coded.read [(0x02, 26, 2), (d.val, 20, 6), (a.val, 14, 6), (b.val, 8, 6), (0x04, 0, 3)] h rfl
    ⟨by decide, d.isLt, a.isLt, b.isLt, by decide, trivial⟩
  have eScalar := Coded.arm_Scalar_2 w (R _ _ _ rfl)
  have eMulGroup := Coded.arm_MulGroup_4 w (R _ _ _ rfl)
  show decodeScalar w = _
  rw [eScalar, eMulGroup]
  rw [Coded.fld_eq w 20 6 d (R _ _ _ rfl),
    Coded.fld_eq w 14 6 a (R _ _ _ rfl),
    Coded.fld_eq w 8 6 b (R _ _ _ rfl)]
  rfl

theorem Coded.rem (d : Fin 64) (a : Fin 64) (b : Fin 64) : Coded.Statement (.rem d a b) := by
  intro _ w h
  have R := Coded.read [(0x02, 26, 2), (d.val, 20, 6), (a.val, 14, 6), (b.val, 8, 6), (0x05, 0, 3)] h rfl
    ⟨by decide, d.isLt, a.isLt, b.isLt, by decide, trivial⟩
  have eScalar := Coded.arm_Scalar_2 w (R _ _ _ rfl)
  have eMulGroup := Coded.arm_MulGroup_5 w (R _ _ _ rfl)
  show decodeScalar w = _
  rw [eScalar, eMulGroup]
  rw [Coded.fld_eq w 20 6 d (R _ _ _ rfl),
    Coded.fld_eq w 14 6 a (R _ _ _ rfl),
    Coded.fld_eq w 8 6 b (R _ _ _ rfl)]
  rfl

theorem Coded.remn (d : Fin 64) (a : Fin 64) (b : Fin 64) : Coded.Statement (.remn d a b) := by
  intro _ w h
  have R := Coded.read [(0x02, 26, 2), (d.val, 20, 6), (a.val, 14, 6), (b.val, 8, 6), (0x06, 0, 3)] h rfl
    ⟨by decide, d.isLt, a.isLt, b.isLt, by decide, trivial⟩
  have eScalar := Coded.arm_Scalar_2 w (R _ _ _ rfl)
  have eMulGroup := Coded.arm_MulGroup_6 w (R _ _ _ rfl)
  show decodeScalar w = _
  rw [eScalar, eMulGroup]
  rw [Coded.fld_eq w 20 6 d (R _ _ _ rfl),
    Coded.fld_eq w 14 6 a (R _ _ _ rfl),
    Coded.fld_eq w 8 6 b (R _ _ _ rfl)]
  rfl

theorem Coded.addi (d : Fin 64) (a : Fin 64) (i : BitVec 14) : Coded.Statement (.addi d a i) := by
  intro _ w h
  have R := Coded.read [(0x03, 26, 2), (d.val, 20, 6), (a.val, 14, 6), (i.toNat, 0, 14)] h rfl
    ⟨by decide, d.isLt, a.isLt, i.isLt, trivial⟩
  have eScalar := Coded.arm_Scalar_3 w (R _ _ _ rfl)
  show decodeScalar w = _
  rw [eScalar]
  rw [Coded.fld_eq w 20 6 d (R _ _ _ rfl),
    Coded.fld_eq w 14 6 a (R _ _ _ rfl),
    Coded.bfld_eq w 0 14 i (R _ _ _ rfl)]
  rfl

theorem Coded.andi (d : Fin 64) (a : Fin 64) (i : BitVec 14) : Coded.Statement (.andi d a i) := by
  intro _ w h
  have R := Coded.read [(0x04, 26, 3), (d.val, 20, 6), (a.val, 14, 6), (i.toNat, 0, 14)] h rfl
    ⟨by decide, d.isLt, a.isLt, i.isLt, trivial⟩
  have eScalar := Coded.arm_Scalar_4 w (R _ _ _ rfl)
  show decodeScalar w = _
  rw [eScalar]
  rw [Coded.fld_eq w 20 6 d (R _ _ _ rfl),
    Coded.fld_eq w 14 6 a (R _ _ _ rfl),
    Coded.bfld_eq w 0 14 i (R _ _ _ rfl)]
  rfl

theorem Coded.ori (d : Fin 64) (a : Fin 64) (i : BitVec 14) : Coded.Statement (.ori d a i) := by
  intro _ w h
  have R := Coded.read [(0x05, 26, 3), (d.val, 20, 6), (a.val, 14, 6), (i.toNat, 0, 14)] h rfl
    ⟨by decide, d.isLt, a.isLt, i.isLt, trivial⟩
  have eScalar := Coded.arm_Scalar_5 w (R _ _ _ rfl)
  show decodeScalar w = _
  rw [eScalar]
  rw [Coded.fld_eq w 20 6 d (R _ _ _ rfl),
    Coded.fld_eq w 14 6 a (R _ _ _ rfl),
    Coded.bfld_eq w 0 14 i (R _ _ _ rfl)]
  rfl

theorem Coded.xori (d : Fin 64) (a : Fin 64) (i : BitVec 14) : Coded.Statement (.xori d a i) := by
  intro _ w h
  have R := Coded.read [(0x06, 26, 3), (d.val, 20, 6), (a.val, 14, 6), (i.toNat, 0, 14)] h rfl
    ⟨by decide, d.isLt, a.isLt, i.isLt, trivial⟩
  have eScalar := Coded.arm_Scalar_6 w (R _ _ _ rfl)
  show decodeScalar w = _
  rw [eScalar]
  rw [Coded.fld_eq w 20 6 d (R _ _ _ rfl),
    Coded.fld_eq w 14 6 a (R _ _ _ rfl),
    Coded.bfld_eq w 0 14 i (R _ _ _ rfl)]
  rfl

theorem Coded.shli (d : Fin 64) (a : Fin 64) (n : BitVec 6) : Coded.Statement (.shli d a n) := by
  intro _ w h
  have R := Coded.read [(0x07, 26, 3), (d.val, 20, 6), (a.val, 14, 6), (n.toNat, 0, 6)] h rfl
    ⟨by decide, d.isLt, a.isLt, n.isLt, trivial⟩
  have eScalar := Coded.arm_Scalar_7 w (R _ _ _ rfl)
  have eShiftImm := Coded.arm_ShiftImm_0 w (R _ _ _ rfl)
  show decodeScalar w = _
  rw [eScalar, eShiftImm]
  rw [Coded.fld_eq w 20 6 d (R _ _ _ rfl),
    Coded.fld_eq w 14 6 a (R _ _ _ rfl),
    Coded.bfld_eq w 0 6 n (R _ _ _ rfl)]
  rfl

theorem Coded.shri (d : Fin 64) (a : Fin 64) (n : BitVec 6) : Coded.Statement (.shri d a n) := by
  intro _ w h
  have R := Coded.read [(0x07, 26, 3), (d.val, 20, 6), (a.val, 14, 6), (0x40, 6, 7), (n.toNat, 0, 6)] h rfl
    ⟨by decide, d.isLt, a.isLt, by decide, n.isLt, trivial⟩
  have eScalar := Coded.arm_Scalar_7 w (R _ _ _ rfl)
  have eShiftImm := Coded.arm_ShiftImm_64 w (R _ _ _ rfl)
  show decodeScalar w = _
  rw [eScalar, eShiftImm]
  rw [Coded.fld_eq w 20 6 d (R _ _ _ rfl),
    Coded.fld_eq w 14 6 a (R _ _ _ rfl),
    Coded.bfld_eq w 0 6 n (R _ _ _ rfl)]
  rfl

theorem Coded.sari (d : Fin 64) (a : Fin 64) (n : BitVec 6) : Coded.Statement (.sari d a n) := by
  intro _ w h
  have R := Coded.read [(0x07, 26, 3), (d.val, 20, 6), (a.val, 14, 6), (0x80, 6, 8), (n.toNat, 0, 6)] h rfl
    ⟨by decide, d.isLt, a.isLt, by decide, n.isLt, trivial⟩
  have eScalar := Coded.arm_Scalar_7 w (R _ _ _ rfl)
  have eShiftImm := Coded.arm_ShiftImm_128 w (R _ _ _ rfl)
  show decodeScalar w = _
  rw [eScalar, eShiftImm]
  rw [Coded.fld_eq w 20 6 d (R _ _ _ rfl),
    Coded.fld_eq w 14 6 a (R _ _ _ rfl),
    Coded.bfld_eq w 0 6 n (R _ _ _ rfl)]
  rfl

theorem Coded.roli (d : Fin 64) (a : Fin 64) (n : BitVec 6) : Coded.Statement (.roli d a n) := by
  intro _ w h
  have R := Coded.read [(0x07, 26, 3), (d.val, 20, 6), (a.val, 14, 6), (0xC0, 6, 8), (n.toNat, 0, 6)] h rfl
    ⟨by decide, d.isLt, a.isLt, by decide, n.isLt, trivial⟩
  have eScalar := Coded.arm_Scalar_7 w (R _ _ _ rfl)
  have eShiftImm := Coded.arm_ShiftImm_192 w (R _ _ _ rfl)
  show decodeScalar w = _
  rw [eScalar, eShiftImm]
  rw [Coded.fld_eq w 20 6 d (R _ _ _ rfl),
    Coded.fld_eq w 14 6 a (R _ _ _ rfl),
    Coded.bfld_eq w 0 6 n (R _ _ _ rfl)]
  rfl

theorem Coded.cmpiEq (d : Fin 64) (a : Fin 64) (i : BitVec 11) : Coded.Statement (.cmpiEq d a i) := by
  intro _ w h
  have R := Coded.read [(0x08, 26, 4), (d.val, 20, 6), (a.val, 14, 6), (i.toNat, 0, 11)] h rfl
    ⟨by decide, d.isLt, a.isLt, i.isLt, trivial⟩
  have eScalar := Coded.arm_Scalar_8 w (R _ _ _ rfl)
  have eCmpImm := Coded.arm_CmpImm_0 w (R _ _ _ rfl)
  show decodeScalar w = _
  rw [eScalar, eCmpImm]
  rw [Coded.fld_eq w 20 6 d (R _ _ _ rfl),
    Coded.fld_eq w 14 6 a (R _ _ _ rfl),
    Coded.bfld_eq w 0 11 i (R _ _ _ rfl)]
  rfl

theorem Coded.cmpiNe (d : Fin 64) (a : Fin 64) (i : BitVec 11) : Coded.Statement (.cmpiNe d a i) := by
  intro _ w h
  have R := Coded.read [(0x08, 26, 4), (d.val, 20, 6), (a.val, 14, 6), (0x01, 11, 1), (i.toNat, 0, 11)] h rfl
    ⟨by decide, d.isLt, a.isLt, by decide, i.isLt, trivial⟩
  have eScalar := Coded.arm_Scalar_8 w (R _ _ _ rfl)
  have eCmpImm := Coded.arm_CmpImm_1 w (R _ _ _ rfl)
  show decodeScalar w = _
  rw [eScalar, eCmpImm]
  rw [Coded.fld_eq w 20 6 d (R _ _ _ rfl),
    Coded.fld_eq w 14 6 a (R _ _ _ rfl),
    Coded.bfld_eq w 0 11 i (R _ _ _ rfl)]
  rfl

theorem Coded.cmpiLt (d : Fin 64) (a : Fin 64) (i : BitVec 11) : Coded.Statement (.cmpiLt d a i) := by
  intro _ w h
  have R := Coded.read [(0x08, 26, 4), (d.val, 20, 6), (a.val, 14, 6), (0x02, 11, 2), (i.toNat, 0, 11)] h rfl
    ⟨by decide, d.isLt, a.isLt, by decide, i.isLt, trivial⟩
  have eScalar := Coded.arm_Scalar_8 w (R _ _ _ rfl)
  have eCmpImm := Coded.arm_CmpImm_2 w (R _ _ _ rfl)
  show decodeScalar w = _
  rw [eScalar, eCmpImm]
  rw [Coded.fld_eq w 20 6 d (R _ _ _ rfl),
    Coded.fld_eq w 14 6 a (R _ _ _ rfl),
    Coded.bfld_eq w 0 11 i (R _ _ _ rfl)]
  rfl

theorem Coded.cmpiLe (d : Fin 64) (a : Fin 64) (i : BitVec 11) : Coded.Statement (.cmpiLe d a i) := by
  intro _ w h
  have R := Coded.read [(0x08, 26, 4), (d.val, 20, 6), (a.val, 14, 6), (0x03, 11, 2), (i.toNat, 0, 11)] h rfl
    ⟨by decide, d.isLt, a.isLt, by decide, i.isLt, trivial⟩
  have eScalar := Coded.arm_Scalar_8 w (R _ _ _ rfl)
  have eCmpImm := Coded.arm_CmpImm_3 w (R _ _ _ rfl)
  show decodeScalar w = _
  rw [eScalar, eCmpImm]
  rw [Coded.fld_eq w 20 6 d (R _ _ _ rfl),
    Coded.fld_eq w 14 6 a (R _ _ _ rfl),
    Coded.bfld_eq w 0 11 i (R _ _ _ rfl)]
  rfl

theorem Coded.cmpiLtn (d : Fin 64) (a : Fin 64) (i : BitVec 11) : Coded.Statement (.cmpiLtn d a i) := by
  intro _ w h
  have R := Coded.read [(0x08, 26, 4), (d.val, 20, 6), (a.val, 14, 6), (0x04, 11, 3), (i.toNat, 0, 11)] h rfl
    ⟨by decide, d.isLt, a.isLt, by decide, i.isLt, trivial⟩
  have eScalar := Coded.arm_Scalar_8 w (R _ _ _ rfl)
  have eCmpImm := Coded.arm_CmpImm_4 w (R _ _ _ rfl)
  show decodeScalar w = _
  rw [eScalar, eCmpImm]
  rw [Coded.fld_eq w 20 6 d (R _ _ _ rfl),
    Coded.fld_eq w 14 6 a (R _ _ _ rfl),
    Coded.bfld_eq w 0 11 i (R _ _ _ rfl)]
  rfl

theorem Coded.cmpiLen (d : Fin 64) (a : Fin 64) (i : BitVec 11) : Coded.Statement (.cmpiLen d a i) := by
  intro _ w h
  have R := Coded.read [(0x08, 26, 4), (d.val, 20, 6), (a.val, 14, 6), (0x05, 11, 3), (i.toNat, 0, 11)] h rfl
    ⟨by decide, d.isLt, a.isLt, by decide, i.isLt, trivial⟩
  have eScalar := Coded.arm_Scalar_8 w (R _ _ _ rfl)
  have eCmpImm := Coded.arm_CmpImm_5 w (R _ _ _ rfl)
  show decodeScalar w = _
  rw [eScalar, eCmpImm]
  rw [Coded.fld_eq w 20 6 d (R _ _ _ rfl),
    Coded.fld_eq w 14 6 a (R _ _ _ rfl),
    Coded.bfld_eq w 0 11 i (R _ _ _ rfl)]
  rfl

theorem Coded.bfxN (d : Fin 64) (a : Fin 64) (l : BitVec 6) (p : BitVec 6) : Coded.Statement (.bfxN d a l p) := by
  intro _ w h
  have R := Coded.read [(0x09, 26, 4), (d.val, 20, 6), (a.val, 14, 6), (l.toNat, 6, 6), (p.toNat, 0, 6)] h rfl
    ⟨by decide, d.isLt, a.isLt, l.isLt, p.isLt, trivial⟩
  have eScalar := Coded.arm_Scalar_9 w (R _ _ _ rfl)
  have eBfxGroup := Coded.arm_BfxGroup_0 w (R _ _ _ rfl)
  show decodeScalar w = _
  rw [eScalar, eBfxGroup]
  rw [Coded.fld_eq w 20 6 d (R _ _ _ rfl),
    Coded.fld_eq w 14 6 a (R _ _ _ rfl),
    Coded.bfld_eq w 6 6 l (R _ _ _ rfl),
    Coded.bfld_eq w 0 6 p (R _ _ _ rfl)]
  rfl

theorem Coded.bfxI (d : Fin 64) (a : Fin 64) (l : BitVec 6) (p : BitVec 6) : Coded.Statement (.bfxI d a l p) := by
  intro _ w h
  have R := Coded.read [(0x09, 26, 4), (d.val, 20, 6), (a.val, 14, 6), (0x01, 12, 1), (l.toNat, 6, 6), (p.toNat, 0, 6)] h rfl
    ⟨by decide, d.isLt, a.isLt, by decide, l.isLt, p.isLt, trivial⟩
  have eScalar := Coded.arm_Scalar_9 w (R _ _ _ rfl)
  have eBfxGroup := Coded.arm_BfxGroup_1 w (R _ _ _ rfl)
  show decodeScalar w = _
  rw [eScalar, eBfxGroup]
  rw [Coded.fld_eq w 20 6 d (R _ _ _ rfl),
    Coded.fld_eq w 14 6 a (R _ _ _ rfl),
    Coded.bfld_eq w 6 6 l (R _ _ _ rfl),
    Coded.bfld_eq w 0 6 p (R _ _ _ rfl)]
  rfl

theorem Coded.bfi (d : Fin 64) (a : Fin 64) (l : BitVec 6) (p : BitVec 6) : Coded.Statement (.bfi d a l p) := by
  intro _ w h
  have R := Coded.read [(0x0A, 26, 4), (d.val, 20, 6), (a.val, 14, 6), (l.toNat, 6, 6), (p.toNat, 0, 6)] h rfl
    ⟨by decide, d.isLt, a.isLt, l.isLt, p.isLt, trivial⟩
  have eScalar := Coded.arm_Scalar_10 w (R _ _ _ rfl)
  show decodeScalar w = _
  rw [eScalar, if_pos (R _ _ _ rfl)]
  rw [Coded.fld_eq w 20 6 d (R _ _ _ rfl),
    Coded.fld_eq w 14 6 a (R _ _ _ rfl),
    Coded.bfld_eq w 6 6 l (R _ _ _ rfl),
    Coded.bfld_eq w 0 6 p (R _ _ _ rfl)]
  rfl

theorem Coded.fshl (d : Fin 64) (a : Fin 64) (b : Fin 64) (n : BitVec 6) : Coded.Statement (.fshl d a b n) := by
  intro _ w h
  have R := Coded.read [(0x0B, 26, 4), (d.val, 20, 6), (a.val, 14, 6), (b.val, 8, 6), (n.toNat, 0, 6)] h rfl
    ⟨by decide, d.isLt, a.isLt, b.isLt, n.isLt, trivial⟩
  have eScalar := Coded.arm_Scalar_11 w (R _ _ _ rfl)
  have eFunnelImm := Coded.arm_FunnelImm_0 w (R _ _ _ rfl)
  show decodeScalar w = _
  rw [eScalar, eFunnelImm]
  rw [Coded.fld_eq w 20 6 d (R _ _ _ rfl),
    Coded.fld_eq w 14 6 a (R _ _ _ rfl),
    Coded.fld_eq w 8 6 b (R _ _ _ rfl),
    Coded.bfld_eq w 0 6 n (R _ _ _ rfl)]
  rfl

theorem Coded.fshr (d : Fin 64) (a : Fin 64) (b : Fin 64) (n : BitVec 6) : Coded.Statement (.fshr d a b n) := by
  intro _ w h
  have R := Coded.read [(0x0B, 26, 4), (d.val, 20, 6), (a.val, 14, 6), (b.val, 8, 6), (0x01, 6, 1), (n.toNat, 0, 6)] h rfl
    ⟨by decide, d.isLt, a.isLt, b.isLt, by decide, n.isLt, trivial⟩
  have eScalar := Coded.arm_Scalar_11 w (R _ _ _ rfl)
  have eFunnelImm := Coded.arm_FunnelImm_1 w (R _ _ _ rfl)
  show decodeScalar w = _
  rw [eScalar, eFunnelImm]
  rw [Coded.fld_eq w 20 6 d (R _ _ _ rfl),
    Coded.fld_eq w 14 6 a (R _ _ _ rfl),
    Coded.fld_eq w 8 6 b (R _ _ _ rfl),
    Coded.bfld_eq w 0 6 n (R _ _ _ rfl)]
  rfl

theorem Coded.fshlv (d : Fin 64) (a : Fin 64) (b : Fin 64) (c : Fin 64) : Coded.Statement (.fshlv d a b c) := by
  intro _ w h
  have R := Coded.read [(0x0C, 26, 4), (d.val, 20, 6), (a.val, 14, 6), (b.val, 8, 6), (c.val, 0, 6)] h rfl
    ⟨by decide, d.isLt, a.isLt, b.isLt, c.isLt, trivial⟩
  have eScalar := Coded.arm_Scalar_12 w (R _ _ _ rfl)
  have eFunnelReg := Coded.arm_FunnelReg_0 w (R _ _ _ rfl)
  show decodeScalar w = _
  rw [eScalar, eFunnelReg]
  rw [Coded.fld_eq w 20 6 d (R _ _ _ rfl),
    Coded.fld_eq w 14 6 a (R _ _ _ rfl),
    Coded.fld_eq w 8 6 b (R _ _ _ rfl),
    Coded.fld_eq w 0 6 c (R _ _ _ rfl)]
  rfl

theorem Coded.fshrv (d : Fin 64) (a : Fin 64) (b : Fin 64) (c : Fin 64) : Coded.Statement (.fshrv d a b c) := by
  intro _ w h
  have R := Coded.read [(0x0C, 26, 4), (d.val, 20, 6), (a.val, 14, 6), (b.val, 8, 6), (0x01, 6, 1), (c.val, 0, 6)] h rfl
    ⟨by decide, d.isLt, a.isLt, b.isLt, by decide, c.isLt, trivial⟩
  have eScalar := Coded.arm_Scalar_12 w (R _ _ _ rfl)
  have eFunnelReg := Coded.arm_FunnelReg_1 w (R _ _ _ rfl)
  show decodeScalar w = _
  rw [eScalar, eFunnelReg]
  rw [Coded.fld_eq w 20 6 d (R _ _ _ rfl),
    Coded.fld_eq w 14 6 a (R _ _ _ rfl),
    Coded.fld_eq w 8 6 b (R _ _ _ rfl),
    Coded.fld_eq w 0 6 c (R _ _ _ rfl)]
  rfl

theorem Coded.sel (d : Fin 64) (a : Fin 64) (b : Fin 64) (c : Fin 64) : Coded.Statement (.sel d a b c) := by
  intro _ w h
  have R := Coded.read [(0x0D, 26, 4), (d.val, 20, 6), (a.val, 14, 6), (b.val, 8, 6), (c.val, 0, 6)] h rfl
    ⟨by decide, d.isLt, a.isLt, b.isLt, c.isLt, trivial⟩
  have eScalar := Coded.arm_Scalar_13 w (R _ _ _ rfl)
  show decodeScalar w = _
  rw [eScalar, if_pos (R _ _ _ rfl)]
  rw [Coded.fld_eq w 20 6 d (R _ _ _ rfl),
    Coded.fld_eq w 14 6 a (R _ _ _ rfl),
    Coded.fld_eq w 8 6 b (R _ _ _ rfl),
    Coded.fld_eq w 0 6 c (R _ _ _ rfl)]
  rfl

theorem Coded.li (d : Fin 64) (i : BitVec 20) : Coded.Statement (.li d i) := by
  intro _ w h
  have R := Coded.read [(0x10, 26, 5), (d.val, 20, 6), (i.toNat, 0, 20)] h rfl
    ⟨by decide, d.isLt, i.isLt, trivial⟩
  have eScalar := Coded.arm_Scalar_16 w (R _ _ _ rfl)
  show decodeScalar w = _
  rw [eScalar]
  rw [Coded.fld_eq w 20 6 d (R _ _ _ rfl),
    Coded.bfld_eq w 0 20 i (R _ _ _ rfl)]
  rfl

theorem Coded.liu (d : Fin 64) (i : BitVec 20) : Coded.Statement (.liu d i) := by
  intro _ w h
  have R := Coded.read [(0x11, 26, 5), (d.val, 20, 6), (i.toNat, 0, 20)] h rfl
    ⟨by decide, d.isLt, i.isLt, trivial⟩
  have eScalar := Coded.arm_Scalar_17 w (R _ _ _ rfl)
  show decodeScalar w = _
  rw [eScalar]
  rw [Coded.fld_eq w 20 6 d (R _ _ _ rfl),
    Coded.bfld_eq w 0 20 i (R _ _ _ rfl)]
  rfl

theorem Coded.mfs (d : Fin 64) (n : BitVec 14) : Coded.Statement (.mfs d n) := by
  intro _ w h
  have R := Coded.read [(0x12, 26, 5), (d.val, 20, 6), (n.toNat, 0, 14)] h rfl
    ⟨by decide, d.isLt, n.isLt, trivial⟩
  have eScalar := Coded.arm_Scalar_18 w (R _ _ _ rfl)
  show decodeScalar w = _
  rw [eScalar, if_pos (R _ _ _ rfl)]
  rw [Coded.fld_eq w 20 6 d (R _ _ _ rfl),
    Coded.bfld_eq w 0 14 n (R _ _ _ rfl)]
  rfl

theorem Coded.mts (a : Fin 64) (n : BitVec 14) : Coded.Statement (.mts a n) := by
  intro _ w h
  have R := Coded.read [(0x13, 26, 5), (a.val, 14, 6), (n.toNat, 0, 14)] h rfl
    ⟨by decide, a.isLt, n.isLt, trivial⟩
  have eScalar := Coded.arm_Scalar_19 w (R _ _ _ rfl)
  show decodeScalar w = _
  rw [eScalar, if_pos (R _ _ _ rfl)]
  rw [Coded.fld_eq w 14 6 a (R _ _ _ rfl),
    Coded.bfld_eq w 0 14 n (R _ _ _ rfl)]
  rfl

theorem Coded.clk (d : Fin 64) : Coded.Statement (.clk d) := by
  intro _ w h
  have R := Coded.read [(0x14, 26, 5), (d.val, 20, 6)] h rfl
    ⟨by decide, d.isLt, trivial⟩
  have eScalar := Coded.arm_Scalar_20 w (R _ _ _ rfl)
  show decodeScalar w = _
  rw [eScalar, if_pos (R _ _ _ rfl)]
  rw [Coded.fld_eq w 20 6 d (R _ _ _ rfl)]
  rfl

theorem Coded.coreidLog (d : Fin 64) : Coded.Statement (.coreidLog d) := by
  intro _ w h
  have R := Coded.read [(0x15, 26, 5), (d.val, 20, 6)] h rfl
    ⟨by decide, d.isLt, trivial⟩
  have eScalar := Coded.arm_Scalar_21 w (R _ _ _ rfl)
  have eCoreidGroup := Coded.arm_CoreidGroup_0 w (R _ _ _ rfl)
  show decodeScalar w = _
  rw [eScalar, eCoreidGroup]
  rw [Coded.fld_eq w 20 6 d (R _ _ _ rfl)]
  rfl

theorem Coded.coreidPhys (d : Fin 64) : Coded.Statement (.coreidPhys d) := by
  intro _ w h
  have R := Coded.read [(0x15, 26, 5), (d.val, 20, 6), (0x01, 0, 1)] h rfl
    ⟨by decide, d.isLt, by decide, trivial⟩
  have eScalar := Coded.arm_Scalar_21 w (R _ _ _ rfl)
  have eCoreidGroup := Coded.arm_CoreidGroup_1 w (R _ _ _ rfl)
  show decodeScalar w = _
  rw [eScalar, eCoreidGroup]
  rw [Coded.fld_eq w 20 6 d (R _ _ _ rfl)]
  rfl

theorem Coded.brZ (a : Fin 64) (i : BitVec 16) : Coded.Statement (.brZ a i) := by
  intro _ w h
  have R := Coded.read [(0x18, 26, 5), (a.val, 16, 6), (i.toNat, 0, 16)] h rfl
    ⟨by decide, a.isLt, i.isLt, trivial⟩
  have eScalar := Coded.arm_Scalar_24 w (R _ _ _ rfl)
  have eBranchGroup := Coded.arm_BranchGroup_0 w (R _ _ _ rfl)
  show decodeScalar w = _
  rw [eScalar, eBranchGroup]
  rw [Coded.fld_eq w 16 6 a (R _ _ _ rfl),
    Coded.bfld_eq w 0 16 i (R _ _ _ rfl)]
  rfl

theorem Coded.brNz (a : Fin 64) (i : BitVec 16) : Coded.Statement (.brNz a i) := by
  intro _ w h
  have R := Coded.read [(0x18, 26, 5), (0x01, 22, 1), (a.val, 16, 6), (i.toNat, 0, 16)] h rfl
    ⟨by decide, by decide, a.isLt, i.isLt, trivial⟩
  have eScalar := Coded.arm_Scalar_24 w (R _ _ _ rfl)
  have eBranchGroup := Coded.arm_BranchGroup_1 w (R _ _ _ rfl)
  show decodeScalar w = _
  rw [eScalar, eBranchGroup]
  rw [Coded.fld_eq w 16 6 a (R _ _ _ rfl),
    Coded.bfld_eq w 0 16 i (R _ _ _ rfl)]
  rfl

theorem Coded.brNeg (a : Fin 64) (i : BitVec 16) : Coded.Statement (.brNeg a i) := by
  intro _ w h
  have R := Coded.read [(0x18, 26, 5), (0x02, 22, 2), (a.val, 16, 6), (i.toNat, 0, 16)] h rfl
    ⟨by decide, by decide, a.isLt, i.isLt, trivial⟩
  have eScalar := Coded.arm_Scalar_24 w (R _ _ _ rfl)
  have eBranchGroup := Coded.arm_BranchGroup_2 w (R _ _ _ rfl)
  show decodeScalar w = _
  rw [eScalar, eBranchGroup]
  rw [Coded.fld_eq w 16 6 a (R _ _ _ rfl),
    Coded.bfld_eq w 0 16 i (R _ _ _ rfl)]
  rfl

theorem Coded.brNneg (a : Fin 64) (i : BitVec 16) : Coded.Statement (.brNneg a i) := by
  intro _ w h
  have R := Coded.read [(0x18, 26, 5), (0x03, 22, 2), (a.val, 16, 6), (i.toNat, 0, 16)] h rfl
    ⟨by decide, by decide, a.isLt, i.isLt, trivial⟩
  have eScalar := Coded.arm_Scalar_24 w (R _ _ _ rfl)
  have eBranchGroup := Coded.arm_BranchGroup_3 w (R _ _ _ rfl)
  show decodeScalar w = _
  rw [eScalar, eBranchGroup]
  rw [Coded.fld_eq w 16 6 a (R _ _ _ rfl),
    Coded.bfld_eq w 0 16 i (R _ _ _ rfl)]
  rfl

theorem Coded.brPos (a : Fin 64) (i : BitVec 16) : Coded.Statement (.brPos a i) := by
  intro _ w h
  have R := Coded.read [(0x18, 26, 5), (0x04, 22, 3), (a.val, 16, 6), (i.toNat, 0, 16)] h rfl
    ⟨by decide, by decide, a.isLt, i.isLt, trivial⟩
  have eScalar := Coded.arm_Scalar_24 w (R _ _ _ rfl)
  have eBranchGroup := Coded.arm_BranchGroup_4 w (R _ _ _ rfl)
  show decodeScalar w = _
  rw [eScalar, eBranchGroup]
  rw [Coded.fld_eq w 16 6 a (R _ _ _ rfl),
    Coded.bfld_eq w 0 16 i (R _ _ _ rfl)]
  rfl

theorem Coded.brNpos (a : Fin 64) (i : BitVec 16) : Coded.Statement (.brNpos a i) := by
  intro _ w h
  have R := Coded.read [(0x18, 26, 5), (0x05, 22, 3), (a.val, 16, 6), (i.toNat, 0, 16)] h rfl
    ⟨by decide, by decide, a.isLt, i.isLt, trivial⟩
  have eScalar := Coded.arm_Scalar_24 w (R _ _ _ rfl)
  have eBranchGroup := Coded.arm_BranchGroup_5 w (R _ _ _ rfl)
  show decodeScalar w = _
  rw [eScalar, eBranchGroup]
  rw [Coded.fld_eq w 16 6 a (R _ _ _ rfl),
    Coded.bfld_eq w 0 16 i (R _ _ _ rfl)]
  rfl

theorem Coded.br (i : BitVec 16) : Coded.Statement (.br i) := by
  intro _ w h
  have R := Coded.read [(0x18, 26, 5), (0x06, 22, 3), (i.toNat, 0, 16)] h rfl
    ⟨by decide, by decide, i.isLt, trivial⟩
  have eScalar := Coded.arm_Scalar_24 w (R _ _ _ rfl)
  have eBranchGroup := Coded.arm_BranchGroup_6 w (R _ _ _ rfl)
  show decodeScalar w = _
  rw [eScalar, eBranchGroup, if_pos (R _ _ _ rfl)]
  rw [Coded.bfld_eq w 0 16 i (R _ _ _ rfl)]
  rfl

theorem Coded.jmp (a : Fin 64) : Coded.Statement (.jmp a) := by
  intro _ w h
  have R := Coded.read [(0x19, 26, 5), (a.val, 14, 6)] h rfl
    ⟨by decide, a.isLt, trivial⟩
  have eScalar := Coded.arm_Scalar_25 w (R _ _ _ rfl)
  show decodeScalar w = _
  rw [eScalar, if_pos ⟨R _ _ _ rfl, R _ _ _ rfl⟩]
  rw [Coded.fld_eq w 14 6 a (R _ _ _ rfl)]
  rfl

theorem Coded.call (i : BitVec 20) : Coded.Statement (.call i) := by
  intro _ w h
  have R := Coded.read [(0x1A, 26, 5), (i.toNat, 0, 20)] h rfl
    ⟨by decide, i.isLt, trivial⟩
  have eScalar := Coded.arm_Scalar_26 w (R _ _ _ rfl)
  show decodeScalar w = _
  rw [eScalar, if_pos (R _ _ _ rfl)]
  rw [Coded.bfld_eq w 0 20 i (R _ _ _ rfl)]
  rfl

theorem Coded.callr (a : Fin 64) : Coded.Statement (.callr a) := by
  intro _ w h
  have R := Coded.read [(0x1B, 26, 5), (a.val, 14, 6)] h rfl
    ⟨by decide, a.isLt, trivial⟩
  have eScalar := Coded.arm_Scalar_27 w (R _ _ _ rfl)
  show decodeScalar w = _
  rw [eScalar, if_pos ⟨R _ _ _ rfl, R _ _ _ rfl⟩]
  rw [Coded.fld_eq w 14 6 a (R _ _ _ rfl)]
  rfl

theorem Coded.chk (a : Fin 64) (i : BitVec 16) : Coded.Statement (.chk a i) := by
  intro _ w h
  have R := Coded.read [(0x1C, 26, 5), (a.val, 16, 6), (i.toNat, 0, 16)] h rfl
    ⟨by decide, a.isLt, i.isLt, trivial⟩
  have eScalar := Coded.arm_Scalar_28 w (R _ _ _ rfl)
  show decodeScalar w = _
  rw [eScalar, if_pos (R _ _ _ rfl)]
  rw [Coded.fld_eq w 16 6 a (R _ _ _ rfl),
    Coded.bfld_eq w 0 16 i (R _ _ _ rfl)]
  rfl

theorem Coded.ldI8 (d : Fin 64) (b : Fin 64) (c : Fin 16) (o : BitVec 10) : Coded.Statement (.ldI8 d b c o) := by
  intro _ w h
  have R := Coded.read [(0x20, 26, 6), (d.val, 20, 6), (b.val, 14, 6), (c.val, 10, 4), (o.toNat, 0, 10)] h rfl
    ⟨by decide, d.isLt, b.isLt, c.isLt, o.isLt, trivial⟩
  have eScalar := Coded.arm_Scalar_32 w (R _ _ _ rfl)
  show decodeScalar w = _
  rw [eScalar]
  rw [Coded.fld_eq w 20 6 d (R _ _ _ rfl),
    Coded.fld_eq w 14 6 b (R _ _ _ rfl),
    Coded.fld_eq w 10 4 c (R _ _ _ rfl),
    Coded.bfld_eq w 0 10 o (R _ _ _ rfl)]
  rfl

theorem Coded.ldN8 (d : Fin 64) (b : Fin 64) (c : Fin 16) (o : BitVec 10) : Coded.Statement (.ldN8 d b c o) := by
  intro _ w h
  have R := Coded.read [(0x21, 26, 6), (d.val, 20, 6), (b.val, 14, 6), (c.val, 10, 4), (o.toNat, 0, 10)] h rfl
    ⟨by decide, d.isLt, b.isLt, c.isLt, o.isLt, trivial⟩
  have eScalar := Coded.arm_Scalar_33 w (R _ _ _ rfl)
  show decodeScalar w = _
  rw [eScalar]
  rw [Coded.fld_eq w 20 6 d (R _ _ _ rfl),
    Coded.fld_eq w 14 6 b (R _ _ _ rfl),
    Coded.fld_eq w 10 4 c (R _ _ _ rfl),
    Coded.bfld_eq w 0 10 o (R _ _ _ rfl)]
  rfl

theorem Coded.ldI16 (d : Fin 64) (b : Fin 64) (c : Fin 16) (o : BitVec 10) : Coded.Statement (.ldI16 d b c o) := by
  intro _ w h
  have R := Coded.read [(0x22, 26, 6), (d.val, 20, 6), (b.val, 14, 6), (c.val, 10, 4), (o.toNat, 0, 10)] h rfl
    ⟨by decide, d.isLt, b.isLt, c.isLt, o.isLt, trivial⟩
  have eScalar := Coded.arm_Scalar_34 w (R _ _ _ rfl)
  show decodeScalar w = _
  rw [eScalar]
  rw [Coded.fld_eq w 20 6 d (R _ _ _ rfl),
    Coded.fld_eq w 14 6 b (R _ _ _ rfl),
    Coded.fld_eq w 10 4 c (R _ _ _ rfl),
    Coded.bfld_eq w 0 10 o (R _ _ _ rfl)]
  rfl

theorem Coded.ldN16 (d : Fin 64) (b : Fin 64) (c : Fin 16) (o : BitVec 10) : Coded.Statement (.ldN16 d b c o) := by
  intro _ w h
  have R := Coded.read [(0x23, 26, 6), (d.val, 20, 6), (b.val, 14, 6), (c.val, 10, 4), (o.toNat, 0, 10)] h rfl
    ⟨by decide, d.isLt, b.isLt, c.isLt, o.isLt, trivial⟩
  have eScalar := Coded.arm_Scalar_35 w (R _ _ _ rfl)
  show decodeScalar w = _
  rw [eScalar]
  rw [Coded.fld_eq w 20 6 d (R _ _ _ rfl),
    Coded.fld_eq w 14 6 b (R _ _ _ rfl),
    Coded.fld_eq w 10 4 c (R _ _ _ rfl),
    Coded.bfld_eq w 0 10 o (R _ _ _ rfl)]
  rfl

theorem Coded.ldI32 (d : Fin 64) (b : Fin 64) (c : Fin 16) (o : BitVec 10) : Coded.Statement (.ldI32 d b c o) := by
  intro _ w h
  have R := Coded.read [(0x24, 26, 6), (d.val, 20, 6), (b.val, 14, 6), (c.val, 10, 4), (o.toNat, 0, 10)] h rfl
    ⟨by decide, d.isLt, b.isLt, c.isLt, o.isLt, trivial⟩
  have eScalar := Coded.arm_Scalar_36 w (R _ _ _ rfl)
  show decodeScalar w = _
  rw [eScalar]
  rw [Coded.fld_eq w 20 6 d (R _ _ _ rfl),
    Coded.fld_eq w 14 6 b (R _ _ _ rfl),
    Coded.fld_eq w 10 4 c (R _ _ _ rfl),
    Coded.bfld_eq w 0 10 o (R _ _ _ rfl)]
  rfl

theorem Coded.ldN32 (d : Fin 64) (b : Fin 64) (c : Fin 16) (o : BitVec 10) : Coded.Statement (.ldN32 d b c o) := by
  intro _ w h
  have R := Coded.read [(0x25, 26, 6), (d.val, 20, 6), (b.val, 14, 6), (c.val, 10, 4), (o.toNat, 0, 10)] h rfl
    ⟨by decide, d.isLt, b.isLt, c.isLt, o.isLt, trivial⟩
  have eScalar := Coded.arm_Scalar_37 w (R _ _ _ rfl)
  show decodeScalar w = _
  rw [eScalar]
  rw [Coded.fld_eq w 20 6 d (R _ _ _ rfl),
    Coded.fld_eq w 14 6 b (R _ _ _ rfl),
    Coded.fld_eq w 10 4 c (R _ _ _ rfl),
    Coded.bfld_eq w 0 10 o (R _ _ _ rfl)]
  rfl

theorem Coded.ldI64 (d : Fin 64) (b : Fin 64) (c : Fin 16) (o : BitVec 10) : Coded.Statement (.ldI64 d b c o) := by
  intro _ w h
  have R := Coded.read [(0x26, 26, 6), (d.val, 20, 6), (b.val, 14, 6), (c.val, 10, 4), (o.toNat, 0, 10)] h rfl
    ⟨by decide, d.isLt, b.isLt, c.isLt, o.isLt, trivial⟩
  have eScalar := Coded.arm_Scalar_38 w (R _ _ _ rfl)
  show decodeScalar w = _
  rw [eScalar]
  rw [Coded.fld_eq w 20 6 d (R _ _ _ rfl),
    Coded.fld_eq w 14 6 b (R _ _ _ rfl),
    Coded.fld_eq w 10 4 c (R _ _ _ rfl),
    Coded.bfld_eq w 0 10 o (R _ _ _ rfl)]
  rfl

theorem Coded.ldSN32 (d : Fin 64) (b : Fin 64) (c : Fin 16) (o : BitVec 10) : Coded.Statement (.ldSN32 d b c o) := by
  intro _ w h
  have R := Coded.read [(0x27, 26, 6), (d.val, 20, 6), (b.val, 14, 6), (c.val, 10, 4), (o.toNat, 0, 10)] h rfl
    ⟨by decide, d.isLt, b.isLt, c.isLt, o.isLt, trivial⟩
  have eScalar := Coded.arm_Scalar_39 w (R _ _ _ rfl)
  show decodeScalar w = _
  rw [eScalar]
  rw [Coded.fld_eq w 20 6 d (R _ _ _ rfl),
    Coded.fld_eq w 14 6 b (R _ _ _ rfl),
    Coded.fld_eq w 10 4 c (R _ _ _ rfl),
    Coded.bfld_eq w 0 10 o (R _ _ _ rfl)]
  rfl

theorem Coded.ldSI64 (d : Fin 64) (b : Fin 64) (c : Fin 16) (o : BitVec 10) : Coded.Statement (.ldSI64 d b c o) := by
  intro _ w h
  have R := Coded.read [(0x28, 26, 6), (d.val, 20, 6), (b.val, 14, 6), (c.val, 10, 4), (o.toNat, 0, 10)] h rfl
    ⟨by decide, d.isLt, b.isLt, c.isLt, o.isLt, trivial⟩
  have eScalar := Coded.arm_Scalar_40 w (R _ _ _ rfl)
  show decodeScalar w = _
  rw [eScalar]
  rw [Coded.fld_eq w 20 6 d (R _ _ _ rfl),
    Coded.fld_eq w 14 6 b (R _ _ _ rfl),
    Coded.fld_eq w 10 4 c (R _ _ _ rfl),
    Coded.bfld_eq w 0 10 o (R _ _ _ rfl)]
  rfl

theorem Coded.st8 (d : Fin 64) (b : Fin 64) (c : Fin 16) (o : BitVec 10) : Coded.Statement (.st8 d b c o) := by
  intro _ w h
  have R := Coded.read [(0x29, 26, 6), (d.val, 20, 6), (b.val, 14, 6), (c.val, 10, 4), (o.toNat, 0, 10)] h rfl
    ⟨by decide, d.isLt, b.isLt, c.isLt, o.isLt, trivial⟩
  have eScalar := Coded.arm_Scalar_41 w (R _ _ _ rfl)
  show decodeScalar w = _
  rw [eScalar]
  rw [Coded.fld_eq w 20 6 d (R _ _ _ rfl),
    Coded.fld_eq w 14 6 b (R _ _ _ rfl),
    Coded.fld_eq w 10 4 c (R _ _ _ rfl),
    Coded.bfld_eq w 0 10 o (R _ _ _ rfl)]
  rfl

theorem Coded.st16 (d : Fin 64) (b : Fin 64) (c : Fin 16) (o : BitVec 10) : Coded.Statement (.st16 d b c o) := by
  intro _ w h
  have R := Coded.read [(0x2A, 26, 6), (d.val, 20, 6), (b.val, 14, 6), (c.val, 10, 4), (o.toNat, 0, 10)] h rfl
    ⟨by decide, d.isLt, b.isLt, c.isLt, o.isLt, trivial⟩
  have eScalar := Coded.arm_Scalar_42 w (R _ _ _ rfl)
  show decodeScalar w = _
  rw [eScalar]
  rw [Coded.fld_eq w 20 6 d (R _ _ _ rfl),
    Coded.fld_eq w 14 6 b (R _ _ _ rfl),
    Coded.fld_eq w 10 4 c (R _ _ _ rfl),
    Coded.bfld_eq w 0 10 o (R _ _ _ rfl)]
  rfl

theorem Coded.st32 (d : Fin 64) (b : Fin 64) (c : Fin 16) (o : BitVec 10) : Coded.Statement (.st32 d b c o) := by
  intro _ w h
  have R := Coded.read [(0x2B, 26, 6), (d.val, 20, 6), (b.val, 14, 6), (c.val, 10, 4), (o.toNat, 0, 10)] h rfl
    ⟨by decide, d.isLt, b.isLt, c.isLt, o.isLt, trivial⟩
  have eScalar := Coded.arm_Scalar_43 w (R _ _ _ rfl)
  show decodeScalar w = _
  rw [eScalar]
  rw [Coded.fld_eq w 20 6 d (R _ _ _ rfl),
    Coded.fld_eq w 14 6 b (R _ _ _ rfl),
    Coded.fld_eq w 10 4 c (R _ _ _ rfl),
    Coded.bfld_eq w 0 10 o (R _ _ _ rfl)]
  rfl

theorem Coded.st64 (d : Fin 64) (b : Fin 64) (c : Fin 16) (o : BitVec 10) : Coded.Statement (.st64 d b c o) := by
  intro _ w h
  have R := Coded.read [(0x2C, 26, 6), (d.val, 20, 6), (b.val, 14, 6), (c.val, 10, 4), (o.toNat, 0, 10)] h rfl
    ⟨by decide, d.isLt, b.isLt, c.isLt, o.isLt, trivial⟩
  have eScalar := Coded.arm_Scalar_44 w (R _ _ _ rfl)
  show decodeScalar w = _
  rw [eScalar]
  rw [Coded.fld_eq w 20 6 d (R _ _ _ rfl),
    Coded.fld_eq w 14 6 b (R _ _ _ rfl),
    Coded.fld_eq w 10 4 c (R _ _ _ rfl),
    Coded.bfld_eq w 0 10 o (R _ _ _ rfl)]
  rfl

theorem Coded.ldBlk (f : Fin 32) (a : Fin 64) (b : Fin 64) (r : BitVec 2) (c : Fin 16) : Coded.Statement (.ldBlk f a b r c) := by
  intro _ w h
  have R := Coded.read [(0x2D, 26, 6), (f.val, 20, 5), (a.val, 14, 6), (b.val, 8, 6), (r.toNat, 4, 2), (c.val, 0, 4)] h rfl
    ⟨by decide, f.isLt, a.isLt, b.isLt, r.isLt, c.isLt, trivial⟩
  have eScalar := Coded.arm_Scalar_45 w (R _ _ _ rfl)
  show decodeScalar w = _
  rw [eScalar, if_pos ⟨R _ _ _ rfl, R _ _ _ rfl⟩]
  rw [Coded.fld_eq w 20 5 f (R _ _ _ rfl),
    Coded.fld_eq w 14 6 a (R _ _ _ rfl),
    Coded.fld_eq w 8 6 b (R _ _ _ rfl),
    Coded.bfld_eq w 4 2 r (R _ _ _ rfl),
    Coded.fld_eq w 0 4 c (R _ _ _ rfl)]
  rfl

theorem Coded.amo32 (d : Fin 64) (a : Fin 64) (b : Fin 64) (p : BitVec 4) (c : Fin 16) : Coded.Statement (.amo32 d a b p c) := by
  intro _ w h
  have R := Coded.read [(0x2E, 26, 6), (d.val, 20, 6), (a.val, 14, 6), (b.val, 8, 6), (p.toNat, 4, 4), (c.val, 0, 4)] h rfl
    ⟨by decide, d.isLt, a.isLt, b.isLt, p.isLt, c.isLt, trivial⟩
  have eScalar := Coded.arm_Scalar_46 w (R _ _ _ rfl)
  show decodeScalar w = _
  rw [eScalar]
  rw [Coded.fld_eq w 20 6 d (R _ _ _ rfl),
    Coded.fld_eq w 14 6 a (R _ _ _ rfl),
    Coded.fld_eq w 8 6 b (R _ _ _ rfl),
    Coded.bfld_eq w 4 4 p (R _ _ _ rfl),
    Coded.fld_eq w 0 4 c (R _ _ _ rfl)]
  rfl

theorem Coded.amo64 (d : Fin 64) (a : Fin 64) (b : Fin 64) (p : BitVec 4) (c : Fin 16) : Coded.Statement (.amo64 d a b p c) := by
  intro _ w h
  have R := Coded.read [(0x2F, 26, 6), (d.val, 20, 6), (a.val, 14, 6), (b.val, 8, 6), (p.toNat, 4, 4), (c.val, 0, 4)] h rfl
    ⟨by decide, d.isLt, a.isLt, b.isLt, p.isLt, c.isLt, trivial⟩
  have eScalar := Coded.arm_Scalar_47 w (R _ _ _ rfl)
  show decodeScalar w = _
  rw [eScalar]
  rw [Coded.fld_eq w 20 6 d (R _ _ _ rfl),
    Coded.fld_eq w 14 6 a (R _ _ _ rfl),
    Coded.fld_eq w 8 6 b (R _ _ _ rfl),
    Coded.bfld_eq w 4 4 p (R _ _ _ rfl),
    Coded.fld_eq w 0 4 c (R _ _ _ rfl)]
  rfl

theorem Coded.rld (d : Fin 64) (a : Fin 64) (l : BitVec 14) : Coded.Statement (.rld d a l) := by
  intro _ w h
  have R := Coded.read [(0x30, 26, 6), (d.val, 20, 6), (a.val, 14, 6), (l.toNat, 0, 14)] h rfl
    ⟨by decide, d.isLt, a.isLt, l.isLt, trivial⟩
  have eScalar := Coded.arm_Scalar_48 w (R _ _ _ rfl)
  show decodeScalar w = _
  rw [eScalar]
  rw [Coded.fld_eq w 20 6 d (R _ _ _ rfl),
    Coded.fld_eq w 14 6 a (R _ _ _ rfl),
    Coded.bfld_eq w 0 14 l (R _ _ _ rfl)]
  rfl

theorem Coded.fenceC (m : BitVec 16) : Coded.Statement (.fenceC m) := by
  intro _ w h
  have R := Coded.read [(0x31, 26, 6), (m.toNat, 0, 16)] h rfl
    ⟨by decide, m.isLt, trivial⟩
  have eScalar := Coded.arm_Scalar_49 w (R _ _ _ rfl)
  show decodeScalar w = _
  rw [eScalar, if_pos (R _ _ _ rfl)]
  rw [Coded.bfld_eq w 0 16 m (R _ _ _ rfl)]
  rfl

theorem Coded.fenceP (p : BitVec 3) (q : BitVec 3) : Coded.Statement (.fenceP p q) := by
  intro _ w h
  have R := Coded.read [(0x32, 26, 6), (p.toNat, 3, 3), (q.toNat, 0, 3)] h rfl
    ⟨by decide, p.isLt, q.isLt, trivial⟩
  have eScalar := Coded.arm_Scalar_50 w (R _ _ _ rfl)
  show decodeScalar w = _
  rw [eScalar, if_pos (R _ _ _ rfl)]
  rw [Coded.bfld_eq w 3 3 p (R _ _ _ rfl),
    Coded.bfld_eq w 0 3 q (R _ _ _ rfl)]
  rfl

theorem Coded.sig (a : Fin 64) : Coded.Statement (.sig a) := by
  intro _ w h
  have R := Coded.read [(0x33, 26, 6), (a.val, 14, 6)] h rfl
    ⟨by decide, a.isLt, trivial⟩
  have eScalar := Coded.arm_Scalar_51 w (R _ _ _ rfl)
  have eFlagRing := Coded.arm_FlagRing_0 w (R _ _ _ rfl)
  show decodeScalar w = _
  rw [eScalar, eFlagRing, if_pos ⟨R _ _ _ rfl, R _ _ _ rfl⟩]
  rw [Coded.fld_eq w 14 6 a (R _ _ _ rfl)]
  rfl

theorem Coded.clrf (a : Fin 64) : Coded.Statement (.clrf a) := by
  intro _ w h
  have R := Coded.read [(0x33, 26, 6), (a.val, 14, 6), (0x01, 0, 1)] h rfl
    ⟨by decide, a.isLt, by decide, trivial⟩
  have eScalar := Coded.arm_Scalar_51 w (R _ _ _ rfl)
  have eFlagRing := Coded.arm_FlagRing_1 w (R _ _ _ rfl)
  show decodeScalar w = _
  rw [eScalar, eFlagRing, if_pos ⟨R _ _ _ rfl, R _ _ _ rfl⟩]
  rw [Coded.fld_eq w 14 6 a (R _ _ _ rfl)]
  rfl

theorem Coded.clrfErr (a : Fin 64) : Coded.Statement (.clrfErr a) := by
  intro _ w h
  have R := Coded.read [(0x33, 26, 6), (0x01, 20, 1), (a.val, 14, 6), (0x01, 0, 1)] h rfl
    ⟨by decide, by decide, a.isLt, by decide, trivial⟩
  have eScalar := Coded.arm_Scalar_51 w (R _ _ _ rfl)
  have eFlagRing := Coded.arm_FlagRing_1 w (R _ _ _ rfl)
  show decodeScalar w = _
  rw [eScalar, eFlagRing, if_neg (fun c => absurd ((R _ _ _ rfl).symm.trans c.1) (by decide)), if_pos ⟨R _ _ _ rfl, R _ _ _ rfl⟩]
  rw [Coded.fld_eq w 14 6 a (R _ _ _ rfl)]
  rfl

theorem Coded.advP (hb : Fin 16) (b : Fin 64) : Coded.Statement (.advP hb b) := by
  intro _ w h
  have R := Coded.read [(0x33, 26, 6), (hb.val, 20, 4), (b.val, 8, 6), (0x02, 0, 2)] h rfl
    ⟨by decide, hb.isLt, b.isLt, by decide, trivial⟩
  have eScalar := Coded.arm_Scalar_51 w (R _ _ _ rfl)
  have eFlagRing := Coded.arm_FlagRing_2 w (R _ _ _ rfl)
  show decodeScalar w = _
  rw [eScalar, eFlagRing, if_pos ⟨R _ _ _ rfl, R _ _ _ rfl⟩]
  rw [Coded.fld_eq w 20 4 hb (R _ _ _ rfl),
    Coded.fld_eq w 8 6 b (R _ _ _ rfl)]
  rfl

theorem Coded.advC (hb : Fin 16) (b : Fin 64) : Coded.Statement (.advC hb b) := by
  intro _ w h
  have R := Coded.read [(0x33, 26, 6), (hb.val, 20, 4), (b.val, 8, 6), (0x03, 0, 2)] h rfl
    ⟨by decide, hb.isLt, b.isLt, by decide, trivial⟩
  have eScalar := Coded.arm_Scalar_51 w (R _ _ _ rfl)
  have eFlagRing := Coded.arm_FlagRing_3 w (R _ _ _ rfl)
  show decodeScalar w = _
  rw [eScalar, eFlagRing, if_pos ⟨R _ _ _ rfl, R _ _ _ rfl⟩]
  rw [Coded.fld_eq w 20 4 hb (R _ _ _ rfl),
    Coded.fld_eq w 8 6 b (R _ _ _ rfl)]
  rfl

theorem Coded.rfill (f : Fin 32) (hb : Fin 16) (b : Fin 64) : Coded.Statement (.rfill f hb b) := by
  intro _ w h
  have R := Coded.read [(0x33, 26, 6), (f.val, 20, 5), (hb.val, 14, 4), (b.val, 8, 6), (0x04, 0, 3)] h rfl
    ⟨by decide, f.isLt, hb.isLt, b.isLt, by decide, trivial⟩
  have eScalar := Coded.arm_Scalar_51 w (R _ _ _ rfl)
  have eFlagRing := Coded.arm_FlagRing_4 w (R _ _ _ rfl)
  show decodeScalar w = _
  rw [eScalar, eFlagRing, if_pos ⟨R _ _ _ rfl, R _ _ _ rfl⟩]
  rw [Coded.fld_eq w 20 5 f (R _ _ _ rfl),
    Coded.fld_eq w 14 4 hb (R _ _ _ rfl),
    Coded.fld_eq w 8 6 b (R _ _ _ rfl)]
  rfl

theorem Coded.rfree (f : Fin 32) (hb : Fin 16) (b : Fin 64) : Coded.Statement (.rfree f hb b) := by
  intro _ w h
  have R := Coded.read [(0x33, 26, 6), (f.val, 20, 5), (hb.val, 14, 4), (b.val, 8, 6), (0x05, 0, 3)] h rfl
    ⟨by decide, f.isLt, hb.isLt, b.isLt, by decide, trivial⟩
  have eScalar := Coded.arm_Scalar_51 w (R _ _ _ rfl)
  have eFlagRing := Coded.arm_FlagRing_5 w (R _ _ _ rfl)
  show decodeScalar w = _
  rw [eScalar, eFlagRing, if_pos ⟨R _ _ _ rfl, R _ _ _ rfl⟩]
  rw [Coded.fld_eq w 20 5 f (R _ _ _ rfl),
    Coded.fld_eq w 14 4 hb (R _ _ _ rfl),
    Coded.fld_eq w 8 6 b (R _ _ _ rfl)]
  rfl

theorem Coded.seqadd (a : Fin 64) (b : Fin 64) : Coded.Statement (.seqadd a b) := by
  intro _ w h
  have R := Coded.read [(0x34, 26, 6), (a.val, 14, 6), (b.val, 8, 6)] h rfl
    ⟨by decide, a.isLt, b.isLt, trivial⟩
  have eScalar := Coded.arm_Scalar_52 w (R _ _ _ rfl)
  show decodeScalar w = _
  rw [eScalar, if_pos ⟨R _ _ _ rfl, R _ _ _ rfl⟩]
  rw [Coded.fld_eq w 14 6 a (R _ _ _ rfl),
    Coded.fld_eq w 8 6 b (R _ _ _ rfl)]
  rfl

theorem Coded.seqwatch (f : Fin 32) (a : Fin 64) (b : Fin 64) : Coded.Statement (.seqwatch f a b) := by
  intro _ w h
  have R := Coded.read [(0x35, 26, 6), (f.val, 20, 5), (a.val, 14, 6), (b.val, 8, 6)] h rfl
    ⟨by decide, f.isLt, a.isLt, b.isLt, trivial⟩
  have eScalar := Coded.arm_Scalar_53 w (R _ _ _ rfl)
  have eSeqwatchGroup := Coded.arm_SeqwatchGroup_0 w (R _ _ _ rfl)
  show decodeScalar w = _
  rw [eScalar, eSeqwatchGroup, if_pos (R _ _ _ rfl)]
  rw [Coded.fld_eq w 20 5 f (R _ _ _ rfl),
    Coded.fld_eq w 14 6 a (R _ _ _ rfl),
    Coded.fld_eq w 8 6 b (R _ _ _ rfl)]
  rfl

theorem Coded.seqwatchTag (f : Fin 32) (a : Fin 64) (b : Fin 64) : Coded.Statement (.seqwatchTag f a b) := by
  intro _ w h
  have R := Coded.read [(0x35, 26, 6), (0x01, 25, 1), (f.val, 20, 5), (a.val, 14, 6), (b.val, 8, 6)] h rfl
    ⟨by decide, by decide, f.isLt, a.isLt, b.isLt, trivial⟩
  have eScalar := Coded.arm_Scalar_53 w (R _ _ _ rfl)
  have eSeqwatchGroup := Coded.arm_SeqwatchGroup_1 w (R _ _ _ rfl)
  show decodeScalar w = _
  rw [eScalar, eSeqwatchGroup, if_pos (R _ _ _ rfl)]
  rw [Coded.fld_eq w 20 5 f (R _ _ _ rfl),
    Coded.fld_eq w 14 6 a (R _ _ _ rfl),
    Coded.fld_eq w 8 6 b (R _ _ _ rfl)]
  rfl

theorem Coded.seqrd (d : Fin 64) (a : Fin 64) : Coded.Statement (.seqrd d a) := by
  intro _ w h
  have R := Coded.read [(0x36, 26, 6), (d.val, 20, 6), (a.val, 14, 6)] h rfl
    ⟨by decide, d.isLt, a.isLt, trivial⟩
  have eScalar := Coded.arm_Scalar_54 w (R _ _ _ rfl)
  show decodeScalar w = _
  rw [eScalar, if_pos (R _ _ _ rfl)]
  rw [Coded.fld_eq w 20 6 d (R _ _ _ rfl),
    Coded.fld_eq w 14 6 a (R _ _ _ rfl)]
  rfl

theorem Coded.launch (d : Fin 64) (a : Fin 64) (b : Fin 64) : Coded.Statement (.launch d a b) := by
  intro _ w h
  have R := Coded.read [(0x37, 26, 6), (d.val, 20, 6), (a.val, 14, 6), (b.val, 8, 6)] h rfl
    ⟨by decide, d.isLt, a.isLt, b.isLt, trivial⟩
  have eScalar := Coded.arm_Scalar_55 w (R _ _ _ rfl)
  have eLaunchGroup := Coded.arm_LaunchGroup_0 w (R _ _ _ rfl)
  show decodeScalar w = _
  rw [eScalar, eLaunchGroup]
  rw [Coded.fld_eq w 20 6 d (R _ _ _ rfl),
    Coded.fld_eq w 14 6 a (R _ _ _ rfl),
    Coded.fld_eq w 8 6 b (R _ _ _ rfl)]
  rfl

theorem Coded.launchQF (d : Fin 64) (b : Fin 64) : Coded.Statement (.launchQF d b) := by
  intro _ w h
  have R := Coded.read [(0x37, 26, 6), (d.val, 20, 6), (b.val, 8, 6), (0x01, 0, 1)] h rfl
    ⟨by decide, d.isLt, b.isLt, by decide, trivial⟩
  have eScalar := Coded.arm_Scalar_55 w (R _ _ _ rfl)
  have eLaunchGroup := Coded.arm_LaunchGroup_1 w (R _ _ _ rfl)
  show decodeScalar w = _
  rw [eScalar, eLaunchGroup, if_pos (R _ _ _ rfl)]
  rw [Coded.fld_eq w 20 6 d (R _ _ _ rfl),
    Coded.fld_eq w 8 6 b (R _ _ _ rfl)]
  rfl

theorem Coded.launchQB (d : Fin 64) (b : Fin 64) : Coded.Statement (.launchQB d b) := by
  intro _ w h
  have R := Coded.read [(0x37, 26, 6), (d.val, 20, 6), (b.val, 8, 6), (0x02, 0, 2)] h rfl
    ⟨by decide, d.isLt, b.isLt, by decide, trivial⟩
  have eScalar := Coded.arm_Scalar_55 w (R _ _ _ rfl)
  have eLaunchGroup := Coded.arm_LaunchGroup_2 w (R _ _ _ rfl)
  show decodeScalar w = _
  rw [eScalar, eLaunchGroup, if_pos (R _ _ _ rfl)]
  rw [Coded.fld_eq w 20 6 d (R _ _ _ rfl),
    Coded.fld_eq w 8 6 b (R _ _ _ rfl)]
  rfl

theorem Coded.launchQW (d : Fin 64) (b : Fin 64) : Coded.Statement (.launchQW d b) := by
  intro _ w h
  have R := Coded.read [(0x37, 26, 6), (d.val, 20, 6), (b.val, 8, 6), (0x03, 0, 2)] h rfl
    ⟨by decide, d.isLt, b.isLt, by decide, trivial⟩
  have eScalar := Coded.arm_Scalar_55 w (R _ _ _ rfl)
  have eLaunchGroup := Coded.arm_LaunchGroup_3 w (R _ _ _ rfl)
  show decodeScalar w = _
  rw [eScalar, eLaunchGroup, if_pos (R _ _ _ rfl)]
  rw [Coded.fld_eq w 20 6 d (R _ _ _ rfl),
    Coded.fld_eq w 8 6 b (R _ _ _ rfl)]
  rfl

theorem Coded.carve (d : Fin 64) (a : Fin 64) : Coded.Statement (.carve d a) := by
  intro _ w h
  have R := Coded.read [(0x39, 26, 6), (d.val, 20, 6), (a.val, 14, 6)] h rfl
    ⟨by decide, d.isLt, a.isLt, trivial⟩
  have eScalar := Coded.arm_Scalar_57 w (R _ _ _ rfl)
  show decodeScalar w = _
  rw [eScalar, if_pos (R _ _ _ rfl)]
  rw [Coded.fld_eq w 20 6 d (R _ _ _ rfl),
    Coded.fld_eq w 14 6 a (R _ _ _ rfl)]
  rfl

theorem Coded.trap (n : BitVec 14) : Coded.Statement (.trap n) := by
  intro _ w h
  have R := Coded.read [(0x3A, 26, 6), (n.toNat, 0, 14)] h rfl
    ⟨by decide, n.isLt, trivial⟩
  have eScalar := Coded.arm_Scalar_58 w (R _ _ _ rfl)
  show decodeScalar w = _
  rw [eScalar, if_pos (R _ _ _ rfl)]
  rw [Coded.bfld_eq w 0 14 n (R _ _ _ rfl)]
  rfl

theorem Coded.qseed (a : Fin 64) (b : Fin 64) : Coded.Statement (.qseed a b) := by
  intro _ w h
  have R := Coded.read [(0x3D, 26, 6), (a.val, 14, 6), (b.val, 8, 6)] h rfl
    ⟨by decide, a.isLt, b.isLt, trivial⟩
  have eScalar := Coded.arm_Scalar_61 w (R _ _ _ rfl)
  have eSeqUnit := Coded.arm_SeqUnit_0 w (R _ _ _ rfl)
  show decodeScalar w = _
  rw [eScalar, eSeqUnit, if_pos (R _ _ _ rfl)]
  rw [Coded.fld_eq w 14 6 a (R _ _ _ rfl),
    Coded.fld_eq w 8 6 b (R _ _ _ rfl)]
  rfl

theorem Coded.qldt (c : Fin 16) (a : Fin 64) (b : Fin 64) : Coded.Statement (.qldt c a b) := by
  intro _ w h
  have R := Coded.read [(0x3D, 26, 6), (c.val, 20, 4), (a.val, 14, 6), (b.val, 8, 6), (0x01, 0, 1)] h rfl
    ⟨by decide, c.isLt, a.isLt, b.isLt, by decide, trivial⟩
  have eScalar := Coded.arm_Scalar_61 w (R _ _ _ rfl)
  have eSeqUnit := Coded.arm_SeqUnit_1 w (R _ _ _ rfl)
  show decodeScalar w = _
  rw [eScalar, eSeqUnit, if_pos (R _ _ _ rfl)]
  rw [Coded.fld_eq w 20 4 c (R _ _ _ rfl),
    Coded.fld_eq w 14 6 a (R _ _ _ rfl),
    Coded.fld_eq w 8 6 b (R _ _ _ rfl)]
  rfl

theorem Coded.qpt (d : Fin 64) (a : Fin 64) (b : Fin 64) : Coded.Statement (.qpt d a b) := by
  intro _ w h
  have R := Coded.read [(0x3D, 26, 6), (d.val, 20, 6), (a.val, 14, 6), (b.val, 8, 6), (0x02, 0, 2)] h rfl
    ⟨by decide, d.isLt, a.isLt, b.isLt, by decide, trivial⟩
  have eScalar := Coded.arm_Scalar_61 w (R _ _ _ rfl)
  have eSeqUnit := Coded.arm_SeqUnit_2 w (R _ _ _ rfl)
  show decodeScalar w = _
  rw [eScalar, eSeqUnit]
  rw [Coded.fld_eq w 20 6 d (R _ _ _ rfl),
    Coded.fld_eq w 14 6 a (R _ _ _ rfl),
    Coded.fld_eq w 8 6 b (R _ _ _ rfl)]
  rfl

theorem Coded.qsave (c : Fin 16) (a : Fin 64) (b : Fin 64) : Coded.Statement (.qsave c a b) := by
  intro _ w h
  have R := Coded.read [(0x3D, 26, 6), (c.val, 20, 4), (a.val, 14, 6), (b.val, 8, 6), (0x03, 0, 2)] h rfl
    ⟨by decide, c.isLt, a.isLt, b.isLt, by decide, trivial⟩
  have eScalar := Coded.arm_Scalar_61 w (R _ _ _ rfl)
  have eSeqUnit := Coded.arm_SeqUnit_3 w (R _ _ _ rfl)
  show decodeScalar w = _
  rw [eScalar, eSeqUnit, if_pos (R _ _ _ rfl)]
  rw [Coded.fld_eq w 20 4 c (R _ _ _ rfl),
    Coded.fld_eq w 14 6 a (R _ _ _ rfl),
    Coded.fld_eq w 8 6 b (R _ _ _ rfl)]
  rfl

theorem Coded.pause (g : Gate) (n : BitVec 12) : Coded.Statement (.pause g n) := by
  intro _ w h
  exact Coded.gate_pause w g n h

theorem Coded.phase (g : Gate) (n : BitVec 12) : Coded.Statement (.phase g n) := by
  intro _ w h
  exact Coded.gate_phase w g n h

theorem Coded.mark (g : Gate) (n : BitVec 12) : Coded.Statement (.mark g n) := by
  intro _ w h
  exact Coded.gate_mark w g n h

theorem Coded.vadd (t : VFmt) (d : Fin 64) (a : Fin 64) (b : Fin 64) (k : Fin 4) (hb : Bool) : Coded.Statement (.vadd t d a b k hb) := by
  intro _ w h
  have R := Coded.read [(0x01, 27, 1), (t.code, 24, 3), (d.val, 18, 6), (a.val, 12, 6), (b.val, 6, 6), (k.val, 4, 2), (hb.toNat, 3, 1)] h rfl
    ⟨by decide, Coded.code_lt t, d.isLt, a.isLt, b.isLt, k.isLt, Coded.toNat_lt hb, trivial⟩
  have eVector := Coded.arm_Vector_1 w (R _ _ _ rfl)
  have eVaddGroup := Coded.arm_VaddGroup_0 w (R _ _ _ rfl)
  show decodeVector w = _
  rw [eVector, eVaddGroup]
  rw [Coded.fmt_eq w 24 3 t (R _ _ _ rfl),
    Coded.fld_eq w 18 6 d (R _ _ _ rfl),
    Coded.fld_eq w 12 6 a (R _ _ _ rfl),
    Coded.fld_eq w 6 6 b (R _ _ _ rfl),
    Coded.fld_eq w 4 2 k (R _ _ _ rfl),
    Coded.bit_eq w 3 hb (R _ _ _ rfl)]
  rfl

theorem Coded.vaddSat (t : VFmt) (d : Fin 64) (a : Fin 64) (b : Fin 64) (k : Fin 4) (hb : Bool) : Coded.Statement (.vaddSat t d a b k hb) := by
  intro _ w h
  have R := Coded.read [(0x01, 27, 1), (t.code, 24, 3), (d.val, 18, 6), (a.val, 12, 6), (b.val, 6, 6), (k.val, 4, 2), (hb.toNat, 3, 1), (0x01, 0, 1)] h rfl
    ⟨by decide, Coded.code_lt t, d.isLt, a.isLt, b.isLt, k.isLt, Coded.toNat_lt hb, by decide, trivial⟩
  have eVector := Coded.arm_Vector_1 w (R _ _ _ rfl)
  have eVaddGroup := Coded.arm_VaddGroup_1 w (R _ _ _ rfl)
  show decodeVector w = _
  rw [eVector, eVaddGroup]
  rw [Coded.fmt_eq w 24 3 t (R _ _ _ rfl),
    Coded.fld_eq w 18 6 d (R _ _ _ rfl),
    Coded.fld_eq w 12 6 a (R _ _ _ rfl),
    Coded.fld_eq w 6 6 b (R _ _ _ rfl),
    Coded.fld_eq w 4 2 k (R _ _ _ rfl),
    Coded.bit_eq w 3 hb (R _ _ _ rfl)]
  rfl

theorem Coded.vsub (t : VFmt) (d : Fin 64) (a : Fin 64) (b : Fin 64) (k : Fin 4) (hb : Bool) : Coded.Statement (.vsub t d a b k hb) := by
  intro _ w h
  have R := Coded.read [(0x02, 27, 2), (t.code, 24, 3), (d.val, 18, 6), (a.val, 12, 6), (b.val, 6, 6), (k.val, 4, 2), (hb.toNat, 3, 1)] h rfl
    ⟨by decide, Coded.code_lt t, d.isLt, a.isLt, b.isLt, k.isLt, Coded.toNat_lt hb, trivial⟩
  have eVector := Coded.arm_Vector_2 w (R _ _ _ rfl)
  have eVsubGroup := Coded.arm_VsubGroup_0 w (R _ _ _ rfl)
  show decodeVector w = _
  rw [eVector, eVsubGroup]
  rw [Coded.fmt_eq w 24 3 t (R _ _ _ rfl),
    Coded.fld_eq w 18 6 d (R _ _ _ rfl),
    Coded.fld_eq w 12 6 a (R _ _ _ rfl),
    Coded.fld_eq w 6 6 b (R _ _ _ rfl),
    Coded.fld_eq w 4 2 k (R _ _ _ rfl),
    Coded.bit_eq w 3 hb (R _ _ _ rfl)]
  rfl

theorem Coded.vsubSat (t : VFmt) (d : Fin 64) (a : Fin 64) (b : Fin 64) (k : Fin 4) (hb : Bool) : Coded.Statement (.vsubSat t d a b k hb) := by
  intro _ w h
  have R := Coded.read [(0x02, 27, 2), (t.code, 24, 3), (d.val, 18, 6), (a.val, 12, 6), (b.val, 6, 6), (k.val, 4, 2), (hb.toNat, 3, 1), (0x01, 0, 1)] h rfl
    ⟨by decide, Coded.code_lt t, d.isLt, a.isLt, b.isLt, k.isLt, Coded.toNat_lt hb, by decide, trivial⟩
  have eVector := Coded.arm_Vector_2 w (R _ _ _ rfl)
  have eVsubGroup := Coded.arm_VsubGroup_1 w (R _ _ _ rfl)
  show decodeVector w = _
  rw [eVector, eVsubGroup]
  rw [Coded.fmt_eq w 24 3 t (R _ _ _ rfl),
    Coded.fld_eq w 18 6 d (R _ _ _ rfl),
    Coded.fld_eq w 12 6 a (R _ _ _ rfl),
    Coded.fld_eq w 6 6 b (R _ _ _ rfl),
    Coded.fld_eq w 4 2 k (R _ _ _ rfl),
    Coded.bit_eq w 3 hb (R _ _ _ rfl)]
  rfl

theorem Coded.vmul (t : VFmt) (d : Fin 64) (a : Fin 64) (b : Fin 64) (k : Fin 4) (hb : Bool) : Coded.Statement (.vmul t d a b k hb) := by
  intro _ w h
  have R := Coded.read [(0x03, 27, 2), (t.code, 24, 3), (d.val, 18, 6), (a.val, 12, 6), (b.val, 6, 6), (k.val, 4, 2), (hb.toNat, 3, 1)] h rfl
    ⟨by decide, Coded.code_lt t, d.isLt, a.isLt, b.isLt, k.isLt, Coded.toNat_lt hb, trivial⟩
  have eVector := Coded.arm_Vector_3 w (R _ _ _ rfl)
  have eVmulGroup := Coded.arm_VmulGroup_0 w (R _ _ _ rfl)
  show decodeVector w = _
  rw [eVector, eVmulGroup]
  rw [Coded.fmt_eq w 24 3 t (R _ _ _ rfl),
    Coded.fld_eq w 18 6 d (R _ _ _ rfl),
    Coded.fld_eq w 12 6 a (R _ _ _ rfl),
    Coded.fld_eq w 6 6 b (R _ _ _ rfl),
    Coded.fld_eq w 4 2 k (R _ _ _ rfl),
    Coded.bit_eq w 3 hb (R _ _ _ rfl)]
  rfl

theorem Coded.vmulHi (t : VFmt) (d : Fin 64) (a : Fin 64) (b : Fin 64) (k : Fin 4) (hb : Bool) : Coded.Statement (.vmulHi t d a b k hb) := by
  intro _ w h
  have R := Coded.read [(0x03, 27, 2), (t.code, 24, 3), (d.val, 18, 6), (a.val, 12, 6), (b.val, 6, 6), (k.val, 4, 2), (hb.toNat, 3, 1), (0x01, 0, 1)] h rfl
    ⟨by decide, Coded.code_lt t, d.isLt, a.isLt, b.isLt, k.isLt, Coded.toNat_lt hb, by decide, trivial⟩
  have eVector := Coded.arm_Vector_3 w (R _ _ _ rfl)
  have eVmulGroup := Coded.arm_VmulGroup_1 w (R _ _ _ rfl)
  show decodeVector w = _
  rw [eVector, eVmulGroup]
  rw [Coded.fmt_eq w 24 3 t (R _ _ _ rfl),
    Coded.fld_eq w 18 6 d (R _ _ _ rfl),
    Coded.fld_eq w 12 6 a (R _ _ _ rfl),
    Coded.fld_eq w 6 6 b (R _ _ _ rfl),
    Coded.fld_eq w 4 2 k (R _ _ _ rfl),
    Coded.bit_eq w 3 hb (R _ _ _ rfl)]
  rfl

theorem Coded.vmulWide (t : VFmt) (d : Fin 64) (a : Fin 64) (b : Fin 64) (k : Fin 4) (hb : Bool) : Coded.Statement (.vmulWide t d a b k hb) := by
  intro _ w h
  have R := Coded.read [(0x03, 27, 2), (t.code, 24, 3), (d.val, 18, 6), (a.val, 12, 6), (b.val, 6, 6), (k.val, 4, 2), (hb.toNat, 3, 1), (0x02, 0, 2)] h rfl
    ⟨by decide, Coded.code_lt t, d.isLt, a.isLt, b.isLt, k.isLt, Coded.toNat_lt hb, by decide, trivial⟩
  have eVector := Coded.arm_Vector_3 w (R _ _ _ rfl)
  have eVmulGroup := Coded.arm_VmulGroup_2 w (R _ _ _ rfl)
  show decodeVector w = _
  rw [eVector, eVmulGroup]
  rw [Coded.fmt_eq w 24 3 t (R _ _ _ rfl),
    Coded.fld_eq w 18 6 d (R _ _ _ rfl),
    Coded.fld_eq w 12 6 a (R _ _ _ rfl),
    Coded.fld_eq w 6 6 b (R _ _ _ rfl),
    Coded.fld_eq w 4 2 k (R _ _ _ rfl),
    Coded.bit_eq w 3 hb (R _ _ _ rfl)]
  rfl

theorem Coded.vfma (t : VFmt) (d : Fin 64) (a : Fin 64) (b : Fin 64) (k : Fin 4) (hb : Bool) : Coded.Statement (.vfma t d a b k hb) := by
  intro _ w h
  have R := Coded.read [(0x04, 27, 3), (t.code, 24, 3), (d.val, 18, 6), (a.val, 12, 6), (b.val, 6, 6), (k.val, 4, 2), (hb.toNat, 3, 1)] h rfl
    ⟨by decide, Coded.code_lt t, d.isLt, a.isLt, b.isLt, k.isLt, Coded.toNat_lt hb, trivial⟩
  have eVector := Coded.arm_Vector_4 w (R _ _ _ rfl)
  have eVfmaGroup := Coded.arm_VfmaGroup_0 w (R _ _ _ rfl)
  show decodeVector w = _
  rw [eVector, eVfmaGroup]
  rw [Coded.fmt_eq w 24 3 t (R _ _ _ rfl),
    Coded.fld_eq w 18 6 d (R _ _ _ rfl),
    Coded.fld_eq w 12 6 a (R _ _ _ rfl),
    Coded.fld_eq w 6 6 b (R _ _ _ rfl),
    Coded.fld_eq w 4 2 k (R _ _ _ rfl),
    Coded.bit_eq w 3 hb (R _ _ _ rfl)]
  rfl

theorem Coded.vfmaFms (t : VFmt) (d : Fin 64) (a : Fin 64) (b : Fin 64) (k : Fin 4) (hb : Bool) : Coded.Statement (.vfmaFms t d a b k hb) := by
  intro _ w h
  have R := Coded.read [(0x04, 27, 3), (t.code, 24, 3), (d.val, 18, 6), (a.val, 12, 6), (b.val, 6, 6), (k.val, 4, 2), (hb.toNat, 3, 1), (0x01, 0, 1)] h rfl
    ⟨by decide, Coded.code_lt t, d.isLt, a.isLt, b.isLt, k.isLt, Coded.toNat_lt hb, by decide, trivial⟩
  have eVector := Coded.arm_Vector_4 w (R _ _ _ rfl)
  have eVfmaGroup := Coded.arm_VfmaGroup_1 w (R _ _ _ rfl)
  show decodeVector w = _
  rw [eVector, eVfmaGroup]
  rw [Coded.fmt_eq w 24 3 t (R _ _ _ rfl),
    Coded.fld_eq w 18 6 d (R _ _ _ rfl),
    Coded.fld_eq w 12 6 a (R _ _ _ rfl),
    Coded.fld_eq w 6 6 b (R _ _ _ rfl),
    Coded.fld_eq w 4 2 k (R _ _ _ rfl),
    Coded.bit_eq w 3 hb (R _ _ _ rfl)]
  rfl

theorem Coded.vfmaFnma (t : VFmt) (d : Fin 64) (a : Fin 64) (b : Fin 64) (k : Fin 4) (hb : Bool) : Coded.Statement (.vfmaFnma t d a b k hb) := by
  intro _ w h
  have R := Coded.read [(0x04, 27, 3), (t.code, 24, 3), (d.val, 18, 6), (a.val, 12, 6), (b.val, 6, 6), (k.val, 4, 2), (hb.toNat, 3, 1), (0x02, 0, 2)] h rfl
    ⟨by decide, Coded.code_lt t, d.isLt, a.isLt, b.isLt, k.isLt, Coded.toNat_lt hb, by decide, trivial⟩
  have eVector := Coded.arm_Vector_4 w (R _ _ _ rfl)
  have eVfmaGroup := Coded.arm_VfmaGroup_2 w (R _ _ _ rfl)
  show decodeVector w = _
  rw [eVector, eVfmaGroup]
  rw [Coded.fmt_eq w 24 3 t (R _ _ _ rfl),
    Coded.fld_eq w 18 6 d (R _ _ _ rfl),
    Coded.fld_eq w 12 6 a (R _ _ _ rfl),
    Coded.fld_eq w 6 6 b (R _ _ _ rfl),
    Coded.fld_eq w 4 2 k (R _ _ _ rfl),
    Coded.bit_eq w 3 hb (R _ _ _ rfl)]
  rfl

theorem Coded.vmin (t : VFmt) (d : Fin 64) (a : Fin 64) (b : Fin 64) (k : Fin 4) (hb : Bool) : Coded.Statement (.vmin t d a b k hb) := by
  intro _ w h
  have R := Coded.read [(0x05, 27, 3), (t.code, 24, 3), (d.val, 18, 6), (a.val, 12, 6), (b.val, 6, 6), (k.val, 4, 2), (hb.toNat, 3, 1)] h rfl
    ⟨by decide, Coded.code_lt t, d.isLt, a.isLt, b.isLt, k.isLt, Coded.toNat_lt hb, trivial⟩
  have eVector := Coded.arm_Vector_5 w (R _ _ _ rfl)
  show decodeVector w = _
  rw [eVector, if_pos (R _ _ _ rfl)]
  rw [Coded.fmt_eq w 24 3 t (R _ _ _ rfl),
    Coded.fld_eq w 18 6 d (R _ _ _ rfl),
    Coded.fld_eq w 12 6 a (R _ _ _ rfl),
    Coded.fld_eq w 6 6 b (R _ _ _ rfl),
    Coded.fld_eq w 4 2 k (R _ _ _ rfl),
    Coded.bit_eq w 3 hb (R _ _ _ rfl)]
  rfl

theorem Coded.vmax (t : VFmt) (d : Fin 64) (a : Fin 64) (b : Fin 64) (k : Fin 4) (hb : Bool) : Coded.Statement (.vmax t d a b k hb) := by
  intro _ w h
  have R := Coded.read [(0x06, 27, 3), (t.code, 24, 3), (d.val, 18, 6), (a.val, 12, 6), (b.val, 6, 6), (k.val, 4, 2), (hb.toNat, 3, 1)] h rfl
    ⟨by decide, Coded.code_lt t, d.isLt, a.isLt, b.isLt, k.isLt, Coded.toNat_lt hb, trivial⟩
  have eVector := Coded.arm_Vector_6 w (R _ _ _ rfl)
  show decodeVector w = _
  rw [eVector, if_pos (R _ _ _ rfl)]
  rw [Coded.fmt_eq w 24 3 t (R _ _ _ rfl),
    Coded.fld_eq w 18 6 d (R _ _ _ rfl),
    Coded.fld_eq w 12 6 a (R _ _ _ rfl),
    Coded.fld_eq w 6 6 b (R _ _ _ rfl),
    Coded.fld_eq w 4 2 k (R _ _ _ rfl),
    Coded.bit_eq w 3 hb (R _ _ _ rfl)]
  rfl

theorem Coded.vabs (t : VFmt) (d : Fin 64) (a : Fin 64) (k : Fin 4) : Coded.Statement (.vabs t d a k) := by
  intro _ w h
  have R := Coded.read [(0x07, 27, 3), (t.code, 24, 3), (d.val, 18, 6), (a.val, 12, 6), (k.val, 4, 2)] h rfl
    ⟨by decide, Coded.code_lt t, d.isLt, a.isLt, k.isLt, trivial⟩
  have eVector := Coded.arm_Vector_7 w (R _ _ _ rfl)
  have eVabsGroup := Coded.arm_VabsGroup_0 w (R _ _ _ rfl)
  show decodeVector w = _
  rw [eVector, eVabsGroup, if_pos (R _ _ _ rfl)]
  rw [Coded.fmt_eq w 24 3 t (R _ _ _ rfl),
    Coded.fld_eq w 18 6 d (R _ _ _ rfl),
    Coded.fld_eq w 12 6 a (R _ _ _ rfl),
    Coded.fld_eq w 4 2 k (R _ _ _ rfl)]
  rfl

theorem Coded.vneg (t : VFmt) (d : Fin 64) (a : Fin 64) (k : Fin 4) : Coded.Statement (.vneg t d a k) := by
  intro _ w h
  have R := Coded.read [(0x07, 27, 3), (t.code, 24, 3), (d.val, 18, 6), (a.val, 12, 6), (k.val, 4, 2), (0x01, 0, 1)] h rfl
    ⟨by decide, Coded.code_lt t, d.isLt, a.isLt, k.isLt, by decide, trivial⟩
  have eVector := Coded.arm_Vector_7 w (R _ _ _ rfl)
  have eVabsGroup := Coded.arm_VabsGroup_1 w (R _ _ _ rfl)
  show decodeVector w = _
  rw [eVector, eVabsGroup, if_pos (R _ _ _ rfl)]
  rw [Coded.fmt_eq w 24 3 t (R _ _ _ rfl),
    Coded.fld_eq w 18 6 d (R _ _ _ rfl),
    Coded.fld_eq w 12 6 a (R _ _ _ rfl),
    Coded.fld_eq w 4 2 k (R _ _ _ rfl)]
  rfl

theorem Coded.vlogAnd (t : VFmt) (d : Fin 64) (a : Fin 64) (b : Fin 64) (k : Fin 4) (hb : Bool) : Coded.Statement (.vlogAnd t d a b k hb) := by
  intro _ w h
  have R := Coded.read [(0x08, 27, 4), (t.code, 24, 3), (d.val, 18, 6), (a.val, 12, 6), (b.val, 6, 6), (k.val, 4, 2), (hb.toNat, 3, 1)] h rfl
    ⟨by decide, Coded.code_lt t, d.isLt, a.isLt, b.isLt, k.isLt, Coded.toNat_lt hb, trivial⟩
  have eVector := Coded.arm_Vector_8 w (R _ _ _ rfl)
  have eVlogGroup := Coded.arm_VlogGroup_0 w (R _ _ _ rfl)
  show decodeVector w = _
  rw [eVector, eVlogGroup]
  rw [Coded.fmt_eq w 24 3 t (R _ _ _ rfl),
    Coded.fld_eq w 18 6 d (R _ _ _ rfl),
    Coded.fld_eq w 12 6 a (R _ _ _ rfl),
    Coded.fld_eq w 6 6 b (R _ _ _ rfl),
    Coded.fld_eq w 4 2 k (R _ _ _ rfl),
    Coded.bit_eq w 3 hb (R _ _ _ rfl)]
  rfl

theorem Coded.vlogOr (t : VFmt) (d : Fin 64) (a : Fin 64) (b : Fin 64) (k : Fin 4) (hb : Bool) : Coded.Statement (.vlogOr t d a b k hb) := by
  intro _ w h
  have R := Coded.read [(0x08, 27, 4), (t.code, 24, 3), (d.val, 18, 6), (a.val, 12, 6), (b.val, 6, 6), (k.val, 4, 2), (hb.toNat, 3, 1), (0x01, 0, 1)] h rfl
    ⟨by decide, Coded.code_lt t, d.isLt, a.isLt, b.isLt, k.isLt, Coded.toNat_lt hb, by decide, trivial⟩
  have eVector := Coded.arm_Vector_8 w (R _ _ _ rfl)
  have eVlogGroup := Coded.arm_VlogGroup_1 w (R _ _ _ rfl)
  show decodeVector w = _
  rw [eVector, eVlogGroup]
  rw [Coded.fmt_eq w 24 3 t (R _ _ _ rfl),
    Coded.fld_eq w 18 6 d (R _ _ _ rfl),
    Coded.fld_eq w 12 6 a (R _ _ _ rfl),
    Coded.fld_eq w 6 6 b (R _ _ _ rfl),
    Coded.fld_eq w 4 2 k (R _ _ _ rfl),
    Coded.bit_eq w 3 hb (R _ _ _ rfl)]
  rfl

theorem Coded.vlogXor (t : VFmt) (d : Fin 64) (a : Fin 64) (b : Fin 64) (k : Fin 4) (hb : Bool) : Coded.Statement (.vlogXor t d a b k hb) := by
  intro _ w h
  have R := Coded.read [(0x08, 27, 4), (t.code, 24, 3), (d.val, 18, 6), (a.val, 12, 6), (b.val, 6, 6), (k.val, 4, 2), (hb.toNat, 3, 1), (0x02, 0, 2)] h rfl
    ⟨by decide, Coded.code_lt t, d.isLt, a.isLt, b.isLt, k.isLt, Coded.toNat_lt hb, by decide, trivial⟩
  have eVector := Coded.arm_Vector_8 w (R _ _ _ rfl)
  have eVlogGroup := Coded.arm_VlogGroup_2 w (R _ _ _ rfl)
  show decodeVector w = _
  rw [eVector, eVlogGroup]
  rw [Coded.fmt_eq w 24 3 t (R _ _ _ rfl),
    Coded.fld_eq w 18 6 d (R _ _ _ rfl),
    Coded.fld_eq w 12 6 a (R _ _ _ rfl),
    Coded.fld_eq w 6 6 b (R _ _ _ rfl),
    Coded.fld_eq w 4 2 k (R _ _ _ rfl),
    Coded.bit_eq w 3 hb (R _ _ _ rfl)]
  rfl

theorem Coded.vlogAndn (t : VFmt) (d : Fin 64) (a : Fin 64) (b : Fin 64) (k : Fin 4) (hb : Bool) : Coded.Statement (.vlogAndn t d a b k hb) := by
  intro _ w h
  have R := Coded.read [(0x08, 27, 4), (t.code, 24, 3), (d.val, 18, 6), (a.val, 12, 6), (b.val, 6, 6), (k.val, 4, 2), (hb.toNat, 3, 1), (0x03, 0, 2)] h rfl
    ⟨by decide, Coded.code_lt t, d.isLt, a.isLt, b.isLt, k.isLt, Coded.toNat_lt hb, by decide, trivial⟩
  have eVector := Coded.arm_Vector_8 w (R _ _ _ rfl)
  have eVlogGroup := Coded.arm_VlogGroup_3 w (R _ _ _ rfl)
  show decodeVector w = _
  rw [eVector, eVlogGroup]
  rw [Coded.fmt_eq w 24 3 t (R _ _ _ rfl),
    Coded.fld_eq w 18 6 d (R _ _ _ rfl),
    Coded.fld_eq w 12 6 a (R _ _ _ rfl),
    Coded.fld_eq w 6 6 b (R _ _ _ rfl),
    Coded.fld_eq w 4 2 k (R _ _ _ rfl),
    Coded.bit_eq w 3 hb (R _ _ _ rfl)]
  rfl

theorem Coded.vlogNot (t : VFmt) (d : Fin 64) (a : Fin 64) (k : Fin 4) : Coded.Statement (.vlogNot t d a k) := by
  intro _ w h
  have R := Coded.read [(0x08, 27, 4), (t.code, 24, 3), (d.val, 18, 6), (a.val, 12, 6), (k.val, 4, 2), (0x04, 0, 3)] h rfl
    ⟨by decide, Coded.code_lt t, d.isLt, a.isLt, k.isLt, by decide, trivial⟩
  have eVector := Coded.arm_Vector_8 w (R _ _ _ rfl)
  have eVlogGroup := Coded.arm_VlogGroup_4 w (R _ _ _ rfl)
  show decodeVector w = _
  rw [eVector, eVlogGroup, if_pos ⟨R _ _ _ rfl, R _ _ _ rfl⟩]
  rw [Coded.fmt_eq w 24 3 t (R _ _ _ rfl),
    Coded.fld_eq w 18 6 d (R _ _ _ rfl),
    Coded.fld_eq w 12 6 a (R _ _ _ rfl),
    Coded.fld_eq w 4 2 k (R _ _ _ rfl)]
  rfl

theorem Coded.vshShl (t : VFmt) (d : Fin 64) (a : Fin 64) (b : Fin 64) (k : Fin 4) (hb : Bool) : Coded.Statement (.vshShl t d a b k hb) := by
  intro _ w h
  have R := Coded.read [(0x09, 27, 4), (t.code, 24, 3), (d.val, 18, 6), (a.val, 12, 6), (b.val, 6, 6), (k.val, 4, 2), (hb.toNat, 3, 1)] h rfl
    ⟨by decide, Coded.code_lt t, d.isLt, a.isLt, b.isLt, k.isLt, Coded.toNat_lt hb, trivial⟩
  have eVector := Coded.arm_Vector_9 w (R _ _ _ rfl)
  have eVshGroup := Coded.arm_VshGroup_0 w (R _ _ _ rfl)
  show decodeVector w = _
  rw [eVector, eVshGroup]
  rw [Coded.fmt_eq w 24 3 t (R _ _ _ rfl),
    Coded.fld_eq w 18 6 d (R _ _ _ rfl),
    Coded.fld_eq w 12 6 a (R _ _ _ rfl),
    Coded.fld_eq w 6 6 b (R _ _ _ rfl),
    Coded.fld_eq w 4 2 k (R _ _ _ rfl),
    Coded.bit_eq w 3 hb (R _ _ _ rfl)]
  rfl

theorem Coded.vshShr (t : VFmt) (d : Fin 64) (a : Fin 64) (b : Fin 64) (k : Fin 4) (hb : Bool) : Coded.Statement (.vshShr t d a b k hb) := by
  intro _ w h
  have R := Coded.read [(0x09, 27, 4), (t.code, 24, 3), (d.val, 18, 6), (a.val, 12, 6), (b.val, 6, 6), (k.val, 4, 2), (hb.toNat, 3, 1), (0x01, 0, 1)] h rfl
    ⟨by decide, Coded.code_lt t, d.isLt, a.isLt, b.isLt, k.isLt, Coded.toNat_lt hb, by decide, trivial⟩
  have eVector := Coded.arm_Vector_9 w (R _ _ _ rfl)
  have eVshGroup := Coded.arm_VshGroup_1 w (R _ _ _ rfl)
  show decodeVector w = _
  rw [eVector, eVshGroup]
  rw [Coded.fmt_eq w 24 3 t (R _ _ _ rfl),
    Coded.fld_eq w 18 6 d (R _ _ _ rfl),
    Coded.fld_eq w 12 6 a (R _ _ _ rfl),
    Coded.fld_eq w 6 6 b (R _ _ _ rfl),
    Coded.fld_eq w 4 2 k (R _ _ _ rfl),
    Coded.bit_eq w 3 hb (R _ _ _ rfl)]
  rfl

theorem Coded.vshSar (t : VFmt) (d : Fin 64) (a : Fin 64) (b : Fin 64) (k : Fin 4) (hb : Bool) : Coded.Statement (.vshSar t d a b k hb) := by
  intro _ w h
  have R := Coded.read [(0x09, 27, 4), (t.code, 24, 3), (d.val, 18, 6), (a.val, 12, 6), (b.val, 6, 6), (k.val, 4, 2), (hb.toNat, 3, 1), (0x02, 0, 2)] h rfl
    ⟨by decide, Coded.code_lt t, d.isLt, a.isLt, b.isLt, k.isLt, Coded.toNat_lt hb, by decide, trivial⟩
  have eVector := Coded.arm_Vector_9 w (R _ _ _ rfl)
  have eVshGroup := Coded.arm_VshGroup_2 w (R _ _ _ rfl)
  show decodeVector w = _
  rw [eVector, eVshGroup]
  rw [Coded.fmt_eq w 24 3 t (R _ _ _ rfl),
    Coded.fld_eq w 18 6 d (R _ _ _ rfl),
    Coded.fld_eq w 12 6 a (R _ _ _ rfl),
    Coded.fld_eq w 6 6 b (R _ _ _ rfl),
    Coded.fld_eq w 4 2 k (R _ _ _ rfl),
    Coded.bit_eq w 3 hb (R _ _ _ rfl)]
  rfl

theorem Coded.vcmpEq (t : VFmt) (m : Fin 16) (a : Fin 64) (b : Fin 64) (k : Fin 4) (hb : Bool) : Coded.Statement (.vcmpEq t m a b k hb) := by
  intro _ w h
  have R := Coded.read [(0x0A, 27, 4), (t.code, 24, 3), (m.val, 18, 4), (a.val, 12, 6), (b.val, 6, 6), (k.val, 4, 2), (hb.toNat, 3, 1)] h rfl
    ⟨by decide, Coded.code_lt t, m.isLt, a.isLt, b.isLt, k.isLt, Coded.toNat_lt hb, trivial⟩
  have eVector := Coded.arm_Vector_10 w (R _ _ _ rfl)
  have eVcmpGroup := Coded.arm_VcmpGroup_0 w (R _ _ _ rfl)
  show decodeVector w = _
  rw [eVector, eVcmpGroup, if_pos (R _ _ _ rfl)]
  rw [Coded.fmt_eq w 24 3 t (R _ _ _ rfl),
    Coded.fld_eq w 18 4 m (R _ _ _ rfl),
    Coded.fld_eq w 12 6 a (R _ _ _ rfl),
    Coded.fld_eq w 6 6 b (R _ _ _ rfl),
    Coded.fld_eq w 4 2 k (R _ _ _ rfl),
    Coded.bit_eq w 3 hb (R _ _ _ rfl)]
  rfl

theorem Coded.vcmpNe (t : VFmt) (m : Fin 16) (a : Fin 64) (b : Fin 64) (k : Fin 4) (hb : Bool) : Coded.Statement (.vcmpNe t m a b k hb) := by
  intro _ w h
  have R := Coded.read [(0x0A, 27, 4), (t.code, 24, 3), (m.val, 18, 4), (a.val, 12, 6), (b.val, 6, 6), (k.val, 4, 2), (hb.toNat, 3, 1), (0x01, 0, 1)] h rfl
    ⟨by decide, Coded.code_lt t, m.isLt, a.isLt, b.isLt, k.isLt, Coded.toNat_lt hb, by decide, trivial⟩
  have eVector := Coded.arm_Vector_10 w (R _ _ _ rfl)
  have eVcmpGroup := Coded.arm_VcmpGroup_1 w (R _ _ _ rfl)
  show decodeVector w = _
  rw [eVector, eVcmpGroup, if_pos (R _ _ _ rfl)]
  rw [Coded.fmt_eq w 24 3 t (R _ _ _ rfl),
    Coded.fld_eq w 18 4 m (R _ _ _ rfl),
    Coded.fld_eq w 12 6 a (R _ _ _ rfl),
    Coded.fld_eq w 6 6 b (R _ _ _ rfl),
    Coded.fld_eq w 4 2 k (R _ _ _ rfl),
    Coded.bit_eq w 3 hb (R _ _ _ rfl)]
  rfl

theorem Coded.vcmpLt (t : VFmt) (m : Fin 16) (a : Fin 64) (b : Fin 64) (k : Fin 4) (hb : Bool) : Coded.Statement (.vcmpLt t m a b k hb) := by
  intro _ w h
  have R := Coded.read [(0x0A, 27, 4), (t.code, 24, 3), (m.val, 18, 4), (a.val, 12, 6), (b.val, 6, 6), (k.val, 4, 2), (hb.toNat, 3, 1), (0x02, 0, 2)] h rfl
    ⟨by decide, Coded.code_lt t, m.isLt, a.isLt, b.isLt, k.isLt, Coded.toNat_lt hb, by decide, trivial⟩
  have eVector := Coded.arm_Vector_10 w (R _ _ _ rfl)
  have eVcmpGroup := Coded.arm_VcmpGroup_2 w (R _ _ _ rfl)
  show decodeVector w = _
  rw [eVector, eVcmpGroup, if_pos (R _ _ _ rfl)]
  rw [Coded.fmt_eq w 24 3 t (R _ _ _ rfl),
    Coded.fld_eq w 18 4 m (R _ _ _ rfl),
    Coded.fld_eq w 12 6 a (R _ _ _ rfl),
    Coded.fld_eq w 6 6 b (R _ _ _ rfl),
    Coded.fld_eq w 4 2 k (R _ _ _ rfl),
    Coded.bit_eq w 3 hb (R _ _ _ rfl)]
  rfl

theorem Coded.vcmpLe (t : VFmt) (m : Fin 16) (a : Fin 64) (b : Fin 64) (k : Fin 4) (hb : Bool) : Coded.Statement (.vcmpLe t m a b k hb) := by
  intro _ w h
  have R := Coded.read [(0x0A, 27, 4), (t.code, 24, 3), (m.val, 18, 4), (a.val, 12, 6), (b.val, 6, 6), (k.val, 4, 2), (hb.toNat, 3, 1), (0x03, 0, 2)] h rfl
    ⟨by decide, Coded.code_lt t, m.isLt, a.isLt, b.isLt, k.isLt, Coded.toNat_lt hb, by decide, trivial⟩
  have eVector := Coded.arm_Vector_10 w (R _ _ _ rfl)
  have eVcmpGroup := Coded.arm_VcmpGroup_3 w (R _ _ _ rfl)
  show decodeVector w = _
  rw [eVector, eVcmpGroup, if_pos (R _ _ _ rfl)]
  rw [Coded.fmt_eq w 24 3 t (R _ _ _ rfl),
    Coded.fld_eq w 18 4 m (R _ _ _ rfl),
    Coded.fld_eq w 12 6 a (R _ _ _ rfl),
    Coded.fld_eq w 6 6 b (R _ _ _ rfl),
    Coded.fld_eq w 4 2 k (R _ _ _ rfl),
    Coded.bit_eq w 3 hb (R _ _ _ rfl)]
  rfl

theorem Coded.vcmpGt (t : VFmt) (m : Fin 16) (a : Fin 64) (b : Fin 64) (k : Fin 4) (hb : Bool) : Coded.Statement (.vcmpGt t m a b k hb) := by
  intro _ w h
  have R := Coded.read [(0x0A, 27, 4), (t.code, 24, 3), (m.val, 18, 4), (a.val, 12, 6), (b.val, 6, 6), (k.val, 4, 2), (hb.toNat, 3, 1), (0x04, 0, 3)] h rfl
    ⟨by decide, Coded.code_lt t, m.isLt, a.isLt, b.isLt, k.isLt, Coded.toNat_lt hb, by decide, trivial⟩
  have eVector := Coded.arm_Vector_10 w (R _ _ _ rfl)
  have eVcmpGroup := Coded.arm_VcmpGroup_4 w (R _ _ _ rfl)
  show decodeVector w = _
  rw [eVector, eVcmpGroup, if_pos (R _ _ _ rfl)]
  rw [Coded.fmt_eq w 24 3 t (R _ _ _ rfl),
    Coded.fld_eq w 18 4 m (R _ _ _ rfl),
    Coded.fld_eq w 12 6 a (R _ _ _ rfl),
    Coded.fld_eq w 6 6 b (R _ _ _ rfl),
    Coded.fld_eq w 4 2 k (R _ _ _ rfl),
    Coded.bit_eq w 3 hb (R _ _ _ rfl)]
  rfl

theorem Coded.vcmpGe (t : VFmt) (m : Fin 16) (a : Fin 64) (b : Fin 64) (k : Fin 4) (hb : Bool) : Coded.Statement (.vcmpGe t m a b k hb) := by
  intro _ w h
  have R := Coded.read [(0x0A, 27, 4), (t.code, 24, 3), (m.val, 18, 4), (a.val, 12, 6), (b.val, 6, 6), (k.val, 4, 2), (hb.toNat, 3, 1), (0x05, 0, 3)] h rfl
    ⟨by decide, Coded.code_lt t, m.isLt, a.isLt, b.isLt, k.isLt, Coded.toNat_lt hb, by decide, trivial⟩
  have eVector := Coded.arm_Vector_10 w (R _ _ _ rfl)
  have eVcmpGroup := Coded.arm_VcmpGroup_5 w (R _ _ _ rfl)
  show decodeVector w = _
  rw [eVector, eVcmpGroup, if_pos (R _ _ _ rfl)]
  rw [Coded.fmt_eq w 24 3 t (R _ _ _ rfl),
    Coded.fld_eq w 18 4 m (R _ _ _ rfl),
    Coded.fld_eq w 12 6 a (R _ _ _ rfl),
    Coded.fld_eq w 6 6 b (R _ _ _ rfl),
    Coded.fld_eq w 4 2 k (R _ _ _ rfl),
    Coded.bit_eq w 3 hb (R _ _ _ rfl)]
  rfl

theorem Coded.vcmpUo (t : VFmt) (m : Fin 16) (a : Fin 64) (b : Fin 64) (k : Fin 4) (hb : Bool) : Coded.Statement (.vcmpUo t m a b k hb) := by
  intro _ w h
  have R := Coded.read [(0x0A, 27, 4), (t.code, 24, 3), (m.val, 18, 4), (a.val, 12, 6), (b.val, 6, 6), (k.val, 4, 2), (hb.toNat, 3, 1), (0x06, 0, 3)] h rfl
    ⟨by decide, Coded.code_lt t, m.isLt, a.isLt, b.isLt, k.isLt, Coded.toNat_lt hb, by decide, trivial⟩
  have eVector := Coded.arm_Vector_10 w (R _ _ _ rfl)
  have eVcmpGroup := Coded.arm_VcmpGroup_6 w (R _ _ _ rfl)
  show decodeVector w = _
  rw [eVector, eVcmpGroup, if_pos (R _ _ _ rfl)]
  rw [Coded.fmt_eq w 24 3 t (R _ _ _ rfl),
    Coded.fld_eq w 18 4 m (R _ _ _ rfl),
    Coded.fld_eq w 12 6 a (R _ _ _ rfl),
    Coded.fld_eq w 6 6 b (R _ _ _ rfl),
    Coded.fld_eq w 4 2 k (R _ _ _ rfl),
    Coded.bit_eq w 3 hb (R _ _ _ rfl)]
  rfl

theorem Coded.vsel (t : VFmt) (d : Fin 64) (a : Fin 64) (b : Fin 64) (k : Fin 4) (hb : Bool) (sc : Fin 8) : Coded.Statement (.vsel t d a b k hb sc) := by
  intro _ w h
  have R := Coded.read [(0x0B, 27, 4), (t.code, 24, 3), (d.val, 18, 6), (a.val, 12, 6), (b.val, 6, 6), (k.val, 4, 2), (hb.toNat, 3, 1), (sc.val, 0, 3)] h rfl
    ⟨by decide, Coded.code_lt t, d.isLt, a.isLt, b.isLt, k.isLt, Coded.toNat_lt hb, sc.isLt, trivial⟩
  have eVector := Coded.arm_Vector_11 w (R _ _ _ rfl)
  show decodeVector w = _
  rw [eVector]
  rw [Coded.fmt_eq w 24 3 t (R _ _ _ rfl),
    Coded.fld_eq w 18 6 d (R _ _ _ rfl),
    Coded.fld_eq w 12 6 a (R _ _ _ rfl),
    Coded.fld_eq w 6 6 b (R _ _ _ rfl),
    Coded.fld_eq w 4 2 k (R _ _ _ rfl),
    Coded.bit_eq w 3 hb (R _ _ _ rfl),
    Coded.fld_eq w 0 3 sc (R _ _ _ rfl)]
  rfl

theorem Coded.vbitClz (t : VFmt) (d : Fin 64) (a : Fin 64) (k : Fin 4) : Coded.Statement (.vbitClz t d a k) := by
  intro _ w h
  have R := Coded.read [(0x0C, 27, 4), (t.code, 24, 3), (d.val, 18, 6), (a.val, 12, 6), (k.val, 4, 2)] h rfl
    ⟨by decide, Coded.code_lt t, d.isLt, a.isLt, k.isLt, trivial⟩
  have eVector := Coded.arm_Vector_12 w (R _ _ _ rfl)
  have eVbitGroup := Coded.arm_VbitGroup_0 w (R _ _ _ rfl)
  show decodeVector w = _
  rw [eVector, eVbitGroup, if_pos (R _ _ _ rfl)]
  rw [Coded.fmt_eq w 24 3 t (R _ _ _ rfl),
    Coded.fld_eq w 18 6 d (R _ _ _ rfl),
    Coded.fld_eq w 12 6 a (R _ _ _ rfl),
    Coded.fld_eq w 4 2 k (R _ _ _ rfl)]
  rfl

theorem Coded.vbitCtz (t : VFmt) (d : Fin 64) (a : Fin 64) (k : Fin 4) : Coded.Statement (.vbitCtz t d a k) := by
  intro _ w h
  have R := Coded.read [(0x0C, 27, 4), (t.code, 24, 3), (d.val, 18, 6), (a.val, 12, 6), (k.val, 4, 2), (0x01, 0, 1)] h rfl
    ⟨by decide, Coded.code_lt t, d.isLt, a.isLt, k.isLt, by decide, trivial⟩
  have eVector := Coded.arm_Vector_12 w (R _ _ _ rfl)
  have eVbitGroup := Coded.arm_VbitGroup_1 w (R _ _ _ rfl)
  show decodeVector w = _
  rw [eVector, eVbitGroup, if_pos (R _ _ _ rfl)]
  rw [Coded.fmt_eq w 24 3 t (R _ _ _ rfl),
    Coded.fld_eq w 18 6 d (R _ _ _ rfl),
    Coded.fld_eq w 12 6 a (R _ _ _ rfl),
    Coded.fld_eq w 4 2 k (R _ _ _ rfl)]
  rfl

theorem Coded.vbitFfs (t : VFmt) (d : Fin 64) (a : Fin 64) (k : Fin 4) : Coded.Statement (.vbitFfs t d a k) := by
  intro _ w h
  have R := Coded.read [(0x0C, 27, 4), (t.code, 24, 3), (d.val, 18, 6), (a.val, 12, 6), (k.val, 4, 2), (0x02, 0, 2)] h rfl
    ⟨by decide, Coded.code_lt t, d.isLt, a.isLt, k.isLt, by decide, trivial⟩
  have eVector := Coded.arm_Vector_12 w (R _ _ _ rfl)
  have eVbitGroup := Coded.arm_VbitGroup_2 w (R _ _ _ rfl)
  show decodeVector w = _
  rw [eVector, eVbitGroup, if_pos (R _ _ _ rfl)]
  rw [Coded.fmt_eq w 24 3 t (R _ _ _ rfl),
    Coded.fld_eq w 18 6 d (R _ _ _ rfl),
    Coded.fld_eq w 12 6 a (R _ _ _ rfl),
    Coded.fld_eq w 4 2 k (R _ _ _ rfl)]
  rfl

theorem Coded.vbitPopc (t : VFmt) (d : Fin 64) (a : Fin 64) (k : Fin 4) : Coded.Statement (.vbitPopc t d a k) := by
  intro _ w h
  have R := Coded.read [(0x0C, 27, 4), (t.code, 24, 3), (d.val, 18, 6), (a.val, 12, 6), (k.val, 4, 2), (0x03, 0, 2)] h rfl
    ⟨by decide, Coded.code_lt t, d.isLt, a.isLt, k.isLt, by decide, trivial⟩
  have eVector := Coded.arm_Vector_12 w (R _ _ _ rfl)
  have eVbitGroup := Coded.arm_VbitGroup_3 w (R _ _ _ rfl)
  show decodeVector w = _
  rw [eVector, eVbitGroup, if_pos (R _ _ _ rfl)]
  rw [Coded.fmt_eq w 24 3 t (R _ _ _ rfl),
    Coded.fld_eq w 18 6 d (R _ _ _ rfl),
    Coded.fld_eq w 12 6 a (R _ _ _ rfl),
    Coded.fld_eq w 4 2 k (R _ _ _ rfl)]
  rfl

theorem Coded.vbfxN32 (d : Fin 64) (a : Fin 64) (b : Fin 64) (k : Fin 4) (hb : Bool) : Coded.Statement (.vbfxN32 d a b k hb) := by
  intro _ w h
  have R := Coded.read [(0x0D, 27, 4), (0x04, 24, 3), (d.val, 18, 6), (a.val, 12, 6), (b.val, 6, 6), (k.val, 4, 2), (hb.toNat, 3, 1)] h rfl
    ⟨by decide, by decide, d.isLt, a.isLt, b.isLt, k.isLt, Coded.toNat_lt hb, trivial⟩
  have eVector := Coded.arm_Vector_13 w (R _ _ _ rfl)
  have eVbfxGroup := Coded.arm_VbfxGroup_4 w (R _ _ _ rfl)
  show decodeVector w = _
  rw [eVector, eVbfxGroup, if_pos (R _ _ _ rfl)]
  rw [Coded.fld_eq w 18 6 d (R _ _ _ rfl),
    Coded.fld_eq w 12 6 a (R _ _ _ rfl),
    Coded.fld_eq w 6 6 b (R _ _ _ rfl),
    Coded.fld_eq w 4 2 k (R _ _ _ rfl),
    Coded.bit_eq w 3 hb (R _ _ _ rfl)]
  rfl

theorem Coded.vbfxI32 (d : Fin 64) (a : Fin 64) (b : Fin 64) (k : Fin 4) (hb : Bool) : Coded.Statement (.vbfxI32 d a b k hb) := by
  intro _ w h
  have R := Coded.read [(0x0D, 27, 4), (0x02, 24, 2), (d.val, 18, 6), (a.val, 12, 6), (b.val, 6, 6), (k.val, 4, 2), (hb.toNat, 3, 1), (0x01, 0, 1)] h rfl
    ⟨by decide, by decide, d.isLt, a.isLt, b.isLt, k.isLt, Coded.toNat_lt hb, by decide, trivial⟩
  have eVector := Coded.arm_Vector_13 w (R _ _ _ rfl)
  have eVbfxGroup := Coded.arm_VbfxGroup_2 w (R _ _ _ rfl)
  show decodeVector w = _
  rw [eVector, eVbfxGroup, if_pos (R _ _ _ rfl)]
  rw [Coded.fld_eq w 18 6 d (R _ _ _ rfl),
    Coded.fld_eq w 12 6 a (R _ _ _ rfl),
    Coded.fld_eq w 6 6 b (R _ _ _ rfl),
    Coded.fld_eq w 4 2 k (R _ _ _ rfl),
    Coded.bit_eq w 3 hb (R _ _ _ rfl)]
  rfl

theorem Coded.vfshLeft (t : VFmt) (d : Fin 64) (a : Fin 64) (b : Fin 64) (k : Fin 4) (hb : Bool) : Coded.Statement (.vfshLeft t d a b k hb) := by
  intro _ w h
  have R := Coded.read [(0x0E, 27, 4), (t.code, 24, 3), (d.val, 18, 6), (a.val, 12, 6), (b.val, 6, 6), (k.val, 4, 2), (hb.toNat, 3, 1)] h rfl
    ⟨by decide, Coded.code_lt t, d.isLt, a.isLt, b.isLt, k.isLt, Coded.toNat_lt hb, trivial⟩
  have eVector := Coded.arm_Vector_14 w (R _ _ _ rfl)
  have eVfshGroup := Coded.arm_VfshGroup_0 w (R _ _ _ rfl)
  show decodeVector w = _
  rw [eVector, eVfshGroup]
  rw [Coded.fmt_eq w 24 3 t (R _ _ _ rfl),
    Coded.fld_eq w 18 6 d (R _ _ _ rfl),
    Coded.fld_eq w 12 6 a (R _ _ _ rfl),
    Coded.fld_eq w 6 6 b (R _ _ _ rfl),
    Coded.fld_eq w 4 2 k (R _ _ _ rfl),
    Coded.bit_eq w 3 hb (R _ _ _ rfl)]
  rfl

theorem Coded.vfshRight (t : VFmt) (d : Fin 64) (a : Fin 64) (b : Fin 64) (k : Fin 4) (hb : Bool) : Coded.Statement (.vfshRight t d a b k hb) := by
  intro _ w h
  have R := Coded.read [(0x0E, 27, 4), (t.code, 24, 3), (d.val, 18, 6), (a.val, 12, 6), (b.val, 6, 6), (k.val, 4, 2), (hb.toNat, 3, 1), (0x01, 0, 1)] h rfl
    ⟨by decide, Coded.code_lt t, d.isLt, a.isLt, b.isLt, k.isLt, Coded.toNat_lt hb, by decide, trivial⟩
  have eVector := Coded.arm_Vector_14 w (R _ _ _ rfl)
  have eVfshGroup := Coded.arm_VfshGroup_1 w (R _ _ _ rfl)
  show decodeVector w = _
  rw [eVector, eVfshGroup]
  rw [Coded.fmt_eq w 24 3 t (R _ _ _ rfl),
    Coded.fld_eq w 18 6 d (R _ _ _ rfl),
    Coded.fld_eq w 12 6 a (R _ _ _ rfl),
    Coded.fld_eq w 6 6 b (R _ _ _ rfl),
    Coded.fld_eq w 4 2 k (R _ _ _ rfl),
    Coded.bit_eq w 3 hb (R _ _ _ rfl)]
  rfl

theorem Coded.vspecExp2 (d : Fin 64) (a : Fin 64) (k : Fin 4) : Coded.Statement (.vspecExp2 d a k) := by
  intro _ w h
  have R := Coded.read [(0x0F, 27, 4), (0x07, 24, 3), (d.val, 18, 6), (a.val, 12, 6), (k.val, 4, 2)] h rfl
    ⟨by decide, by decide, d.isLt, a.isLt, k.isLt, trivial⟩
  have eVector := Coded.arm_Vector_15 w (R _ _ _ rfl)
  have eVspecGroup := Coded.arm_VspecGroup_0 w (R _ _ _ rfl)
  show decodeVector w = _
  rw [eVector, eVspecGroup, if_pos ⟨R _ _ _ rfl, R _ _ _ rfl⟩]
  rw [Coded.fld_eq w 18 6 d (R _ _ _ rfl),
    Coded.fld_eq w 12 6 a (R _ _ _ rfl),
    Coded.fld_eq w 4 2 k (R _ _ _ rfl)]
  rfl

theorem Coded.vspecLog2 (d : Fin 64) (a : Fin 64) (k : Fin 4) : Coded.Statement (.vspecLog2 d a k) := by
  intro _ w h
  have R := Coded.read [(0x0F, 27, 4), (0x07, 24, 3), (d.val, 18, 6), (a.val, 12, 6), (k.val, 4, 2), (0x01, 0, 1)] h rfl
    ⟨by decide, by decide, d.isLt, a.isLt, k.isLt, by decide, trivial⟩
  have eVector := Coded.arm_Vector_15 w (R _ _ _ rfl)
  have eVspecGroup := Coded.arm_VspecGroup_1 w (R _ _ _ rfl)
  show decodeVector w = _
  rw [eVector, eVspecGroup, if_pos ⟨R _ _ _ rfl, R _ _ _ rfl⟩]
  rw [Coded.fld_eq w 18 6 d (R _ _ _ rfl),
    Coded.fld_eq w 12 6 a (R _ _ _ rfl),
    Coded.fld_eq w 4 2 k (R _ _ _ rfl)]
  rfl

theorem Coded.vspecRcp (d : Fin 64) (a : Fin 64) (k : Fin 4) : Coded.Statement (.vspecRcp d a k) := by
  intro _ w h
  have R := Coded.read [(0x0F, 27, 4), (0x07, 24, 3), (d.val, 18, 6), (a.val, 12, 6), (k.val, 4, 2), (0x02, 0, 2)] h rfl
    ⟨by decide, by decide, d.isLt, a.isLt, k.isLt, by decide, trivial⟩
  have eVector := Coded.arm_Vector_15 w (R _ _ _ rfl)
  have eVspecGroup := Coded.arm_VspecGroup_2 w (R _ _ _ rfl)
  show decodeVector w = _
  rw [eVector, eVspecGroup, if_pos ⟨R _ _ _ rfl, R _ _ _ rfl⟩]
  rw [Coded.fld_eq w 18 6 d (R _ _ _ rfl),
    Coded.fld_eq w 12 6 a (R _ _ _ rfl),
    Coded.fld_eq w 4 2 k (R _ _ _ rfl)]
  rfl

theorem Coded.vspecRsqrt (d : Fin 64) (a : Fin 64) (k : Fin 4) : Coded.Statement (.vspecRsqrt d a k) := by
  intro _ w h
  have R := Coded.read [(0x0F, 27, 4), (0x07, 24, 3), (d.val, 18, 6), (a.val, 12, 6), (k.val, 4, 2), (0x03, 0, 2)] h rfl
    ⟨by decide, by decide, d.isLt, a.isLt, k.isLt, by decide, trivial⟩
  have eVector := Coded.arm_Vector_15 w (R _ _ _ rfl)
  have eVspecGroup := Coded.arm_VspecGroup_3 w (R _ _ _ rfl)
  show decodeVector w = _
  rw [eVector, eVspecGroup, if_pos ⟨R _ _ _ rfl, R _ _ _ rfl⟩]
  rw [Coded.fld_eq w 18 6 d (R _ _ _ rfl),
    Coded.fld_eq w 12 6 a (R _ _ _ rfl),
    Coded.fld_eq w 4 2 k (R _ _ _ rfl)]
  rfl

theorem Coded.vspecSqrt (d : Fin 64) (a : Fin 64) (k : Fin 4) : Coded.Statement (.vspecSqrt d a k) := by
  intro _ w h
  have R := Coded.read [(0x0F, 27, 4), (0x07, 24, 3), (d.val, 18, 6), (a.val, 12, 6), (k.val, 4, 2), (0x04, 0, 3)] h rfl
    ⟨by decide, by decide, d.isLt, a.isLt, k.isLt, by decide, trivial⟩
  have eVector := Coded.arm_Vector_15 w (R _ _ _ rfl)
  have eVspecGroup := Coded.arm_VspecGroup_4 w (R _ _ _ rfl)
  show decodeVector w = _
  rw [eVector, eVspecGroup, if_pos ⟨R _ _ _ rfl, R _ _ _ rfl⟩]
  rw [Coded.fld_eq w 18 6 d (R _ _ _ rfl),
    Coded.fld_eq w 12 6 a (R _ _ _ rfl),
    Coded.fld_eq w 4 2 k (R _ _ _ rfl)]
  rfl

theorem Coded.vredAdd (t : VFmt) (d : Fin 64) (a : Fin 64) (k : Fin 4) : Coded.Statement (.vredAdd t d a k) := by
  intro _ w h
  have R := Coded.read [(0x10, 27, 5), (t.code, 24, 3), (d.val, 18, 6), (a.val, 12, 6), (k.val, 4, 2)] h rfl
    ⟨by decide, Coded.code_lt t, d.isLt, a.isLt, k.isLt, trivial⟩
  have eVector := Coded.arm_Vector_16 w (R _ _ _ rfl)
  have eVredGroup := Coded.arm_VredGroup_0 w (R _ _ _ rfl)
  show decodeVector w = _
  rw [eVector, eVredGroup, if_pos (R _ _ _ rfl)]
  rw [Coded.fmt_eq w 24 3 t (R _ _ _ rfl),
    Coded.fld_eq w 18 6 d (R _ _ _ rfl),
    Coded.fld_eq w 12 6 a (R _ _ _ rfl),
    Coded.fld_eq w 4 2 k (R _ _ _ rfl)]
  rfl

theorem Coded.vredMax (t : VFmt) (d : Fin 64) (a : Fin 64) (k : Fin 4) : Coded.Statement (.vredMax t d a k) := by
  intro _ w h
  have R := Coded.read [(0x10, 27, 5), (t.code, 24, 3), (d.val, 18, 6), (a.val, 12, 6), (k.val, 4, 2), (0x01, 0, 1)] h rfl
    ⟨by decide, Coded.code_lt t, d.isLt, a.isLt, k.isLt, by decide, trivial⟩
  have eVector := Coded.arm_Vector_16 w (R _ _ _ rfl)
  have eVredGroup := Coded.arm_VredGroup_1 w (R _ _ _ rfl)
  show decodeVector w = _
  rw [eVector, eVredGroup, if_pos (R _ _ _ rfl)]
  rw [Coded.fmt_eq w 24 3 t (R _ _ _ rfl),
    Coded.fld_eq w 18 6 d (R _ _ _ rfl),
    Coded.fld_eq w 12 6 a (R _ _ _ rfl),
    Coded.fld_eq w 4 2 k (R _ _ _ rfl)]
  rfl

theorem Coded.vredMin (t : VFmt) (d : Fin 64) (a : Fin 64) (k : Fin 4) : Coded.Statement (.vredMin t d a k) := by
  intro _ w h
  have R := Coded.read [(0x10, 27, 5), (t.code, 24, 3), (d.val, 18, 6), (a.val, 12, 6), (k.val, 4, 2), (0x02, 0, 2)] h rfl
    ⟨by decide, Coded.code_lt t, d.isLt, a.isLt, k.isLt, by decide, trivial⟩
  have eVector := Coded.arm_Vector_16 w (R _ _ _ rfl)
  have eVredGroup := Coded.arm_VredGroup_2 w (R _ _ _ rfl)
  show decodeVector w = _
  rw [eVector, eVredGroup, if_pos (R _ _ _ rfl)]
  rw [Coded.fmt_eq w 24 3 t (R _ _ _ rfl),
    Coded.fld_eq w 18 6 d (R _ _ _ rfl),
    Coded.fld_eq w 12 6 a (R _ _ _ rfl),
    Coded.fld_eq w 4 2 k (R _ _ _ rfl)]
  rfl

theorem Coded.vshuf (t : VFmt) (d : Fin 64) (a : Fin 64) (b : Fin 64) (k : Fin 4) (hb : Bool) : Coded.Statement (.vshuf t d a b k hb) := by
  intro _ w h
  have R := Coded.read [(0x11, 27, 5), (t.code, 24, 3), (d.val, 18, 6), (a.val, 12, 6), (b.val, 6, 6), (k.val, 4, 2), (hb.toNat, 3, 1)] h rfl
    ⟨by decide, Coded.code_lt t, d.isLt, a.isLt, b.isLt, k.isLt, Coded.toNat_lt hb, trivial⟩
  have eVector := Coded.arm_Vector_17 w (R _ _ _ rfl)
  show decodeVector w = _
  rw [eVector, if_pos (R _ _ _ rfl)]
  rw [Coded.fmt_eq w 24 3 t (R _ _ _ rfl),
    Coded.fld_eq w 18 6 d (R _ _ _ rfl),
    Coded.fld_eq w 12 6 a (R _ _ _ rfl),
    Coded.fld_eq w 6 6 b (R _ _ _ rfl),
    Coded.fld_eq w 4 2 k (R _ _ _ rfl),
    Coded.bit_eq w 3 hb (R _ _ _ rfl)]
  rfl

theorem Coded.vrot (t : VFmt) (d : Fin 64) (a : Fin 64) (b : Fin 64) (k : Fin 4) (hb : Bool) : Coded.Statement (.vrot t d a b k hb) := by
  intro _ w h
  have R := Coded.read [(0x12, 27, 5), (t.code, 24, 3), (d.val, 18, 6), (a.val, 12, 6), (b.val, 6, 6), (k.val, 4, 2), (hb.toNat, 3, 1)] h rfl
    ⟨by decide, Coded.code_lt t, d.isLt, a.isLt, b.isLt, k.isLt, Coded.toNat_lt hb, trivial⟩
  have eVector := Coded.arm_Vector_18 w (R _ _ _ rfl)
  show decodeVector w = _
  rw [eVector, if_pos (R _ _ _ rfl)]
  rw [Coded.fmt_eq w 24 3 t (R _ _ _ rfl),
    Coded.fld_eq w 18 6 d (R _ _ _ rfl),
    Coded.fld_eq w 12 6 a (R _ _ _ rfl),
    Coded.fld_eq w 6 6 b (R _ _ _ rfl),
    Coded.fld_eq w 4 2 k (R _ _ _ rfl),
    Coded.bit_eq w 3 hb (R _ _ _ rfl)]
  rfl

theorem Coded.vxg (t : VFmt) (d : Fin 64) (a : Fin 64) (b : Fin 64) (k : Fin 4) (hb : Bool) : Coded.Statement (.vxg t d a b k hb) := by
  intro _ w h
  have R := Coded.read [(0x13, 27, 5), (t.code, 24, 3), (d.val, 18, 6), (a.val, 12, 6), (b.val, 6, 6), (k.val, 4, 2), (hb.toNat, 3, 1)] h rfl
    ⟨by decide, Coded.code_lt t, d.isLt, a.isLt, b.isLt, k.isLt, Coded.toNat_lt hb, trivial⟩
  have eVector := Coded.arm_Vector_19 w (R _ _ _ rfl)
  show decodeVector w = _
  rw [eVector, if_pos (R _ _ _ rfl)]
  rw [Coded.fmt_eq w 24 3 t (R _ _ _ rfl),
    Coded.fld_eq w 18 6 d (R _ _ _ rfl),
    Coded.fld_eq w 12 6 a (R _ _ _ rfl),
    Coded.fld_eq w 6 6 b (R _ _ _ rfl),
    Coded.fld_eq w 4 2 k (R _ _ _ rfl),
    Coded.bit_eq w 3 hb (R _ _ _ rfl)]
  rfl

theorem Coded.vbcast (t : VFmt) (d : Fin 64) (a : Fin 64) (k : Fin 4) : Coded.Statement (.vbcast t d a k) := by
  intro _ w h
  have R := Coded.read [(0x14, 27, 5), (t.code, 24, 3), (d.val, 18, 6), (a.val, 12, 6), (k.val, 4, 2)] h rfl
    ⟨by decide, Coded.code_lt t, d.isLt, a.isLt, k.isLt, trivial⟩
  have eVector := Coded.arm_Vector_20 w (R _ _ _ rfl)
  show decodeVector w = _
  rw [eVector, if_pos ⟨R _ _ _ rfl, R _ _ _ rfl⟩]
  rw [Coded.fmt_eq w 24 3 t (R _ _ _ rfl),
    Coded.fld_eq w 18 6 d (R _ _ _ rfl),
    Coded.fld_eq w 12 6 a (R _ _ _ rfl),
    Coded.fld_eq w 4 2 k (R _ _ _ rfl)]
  rfl

theorem Coded.vext (t : VFmt) (d : Fin 64) (a : Fin 64) (b : Fin 64) : Coded.Statement (.vext t d a b) := by
  intro _ w h
  have R := Coded.read [(0x15, 27, 5), (t.code, 24, 3), (d.val, 18, 6), (a.val, 12, 6), (b.val, 6, 6)] h rfl
    ⟨by decide, Coded.code_lt t, d.isLt, a.isLt, b.isLt, trivial⟩
  have eVector := Coded.arm_Vector_21 w (R _ _ _ rfl)
  show decodeVector w = _
  rw [eVector, if_pos (R _ _ _ rfl)]
  rw [Coded.fmt_eq w 24 3 t (R _ _ _ rfl),
    Coded.fld_eq w 18 6 d (R _ _ _ rfl),
    Coded.fld_eq w 12 6 a (R _ _ _ rfl),
    Coded.fld_eq w 6 6 b (R _ _ _ rfl)]
  rfl

theorem Coded.vld (t : VFmt) (d : Fin 64) (a : Fin 64) (b : Fin 64) (k : Fin 4) : Coded.Statement (.vld t d a b k) := by
  intro _ w h
  have R := Coded.read [(0x16, 27, 5), (t.code, 24, 3), (d.val, 18, 6), (a.val, 12, 6), (b.val, 6, 6), (k.val, 4, 2)] h rfl
    ⟨by decide, Coded.code_lt t, d.isLt, a.isLt, b.isLt, k.isLt, trivial⟩
  have eVector := Coded.arm_Vector_22 w (R _ _ _ rfl)
  show decodeVector w = _
  rw [eVector, if_pos (R _ _ _ rfl)]
  rw [Coded.fmt_eq w 24 3 t (R _ _ _ rfl),
    Coded.fld_eq w 18 6 d (R _ _ _ rfl),
    Coded.fld_eq w 12 6 a (R _ _ _ rfl),
    Coded.fld_eq w 6 6 b (R _ _ _ rfl),
    Coded.fld_eq w 4 2 k (R _ _ _ rfl)]
  rfl

theorem Coded.vst (t : VFmt) (d : Fin 64) (a : Fin 64) (b : Fin 64) (k : Fin 4) : Coded.Statement (.vst t d a b k) := by
  intro _ w h
  have R := Coded.read [(0x17, 27, 5), (t.code, 24, 3), (d.val, 18, 6), (a.val, 12, 6), (b.val, 6, 6), (k.val, 4, 2)] h rfl
    ⟨by decide, Coded.code_lt t, d.isLt, a.isLt, b.isLt, k.isLt, trivial⟩
  have eVector := Coded.arm_Vector_23 w (R _ _ _ rfl)
  show decodeVector w = _
  rw [eVector, if_pos (R _ _ _ rfl)]
  rw [Coded.fmt_eq w 24 3 t (R _ _ _ rfl),
    Coded.fld_eq w 18 6 d (R _ _ _ rfl),
    Coded.fld_eq w 12 6 a (R _ _ _ rfl),
    Coded.fld_eq w 6 6 b (R _ _ _ rfl),
    Coded.fld_eq w 4 2 k (R _ _ _ rfl)]
  rfl

theorem Coded.vgath (t : VFmt) (d : Fin 64) (a : Fin 64) (b : Fin 64) (k : Fin 4) : Coded.Statement (.vgath t d a b k) := by
  intro _ w h
  have R := Coded.read [(0x18, 27, 5), (t.code, 24, 3), (d.val, 18, 6), (a.val, 12, 6), (b.val, 6, 6), (k.val, 4, 2)] h rfl
    ⟨by decide, Coded.code_lt t, d.isLt, a.isLt, b.isLt, k.isLt, trivial⟩
  have eVector := Coded.arm_Vector_24 w (R _ _ _ rfl)
  show decodeVector w = _
  rw [eVector, if_pos (R _ _ _ rfl)]
  rw [Coded.fmt_eq w 24 3 t (R _ _ _ rfl),
    Coded.fld_eq w 18 6 d (R _ _ _ rfl),
    Coded.fld_eq w 12 6 a (R _ _ _ rfl),
    Coded.fld_eq w 6 6 b (R _ _ _ rfl),
    Coded.fld_eq w 4 2 k (R _ _ _ rfl)]
  rfl

theorem Coded.vscat (t : VFmt) (d : Fin 64) (a : Fin 64) (b : Fin 64) (k : Fin 4) : Coded.Statement (.vscat t d a b k) := by
  intro _ w h
  have R := Coded.read [(0x19, 27, 5), (t.code, 24, 3), (d.val, 18, 6), (a.val, 12, 6), (b.val, 6, 6), (k.val, 4, 2)] h rfl
    ⟨by decide, Coded.code_lt t, d.isLt, a.isLt, b.isLt, k.isLt, trivial⟩
  have eVector := Coded.arm_Vector_25 w (R _ _ _ rfl)
  show decodeVector w = _
  rw [eVector, if_pos (R _ _ _ rfl)]
  rw [Coded.fmt_eq w 24 3 t (R _ _ _ rfl),
    Coded.fld_eq w 18 6 d (R _ _ _ rfl),
    Coded.fld_eq w 12 6 a (R _ _ _ rfl),
    Coded.fld_eq w 6 6 b (R _ _ _ rfl),
    Coded.fld_eq w 4 2 k (R _ _ _ rfl)]
  rfl

theorem Coded.vamoAdd (t : VFmt) (d : Fin 64) (a : Fin 64) (b : Fin 64) (k : Fin 4) : Coded.Statement (.vamoAdd t d a b k) := by
  intro _ w h
  have R := Coded.read [(0x1A, 27, 5), (t.code, 24, 3), (d.val, 18, 6), (a.val, 12, 6), (b.val, 6, 6), (k.val, 4, 2)] h rfl
    ⟨by decide, Coded.code_lt t, d.isLt, a.isLt, b.isLt, k.isLt, trivial⟩
  have eVector := Coded.arm_Vector_26 w (R _ _ _ rfl)
  have eVamoGroup := Coded.arm_VamoGroup_0 w (R _ _ _ rfl)
  show decodeVector w = _
  rw [eVector, eVamoGroup]
  rw [Coded.fmt_eq w 24 3 t (R _ _ _ rfl),
    Coded.fld_eq w 18 6 d (R _ _ _ rfl),
    Coded.fld_eq w 12 6 a (R _ _ _ rfl),
    Coded.fld_eq w 6 6 b (R _ _ _ rfl),
    Coded.fld_eq w 4 2 k (R _ _ _ rfl)]
  rfl

theorem Coded.vamoAddSr (d : Fin 64) (a : Fin 64) (b : Fin 64) (k : Fin 4) : Coded.Statement (.vamoAddSr d a b k) := by
  intro _ w h
  have R := Coded.read [(0x1A, 27, 5), (0x06, 24, 3), (d.val, 18, 6), (a.val, 12, 6), (b.val, 6, 6), (k.val, 4, 2), (0x01, 0, 1)] h rfl
    ⟨by decide, by decide, d.isLt, a.isLt, b.isLt, k.isLt, by decide, trivial⟩
  have eVector := Coded.arm_Vector_26 w (R _ _ _ rfl)
  have eVamoGroup := Coded.arm_VamoGroup_1 w (R _ _ _ rfl)
  show decodeVector w = _
  rw [eVector, eVamoGroup, if_pos (R _ _ _ rfl)]
  rw [Coded.fld_eq w 18 6 d (R _ _ _ rfl),
    Coded.fld_eq w 12 6 a (R _ _ _ rfl),
    Coded.fld_eq w 6 6 b (R _ _ _ rfl),
    Coded.fld_eq w 4 2 k (R _ _ _ rfl)]
  rfl

theorem Coded.vamoMin (t : VFmt) (d : Fin 64) (a : Fin 64) (b : Fin 64) (k : Fin 4) : Coded.Statement (.vamoMin t d a b k) := by
  intro _ w h
  have R := Coded.read [(0x1A, 27, 5), (t.code, 24, 3), (d.val, 18, 6), (a.val, 12, 6), (b.val, 6, 6), (k.val, 4, 2), (0x02, 0, 2)] h rfl
    ⟨by decide, Coded.code_lt t, d.isLt, a.isLt, b.isLt, k.isLt, by decide, trivial⟩
  have eVector := Coded.arm_Vector_26 w (R _ _ _ rfl)
  have eVamoGroup := Coded.arm_VamoGroup_2 w (R _ _ _ rfl)
  show decodeVector w = _
  rw [eVector, eVamoGroup]
  rw [Coded.fmt_eq w 24 3 t (R _ _ _ rfl),
    Coded.fld_eq w 18 6 d (R _ _ _ rfl),
    Coded.fld_eq w 12 6 a (R _ _ _ rfl),
    Coded.fld_eq w 6 6 b (R _ _ _ rfl),
    Coded.fld_eq w 4 2 k (R _ _ _ rfl)]
  rfl

theorem Coded.vamoMax (t : VFmt) (d : Fin 64) (a : Fin 64) (b : Fin 64) (k : Fin 4) : Coded.Statement (.vamoMax t d a b k) := by
  intro _ w h
  have R := Coded.read [(0x1A, 27, 5), (t.code, 24, 3), (d.val, 18, 6), (a.val, 12, 6), (b.val, 6, 6), (k.val, 4, 2), (0x03, 0, 2)] h rfl
    ⟨by decide, Coded.code_lt t, d.isLt, a.isLt, b.isLt, k.isLt, by decide, trivial⟩
  have eVector := Coded.arm_Vector_26 w (R _ _ _ rfl)
  have eVamoGroup := Coded.arm_VamoGroup_3 w (R _ _ _ rfl)
  show decodeVector w = _
  rw [eVector, eVamoGroup]
  rw [Coded.fmt_eq w 24 3 t (R _ _ _ rfl),
    Coded.fld_eq w 18 6 d (R _ _ _ rfl),
    Coded.fld_eq w 12 6 a (R _ _ _ rfl),
    Coded.fld_eq w 6 6 b (R _ _ _ rfl),
    Coded.fld_eq w 4 2 k (R _ _ _ rfl)]
  rfl

theorem Coded.vamoFmax (t : VFmt) (d : Fin 64) (a : Fin 64) (b : Fin 64) (k : Fin 4) : Coded.Statement (.vamoFmax t d a b k) := by
  intro _ w h
  have R := Coded.read [(0x1A, 27, 5), (t.code, 24, 3), (d.val, 18, 6), (a.val, 12, 6), (b.val, 6, 6), (k.val, 4, 2), (0x04, 0, 3)] h rfl
    ⟨by decide, Coded.code_lt t, d.isLt, a.isLt, b.isLt, k.isLt, by decide, trivial⟩
  have eVector := Coded.arm_Vector_26 w (R _ _ _ rfl)
  have eVamoGroup := Coded.arm_VamoGroup_4 w (R _ _ _ rfl)
  show decodeVector w = _
  rw [eVector, eVamoGroup]
  rw [Coded.fmt_eq w 24 3 t (R _ _ _ rfl),
    Coded.fld_eq w 18 6 d (R _ _ _ rfl),
    Coded.fld_eq w 12 6 a (R _ _ _ rfl),
    Coded.fld_eq w 6 6 b (R _ _ _ rfl),
    Coded.fld_eq w 4 2 k (R _ _ _ rfl)]
  rfl

theorem Coded.vqpt (t : VFmt) (d : Fin 64) (a : Fin 64) (b : Fin 64) (k : Fin 4) : Coded.Statement (.vqpt t d a b k) := by
  intro _ w h
  have R := Coded.read [(0x1C, 27, 5), (t.code, 24, 3), (d.val, 18, 6), (a.val, 12, 6), (b.val, 6, 6), (k.val, 4, 2)] h rfl
    ⟨by decide, Coded.code_lt t, d.isLt, a.isLt, b.isLt, k.isLt, trivial⟩
  have eVector := Coded.arm_Vector_28 w (R _ _ _ rfl)
  show decodeVector w = _
  rw [eVector, if_pos (R _ _ _ rfl)]
  rw [Coded.fmt_eq w 24 3 t (R _ _ _ rfl),
    Coded.fld_eq w 18 6 d (R _ _ _ rfl),
    Coded.fld_eq w 12 6 a (R _ _ _ rfl),
    Coded.fld_eq w 6 6 b (R _ _ _ rfl),
    Coded.fld_eq w 4 2 k (R _ _ _ rfl)]
  rfl

theorem Coded.vmaskAnd (d : Fin 16) (a : Fin 16) (b : Fin 16) (k : Fin 4) : Coded.Statement (.vmaskAnd d a b k) := by
  intro _ w h
  have R := Coded.read [(0x1D, 27, 5), (d.val, 18, 4), (a.val, 12, 4), (b.val, 6, 4), (k.val, 4, 2)] h rfl
    ⟨by decide, d.isLt, a.isLt, b.isLt, k.isLt, trivial⟩
  have eVector := Coded.arm_Vector_29 w (R _ _ _ rfl)
  have eVmaskGroup := Coded.arm_VmaskGroup_0 w (R _ _ _ rfl)
  show decodeVector w = _
  rw [eVector, eVmaskGroup, if_pos ⟨R _ _ _ rfl, R _ _ _ rfl, R _ _ _ rfl⟩]
  rw [Coded.fld_eq w 18 4 d (R _ _ _ rfl),
    Coded.fld_eq w 12 4 a (R _ _ _ rfl),
    Coded.fld_eq w 6 4 b (R _ _ _ rfl),
    Coded.fld_eq w 4 2 k (R _ _ _ rfl)]
  rfl

theorem Coded.vmaskOr (d : Fin 16) (a : Fin 16) (b : Fin 16) (k : Fin 4) : Coded.Statement (.vmaskOr d a b k) := by
  intro _ w h
  have R := Coded.read [(0x1D, 27, 5), (d.val, 18, 4), (a.val, 12, 4), (b.val, 6, 4), (k.val, 4, 2), (0x01, 0, 1)] h rfl
    ⟨by decide, d.isLt, a.isLt, b.isLt, k.isLt, by decide, trivial⟩
  have eVector := Coded.arm_Vector_29 w (R _ _ _ rfl)
  have eVmaskGroup := Coded.arm_VmaskGroup_1 w (R _ _ _ rfl)
  show decodeVector w = _
  rw [eVector, eVmaskGroup, if_pos ⟨R _ _ _ rfl, R _ _ _ rfl, R _ _ _ rfl⟩]
  rw [Coded.fld_eq w 18 4 d (R _ _ _ rfl),
    Coded.fld_eq w 12 4 a (R _ _ _ rfl),
    Coded.fld_eq w 6 4 b (R _ _ _ rfl),
    Coded.fld_eq w 4 2 k (R _ _ _ rfl)]
  rfl

theorem Coded.vmaskXor (d : Fin 16) (a : Fin 16) (b : Fin 16) (k : Fin 4) : Coded.Statement (.vmaskXor d a b k) := by
  intro _ w h
  have R := Coded.read [(0x1D, 27, 5), (d.val, 18, 4), (a.val, 12, 4), (b.val, 6, 4), (k.val, 4, 2), (0x02, 0, 2)] h rfl
    ⟨by decide, d.isLt, a.isLt, b.isLt, k.isLt, by decide, trivial⟩
  have eVector := Coded.arm_Vector_29 w (R _ _ _ rfl)
  have eVmaskGroup := Coded.arm_VmaskGroup_2 w (R _ _ _ rfl)
  show decodeVector w = _
  rw [eVector, eVmaskGroup, if_pos ⟨R _ _ _ rfl, R _ _ _ rfl, R _ _ _ rfl⟩]
  rw [Coded.fld_eq w 18 4 d (R _ _ _ rfl),
    Coded.fld_eq w 12 4 a (R _ _ _ rfl),
    Coded.fld_eq w 6 4 b (R _ _ _ rfl),
    Coded.fld_eq w 4 2 k (R _ _ _ rfl)]
  rfl

theorem Coded.vmaskAndn (d : Fin 16) (a : Fin 16) (b : Fin 16) (k : Fin 4) : Coded.Statement (.vmaskAndn d a b k) := by
  intro _ w h
  have R := Coded.read [(0x1D, 27, 5), (d.val, 18, 4), (a.val, 12, 4), (b.val, 6, 4), (k.val, 4, 2), (0x03, 0, 2)] h rfl
    ⟨by decide, d.isLt, a.isLt, b.isLt, k.isLt, by decide, trivial⟩
  have eVector := Coded.arm_Vector_29 w (R _ _ _ rfl)
  have eVmaskGroup := Coded.arm_VmaskGroup_3 w (R _ _ _ rfl)
  show decodeVector w = _
  rw [eVector, eVmaskGroup, if_pos ⟨R _ _ _ rfl, R _ _ _ rfl, R _ _ _ rfl⟩]
  rw [Coded.fld_eq w 18 4 d (R _ _ _ rfl),
    Coded.fld_eq w 12 4 a (R _ _ _ rfl),
    Coded.fld_eq w 6 4 b (R _ _ _ rfl),
    Coded.fld_eq w 4 2 k (R _ _ _ rfl)]
  rfl

theorem Coded.vmaskNot (d : Fin 16) (a : Fin 16) (k : Fin 4) : Coded.Statement (.vmaskNot d a k) := by
  intro _ w h
  have R := Coded.read [(0x1D, 27, 5), (d.val, 18, 4), (a.val, 12, 4), (k.val, 4, 2), (0x04, 0, 3)] h rfl
    ⟨by decide, d.isLt, a.isLt, k.isLt, by decide, trivial⟩
  have eVector := Coded.arm_Vector_29 w (R _ _ _ rfl)
  have eVmaskGroup := Coded.arm_VmaskGroup_4 w (R _ _ _ rfl)
  show decodeVector w = _
  rw [eVector, eVmaskGroup, if_pos ⟨R _ _ _ rfl, R _ _ _ rfl, R _ _ _ rfl⟩]
  rw [Coded.fld_eq w 18 4 d (R _ _ _ rfl),
    Coded.fld_eq w 12 4 a (R _ _ _ rfl),
    Coded.fld_eq w 4 2 k (R _ _ _ rfl)]
  rfl

theorem Coded.vmaskMov (d : Fin 16) (a : Fin 16) (k : Fin 4) : Coded.Statement (.vmaskMov d a k) := by
  intro _ w h
  have R := Coded.read [(0x1D, 27, 5), (d.val, 18, 4), (a.val, 12, 4), (k.val, 4, 2), (0x05, 0, 3)] h rfl
    ⟨by decide, d.isLt, a.isLt, k.isLt, by decide, trivial⟩
  have eVector := Coded.arm_Vector_29 w (R _ _ _ rfl)
  have eVmaskGroup := Coded.arm_VmaskGroup_5 w (R _ _ _ rfl)
  show decodeVector w = _
  rw [eVector, eVmaskGroup, if_pos ⟨R _ _ _ rfl, R _ _ _ rfl, R _ _ _ rfl⟩]
  rw [Coded.fld_eq w 18 4 d (R _ _ _ rfl),
    Coded.fld_eq w 12 4 a (R _ _ _ rfl),
    Coded.fld_eq w 4 2 k (R _ _ _ rfl)]
  rfl

theorem Coded.vmov (t : VFmt) (d : Fin 64) (a : Fin 64) (k : Fin 4) : Coded.Statement (.vmov t d a k) := by
  intro _ w h
  have R := Coded.read [(0x1E, 27, 5), (t.code, 24, 3), (d.val, 18, 6), (a.val, 12, 6), (k.val, 4, 2)] h rfl
    ⟨by decide, Coded.code_lt t, d.isLt, a.isLt, k.isLt, trivial⟩
  have eVector := Coded.arm_Vector_30 w (R _ _ _ rfl)
  show decodeVector w = _
  rw [eVector, if_pos ⟨R _ _ _ rfl, R _ _ _ rfl⟩]
  rw [Coded.fmt_eq w 24 3 t (R _ _ _ rfl),
    Coded.fld_eq w 18 6 d (R _ _ _ rfl),
    Coded.fld_eq w 12 6 a (R _ _ _ rfl),
    Coded.fld_eq w 4 2 k (R _ _ _ rfl)]
  rfl

theorem Coded.mcall (e : Fin 64) (i : BitVec 16) (f : Fin 32) : Coded.Statement (.mcall e i f) := by
  intro _ w h
  have R := Coded.read [(0x01, 28, 1), (e.val, 22, 6), (i.toNat, 6, 16), (f.val, 1, 5)] h rfl
    ⟨by decide, e.isLt, i.isLt, f.isLt, trivial⟩
  have eMatrix := Coded.arm_Matrix_1 w (R _ _ _ rfl)
  show decodeMatrix w = _
  rw [eMatrix, if_pos (R _ _ _ rfl)]
  rw [Coded.fld_eq w 22 6 e (R _ _ _ rfl),
    Coded.bfld_eq w 6 16 i (R _ _ _ rfl),
    Coded.fld_eq w 1 5 f (R _ _ _ rfl)]
  rfl

theorem Coded.mlds (a : Fin 16) (f : Fin 32) (p : Fin 8) (q : Fin 8) : Coded.Statement (.mlds a f p q) := by
  intro _ w h
  have R := Coded.read [(0x02, 28, 2), (a.val, 24, 4), (f.val, 19, 5), (p.val, 16, 3), (q.val, 13, 3)] h rfl
    ⟨by decide, a.isLt, f.isLt, p.isLt, q.isLt, trivial⟩
  have eMatrix := Coded.arm_Matrix_2 w (R _ _ _ rfl)
  show decodeMatrix w = _
  rw [eMatrix, if_pos (R _ _ _ rfl)]
  rw [Coded.fld_eq w 24 4 a (R _ _ _ rfl),
    Coded.fld_eq w 19 5 f (R _ _ _ rfl),
    Coded.fld_eq w 16 3 p (R _ _ _ rfl),
    Coded.fld_eq w 13 3 q (R _ _ _ rfl)]
  rfl

theorem Coded.mswap (a : Fin 16) : Coded.Statement (.mswap a) := by
  intro _ w h
  have R := Coded.read [(0x03, 28, 2), (a.val, 24, 4)] h rfl
    ⟨by decide, a.isLt, trivial⟩
  have eMatrix := Coded.arm_Matrix_3 w (R _ _ _ rfl)
  show decodeMatrix w = _
  rw [eMatrix, if_pos (R _ _ _ rfl)]
  rw [Coded.fld_eq w 24 4 a (R _ _ _ rfl)]
  rfl

theorem Coded.mstream (a : Fin 16) (t : Fin 8) (i : Bool) : Coded.Statement (.mstream a t i) := by
  intro _ w h
  have R := Coded.read [(0x04, 28, 3), (a.val, 24, 4), (t.val, 17, 3), (i.toNat, 16, 1)] h rfl
    ⟨by decide, a.isLt, t.isLt, Coded.toNat_lt i, trivial⟩
  have eMatrix := Coded.arm_Matrix_4 w (R _ _ _ rfl)
  have eMstreamGroup := Coded.arm_MstreamGroup_0 w (R _ _ _ rfl)
  show decodeMatrix w = _
  rw [eMatrix, eMstreamGroup, if_pos ⟨R _ _ _ rfl, R _ _ _ rfl⟩]
  rw [Coded.fld_eq w 24 4 a (R _ _ _ rfl),
    Coded.fld_eq w 17 3 t (R _ _ _ rfl),
    Coded.bit_eq w 16 i (R _ _ _ rfl)]
  rfl

theorem Coded.mstreamEyepiece (a : Fin 16) (e : Fin 8) (t : Fin 8) (i : Bool) : Coded.Statement (.mstreamEyepiece a e t i) := by
  intro _ w h
  have R := Coded.read [(0x04, 28, 3), (a.val, 24, 4), (0x01, 23, 1), (e.val, 20, 3), (t.val, 17, 3), (i.toNat, 16, 1)] h rfl
    ⟨by decide, a.isLt, by decide, e.isLt, t.isLt, Coded.toNat_lt i, trivial⟩
  have eMatrix := Coded.arm_Matrix_4 w (R _ _ _ rfl)
  have eMstreamGroup := Coded.arm_MstreamGroup_1 w (R _ _ _ rfl)
  show decodeMatrix w = _
  rw [eMatrix, eMstreamGroup, if_pos (R _ _ _ rfl)]
  rw [Coded.fld_eq w 24 4 a (R _ _ _ rfl),
    Coded.fld_eq w 20 3 e (R _ _ _ rfl),
    Coded.fld_eq w 17 3 t (R _ _ _ rfl),
    Coded.bit_eq w 16 i (R _ _ _ rfl)]
  rfl

theorem Coded.mdrain (f : Fin 32) (t : Fin 8) (m : Fin 16) (c : Bool) : Coded.Statement (.mdrain f t m c) := by
  intro _ w h
  have R := Coded.read [(0x05, 28, 3), (f.val, 23, 5), (t.val, 20, 3), (m.val, 16, 4), (c.toNat, 15, 1)] h rfl
    ⟨by decide, f.isLt, t.isLt, m.isLt, Coded.toNat_lt c, trivial⟩
  have eMatrix := Coded.arm_Matrix_5 w (R _ _ _ rfl)
  show decodeMatrix w = _
  rw [eMatrix, if_pos (R _ _ _ rfl)]
  rw [Coded.fld_eq w 23 5 f (R _ _ _ rfl),
    Coded.fld_eq w 20 3 t (R _ _ _ rfl),
    Coded.fld_eq w 16 4 m (R _ _ _ rfl),
    Coded.bit_eq w 15 c (R _ _ _ rfl)]
  rfl

theorem Coded.mzero (q : Fin 8) : Coded.Statement (.mzero q) := by
  intro _ w h
  have R := Coded.read [(0x06, 28, 3), (q.val, 25, 3)] h rfl
    ⟨by decide, q.isLt, trivial⟩
  have eMatrix := Coded.arm_Matrix_6 w (R _ _ _ rfl)
  show decodeMatrix w = _
  rw [eMatrix, if_pos (R _ _ _ rfl)]
  rw [Coded.fld_eq w 25 3 q (R _ _ _ rfl)]
  rfl

theorem Coded.mepl (e : Fin 8) (q : Fin 8) : Coded.Statement (.mepl e q) := by
  intro _ w h
  have R := Coded.read [(0x07, 28, 3), (e.val, 25, 3), (q.val, 22, 3)] h rfl
    ⟨by decide, e.isLt, q.isLt, trivial⟩
  have eMatrix := Coded.arm_Matrix_7 w (R _ _ _ rfl)
  show decodeMatrix w = _
  rw [eMatrix, if_pos (R _ _ _ rfl)]
  rw [Coded.fld_eq w 25 3 e (R _ _ _ rfl),
    Coded.fld_eq w 22 3 q (R _ _ _ rfl)]
  rfl

theorem Coded.mmode (m : BitVec 3) (o : Bool) (b : Bool) (wc : BitVec 3) (a : BitVec 3) : Coded.Statement (.mmode m o b wc a) := by
  intro _ w h
  have R := Coded.read [(0x08, 28, 4), (m.toNat, 25, 3), (o.toNat, 24, 1), (b.toNat, 23, 1), (wc.toNat, 20, 3), (a.toNat, 17, 3)] h rfl
    ⟨by decide, m.isLt, Coded.toNat_lt o, Coded.toNat_lt b, wc.isLt, a.isLt, trivial⟩
  have eMatrix := Coded.arm_Matrix_8 w (R _ _ _ rfl)
  show decodeMatrix w = _
  rw [eMatrix, if_pos (R _ _ _ rfl)]
  rw [Coded.bfld_eq w 25 3 m (R _ _ _ rfl),
    Coded.bit_eq w 24 o (R _ _ _ rfl),
    Coded.bit_eq w 23 b (R _ _ _ rfl),
    Coded.bfld_eq w 20 3 wc (R _ _ _ rfl),
    Coded.bfld_eq w 17 3 a (R _ _ _ rfl)]
  rfl

theorem Coded.mseg (f : Fin 16) (r : BitVec 2) (c : BitVec 2) : Coded.Statement (.mseg f r c) := by
  intro _ w h
  have R := Coded.read [(0x09, 28, 4), (f.val, 24, 4), (r.toNat, 22, 2), (c.toNat, 20, 2)] h rfl
    ⟨by decide, f.isLt, r.isLt, c.isLt, trivial⟩
  have eMatrix := Coded.arm_Matrix_9 w (R _ _ _ rfl)
  show decodeMatrix w = _
  rw [eMatrix, if_pos (R _ _ _ rfl)]
  rw [Coded.fld_eq w 24 4 f (R _ _ _ rfl),
    Coded.bfld_eq w 22 2 r (R _ _ _ rfl),
    Coded.bfld_eq w 20 2 c (R _ _ _ rfl)]
  rfl

theorem Coded.mqset (q : Fin 8) (a : Fin 64) : Coded.Statement (.mqset q a) := by
  intro _ w h
  have R := Coded.read [(0x0A, 28, 4), (q.val, 25, 3), (a.val, 19, 6)] h rfl
    ⟨by decide, q.isLt, a.isLt, trivial⟩
  have eMatrix := Coded.arm_Matrix_10 w (R _ _ _ rfl)
  show decodeMatrix w = _
  rw [eMatrix, if_pos (R _ _ _ rfl)]
  rw [Coded.fld_eq w 25 3 q (R _ _ _ rfl),
    Coded.fld_eq w 19 6 a (R _ _ _ rfl)]
  rfl

theorem Coded.mephw (a : Fin 8) (b : Fin 8) (f : Fin 1024) (sc : Bool) (e : Fin 64) : Coded.Statement (.mephw a b f sc e) := by
  intro _ w h
  have R := Coded.read [(0x0B, 28, 4), (a.val, 25, 3), (b.val, 22, 3), (f.val, 12, 10), (sc.toNat, 11, 1), (e.val, 5, 6)] h rfl
    ⟨by decide, a.isLt, b.isLt, f.isLt, Coded.toNat_lt sc, e.isLt, trivial⟩
  have eMatrix := Coded.arm_Matrix_11 w (R _ _ _ rfl)
  show decodeMatrix w = _
  rw [eMatrix, if_pos (R _ _ _ rfl)]
  rw [Coded.fld_eq w 25 3 a (R _ _ _ rfl),
    Coded.fld_eq w 22 3 b (R _ _ _ rfl),
    Coded.fld_eq w 12 10 f (R _ _ _ rfl),
    Coded.bit_eq w 11 sc (R _ _ _ rfl),
    Coded.fld_eq w 5 6 e (R _ _ _ rfl)]
  rfl

theorem Coded.mstat (d : Fin 64) (c : Bool) : Coded.Statement (.mstat d c) := by
  intro _ w h
  have R := Coded.read [(0x0C, 28, 4), (d.val, 22, 6), (c.toNat, 21, 1)] h rfl
    ⟨by decide, d.isLt, Coded.toNat_lt c, trivial⟩
  have eMatrix := Coded.arm_Matrix_12 w (R _ _ _ rfl)
  show decodeMatrix w = _
  rw [eMatrix, if_pos (R _ _ _ rfl)]
  rw [Coded.fld_eq w 22 6 d (R _ _ _ rfl),
    Coded.bit_eq w 21 c (R _ _ _ rfl)]
  rfl

theorem Coded.cpy (n : Fin 16) (f : Fin 32) (a : Fin 64) (b : Fin 64) (c : Fin 64) : Coded.Statement (.cpy n f a b c) := by
  intro _ w h
  have R := Coded.read [(0x01, 27, 1), (n.val, 23, 4), (f.val, 18, 5), (a.val, 12, 6), (b.val, 6, 6), (c.val, 0, 6)] h rfl
    ⟨by decide, n.isLt, f.isLt, a.isLt, b.isLt, c.isLt, trivial⟩
  have eCopy := Coded.arm_Copy_1 w (R _ _ _ rfl)
  show decodeCopy w = _
  rw [eCopy]
  rw [Coded.fld_eq w 23 4 n (R _ _ _ rfl),
    Coded.fld_eq w 18 5 f (R _ _ _ rfl),
    Coded.fld_eq w 12 6 a (R _ _ _ rfl),
    Coded.fld_eq w 6 6 b (R _ _ _ rfl),
    Coded.fld_eq w 0 6 c (R _ _ _ rfl)]
  rfl

theorem Coded.cgath (n : Fin 16) (f : Fin 32) (a : Fin 64) (b : Fin 64) (c : Fin 64) : Coded.Statement (.cgath n f a b c) := by
  intro _ w h
  have R := Coded.read [(0x02, 27, 2), (n.val, 23, 4), (f.val, 18, 5), (a.val, 12, 6), (b.val, 6, 6), (c.val, 0, 6)] h rfl
    ⟨by decide, n.isLt, f.isLt, a.isLt, b.isLt, c.isLt, trivial⟩
  have eCopy := Coded.arm_Copy_2 w (R _ _ _ rfl)
  show decodeCopy w = _
  rw [eCopy]
  rw [Coded.fld_eq w 23 4 n (R _ _ _ rfl),
    Coded.fld_eq w 18 5 f (R _ _ _ rfl),
    Coded.fld_eq w 12 6 a (R _ _ _ rfl),
    Coded.fld_eq w 6 6 b (R _ _ _ rfl),
    Coded.fld_eq w 0 6 c (R _ _ _ rfl)]
  rfl

theorem Coded.cscat (n : Fin 16) (f : Fin 32) (a : Fin 64) (b : Fin 64) (c : Fin 64) : Coded.Statement (.cscat n f a b c) := by
  intro _ w h
  have R := Coded.read [(0x03, 27, 2), (n.val, 23, 4), (f.val, 18, 5), (a.val, 12, 6), (b.val, 6, 6), (c.val, 0, 6)] h rfl
    ⟨by decide, n.isLt, f.isLt, a.isLt, b.isLt, c.isLt, trivial⟩
  have eCopy := Coded.arm_Copy_3 w (R _ _ _ rfl)
  show decodeCopy w = _
  rw [eCopy]
  rw [Coded.fld_eq w 23 4 n (R _ _ _ rfl),
    Coded.fld_eq w 18 5 f (R _ _ _ rfl),
    Coded.fld_eq w 12 6 a (R _ _ _ rfl),
    Coded.fld_eq w 6 6 b (R _ _ _ rfl),
    Coded.fld_eq w 0 6 c (R _ _ _ rfl)]
  rfl

theorem Coded.cfill (n : Fin 16) (f : Fin 32) (a : Fin 64) (b : Fin 64) (c : Fin 64) : Coded.Statement (.cfill n f a b c) := by
  intro _ w h
  have R := Coded.read [(0x04, 27, 3), (n.val, 23, 4), (f.val, 18, 5), (a.val, 12, 6), (b.val, 6, 6), (c.val, 0, 6)] h rfl
    ⟨by decide, n.isLt, f.isLt, a.isLt, b.isLt, c.isLt, trivial⟩
  have eCopy := Coded.arm_Copy_4 w (R _ _ _ rfl)
  show decodeCopy w = _
  rw [eCopy]
  rw [Coded.fld_eq w 23 4 n (R _ _ _ rfl),
    Coded.fld_eq w 18 5 f (R _ _ _ rfl),
    Coded.fld_eq w 12 6 a (R _ _ _ rfl),
    Coded.fld_eq w 6 6 b (R _ _ _ rfl),
    Coded.fld_eq w 0 6 c (R _ _ _ rfl)]
  rfl

theorem Coded.cred (n : Fin 16) (f : Fin 32) (a : Fin 64) (b : Fin 64) (c : Fin 64) : Coded.Statement (.cred n f a b c) := by
  intro _ w h
  have R := Coded.read [(0x05, 27, 3), (n.val, 23, 4), (f.val, 18, 5), (a.val, 12, 6), (b.val, 6, 6), (c.val, 0, 6)] h rfl
    ⟨by decide, n.isLt, f.isLt, a.isLt, b.isLt, c.isLt, trivial⟩
  have eCopy := Coded.arm_Copy_5 w (R _ _ _ rfl)
  show decodeCopy w = _
  rw [eCopy]
  rw [Coded.fld_eq w 23 4 n (R _ _ _ rfl),
    Coded.fld_eq w 18 5 f (R _ _ _ rfl),
    Coded.fld_eq w 12 6 a (R _ _ _ rfl),
    Coded.fld_eq w 6 6 b (R _ _ _ rfl),
    Coded.fld_eq w 0 6 c (R _ _ _ rfl)]
  rfl

theorem Coded.cbcast (n : Fin 16) (f : Fin 32) (a : Fin 64) (b : Fin 64) (c : Fin 64) : Coded.Statement (.cbcast n f a b c) := by
  intro _ w h
  have R := Coded.read [(0x06, 27, 3), (n.val, 23, 4), (f.val, 18, 5), (a.val, 12, 6), (b.val, 6, 6), (c.val, 0, 6)] h rfl
    ⟨by decide, n.isLt, f.isLt, a.isLt, b.isLt, c.isLt, trivial⟩
  have eCopy := Coded.arm_Copy_6 w (R _ _ _ rfl)
  show decodeCopy w = _
  rw [eCopy]
  rw [Coded.fld_eq w 23 4 n (R _ _ _ rfl),
    Coded.fld_eq w 18 5 f (R _ _ _ rfl),
    Coded.fld_eq w 12 6 a (R _ _ _ rfl),
    Coded.fld_eq w 6 6 b (R _ _ _ rfl),
    Coded.fld_eq w 0 6 c (R _ _ _ rfl)]
  rfl

theorem Coded.cxfm (n : Fin 16) (f : Fin 32) (a : Fin 64) (b : Fin 64) (c : Fin 64) : Coded.Statement (.cxfm n f a b c) := by
  intro _ w h
  have R := Coded.read [(0x07, 27, 3), (n.val, 23, 4), (f.val, 18, 5), (a.val, 12, 6), (b.val, 6, 6), (c.val, 0, 6)] h rfl
    ⟨by decide, n.isLt, f.isLt, a.isLt, b.isLt, c.isLt, trivial⟩
  have eCopy := Coded.arm_Copy_7 w (R _ _ _ rfl)
  show decodeCopy w = _
  rw [eCopy]
  rw [Coded.fld_eq w 23 4 n (R _ _ _ rfl),
    Coded.fld_eq w 18 5 f (R _ _ _ rfl),
    Coded.fld_eq w 12 6 a (R _ _ _ rfl),
    Coded.fld_eq w 6 6 b (R _ _ _ rfl),
    Coded.fld_eq w 0 6 c (R _ _ _ rfl)]
  rfl

theorem Coded.cstashSave (n : Fin 16) (f : Fin 32) (a : Fin 64) (b : Fin 64) (c : Fin 64) : Coded.Statement (.cstashSave n f a b c) := by
  intro _ w h
  have R := Coded.read [(0x08, 27, 4), (n.val, 23, 4), (f.val, 18, 5), (a.val, 12, 6), (b.val, 6, 6), (c.val, 0, 6)] h rfl
    ⟨by decide, n.isLt, f.isLt, a.isLt, b.isLt, c.isLt, trivial⟩
  have eCopy := Coded.arm_Copy_8 w (R _ _ _ rfl)
  show decodeCopy w = _
  rw [eCopy]
  rw [Coded.fld_eq w 23 4 n (R _ _ _ rfl),
    Coded.fld_eq w 18 5 f (R _ _ _ rfl),
    Coded.fld_eq w 12 6 a (R _ _ _ rfl),
    Coded.fld_eq w 6 6 b (R _ _ _ rfl),
    Coded.fld_eq w 0 6 c (R _ _ _ rfl)]
  rfl

theorem Coded.cstashGet (n : Fin 16) (f : Fin 32) (a b c : Fin 64) : Coded.Statement (.cstashGet n f a b c) := by
  intro hwf w h
  have hwf : (a.val != 0 && b.val != 0) = true := hwf
  have hwf : a.val ≠ 0 ∧ b.val ≠ 0 := by simpa using hwf
  have R := Coded.read [(0x09, 27, 4), (n.val, 23, 4), (f.val, 18, 5), (a.val, 12, 6), (b.val, 6, 6), (c.val, 0, 6)] h rfl
    ⟨by decide, n.isLt, f.isLt, a.isLt, b.isLt, c.isLt, trivial⟩
  have eCopy := Coded.arm_Copy_9 w (R _ _ _ rfl)
  show decodeCopy w = _
  rw [eCopy]
  unfold decodeCstashGroup
  have ea : bits w 12 6 = a.val := R _ _ _ rfl
  have eb : bits w 6 6 = b.val := R _ _ _ rfl
  rw [if_neg (fun c => by unfold bits at c ea; omega), if_neg (by omega), Coded.fld_eq w 23 4 n (R _ _ _ rfl),
    Coded.fld_eq w 18 5 f (R _ _ _ rfl), Coded.fld_eq w 12 6 a ea, Coded.fld_eq w 6 6 b eb, Coded.fld_eq w 0 6 c (R _ _ _ rfl)]
  rfl

theorem Coded.cstashPf (n : Fin 16) (f : Fin 32) (c : Fin 64) : Coded.Statement (.cstashPf n f c) := by
  intro _ w h
  have R := Coded.read [(0x09, 27, 4), (n.val, 23, 4), (f.val, 18, 5), (c.val, 0, 6)] h rfl
    ⟨by decide, n.isLt, f.isLt, c.isLt, trivial⟩
  have eCopy := Coded.arm_Copy_9 w (R _ _ _ rfl)
  show decodeCopy w = _
  rw [eCopy]
  unfold decodeCstashGroup
  rw [if_pos (R _ _ _ rfl), Coded.fld_eq w 23 4 n (R _ _ _ rfl), Coded.fld_eq w 18 5 f (R _ _ _ rfl),
    Coded.fld_eq w 0 6 c (R _ _ _ rfl)]
  rfl

theorem Coded.cstashDrop (n : Fin 16) (f : Fin 32) (c : Fin 64) : Coded.Statement (.cstashDrop n f c) := by
  intro _ w h
  have R := Coded.read [(0x0A, 27, 4), (n.val, 23, 4), (f.val, 18, 5), (c.val, 0, 6)] h rfl
    ⟨by decide, n.isLt, f.isLt, c.isLt, trivial⟩
  have eCopy := Coded.arm_Copy_10 w (R _ _ _ rfl)
  show decodeCopy w = _
  rw [eCopy, if_pos (R _ _ _ rfl)]
  rw [Coded.fld_eq w 23 4 n (R _ _ _ rfl),
    Coded.fld_eq w 18 5 f (R _ _ _ rfl),
    Coded.fld_eq w 0 6 c (R _ _ _ rfl)]
  rfl

theorem Coded.cverFork (n : Fin 16) (f : Fin 32) (a : Fin 64) : Coded.Statement (.cverFork n f a) := by
  intro _ w h
  have R := Coded.read [(0x0B, 27, 4), (n.val, 23, 4), (f.val, 18, 5), (a.val, 12, 6)] h rfl
    ⟨by decide, n.isLt, f.isLt, a.isLt, trivial⟩
  have eCopy := Coded.arm_Copy_11 w (R _ _ _ rfl)
  show decodeCopy w = _
  rw [eCopy, if_pos (R _ _ _ rfl)]
  rw [Coded.fld_eq w 23 4 n (R _ _ _ rfl),
    Coded.fld_eq w 18 5 f (R _ _ _ rfl),
    Coded.fld_eq w 12 6 a (R _ _ _ rfl)]
  rfl

theorem Coded.cverRetire (n : Fin 16) (f : Fin 32) (a : Fin 64) : Coded.Statement (.cverRetire n f a) := by
  intro _ w h
  have R := Coded.read [(0x0B, 27, 4), (n.val, 23, 4), (f.val, 18, 5), (a.val, 12, 6)] h rfl
    ⟨by decide, n.isLt, f.isLt, a.isLt, trivial⟩
  have eCopy := Coded.arm_Copy_11 w (R _ _ _ rfl)
  show decodeCopy w = _
  rw [eCopy, if_pos (R _ _ _ rfl)]
  rw [Coded.fld_eq w 23 4 n (R _ _ _ rfl),
    Coded.fld_eq w 18 5 f (R _ _ _ rfl),
    Coded.fld_eq w 12 6 a (R _ _ _ rfl)]
  rfl

theorem Coded.cverSettle (n : Fin 16) (f : Fin 32) (a : Fin 64) : Coded.Statement (.cverSettle n f a) := by
  intro _ w h
  have R := Coded.read [(0x0B, 27, 4), (n.val, 23, 4), (f.val, 18, 5), (a.val, 12, 6)] h rfl
    ⟨by decide, n.isLt, f.isLt, a.isLt, trivial⟩
  have eCopy := Coded.arm_Copy_11 w (R _ _ _ rfl)
  show decodeCopy w = _
  rw [eCopy, if_pos (R _ _ _ rfl)]
  rw [Coded.fld_eq w 23 4 n (R _ _ _ rfl),
    Coded.fld_eq w 18 5 f (R _ _ _ rfl),
    Coded.fld_eq w 12 6 a (R _ _ _ rfl)]
  rfl

theorem Coded.csend (n : Fin 16) (f : Fin 32) (a : Fin 64) (b : Fin 64) (c : Fin 64) : Coded.Statement (.csend n f a b c) := by
  intro _ w h
  have R := Coded.read [(0x0C, 27, 4), (n.val, 23, 4), (f.val, 18, 5), (a.val, 12, 6), (b.val, 6, 6), (c.val, 0, 6)] h rfl
    ⟨by decide, n.isLt, f.isLt, a.isLt, b.isLt, c.isLt, trivial⟩
  have eCopy := Coded.arm_Copy_12 w (R _ _ _ rfl)
  show decodeCopy w = _
  rw [eCopy]
  rw [Coded.fld_eq w 23 4 n (R _ _ _ rfl),
    Coded.fld_eq w 18 5 f (R _ _ _ rfl),
    Coded.fld_eq w 12 6 a (R _ _ _ rfl),
    Coded.fld_eq w 6 6 b (R _ _ _ rfl),
    Coded.fld_eq w 0 6 c (R _ _ _ rfl)]
  rfl

theorem Coded.crecv (n : Fin 16) (f : Fin 32) (a : Fin 64) (b : Fin 64) (c : Fin 64) : Coded.Statement (.crecv n f a b c) := by
  intro _ w h
  have R := Coded.read [(0x0D, 27, 4), (n.val, 23, 4), (f.val, 18, 5), (a.val, 12, 6), (b.val, 6, 6), (c.val, 0, 6)] h rfl
    ⟨by decide, n.isLt, f.isLt, a.isLt, b.isLt, c.isLt, trivial⟩
  have eCopy := Coded.arm_Copy_13 w (R _ _ _ rfl)
  show decodeCopy w = _
  rw [eCopy]
  rw [Coded.fld_eq w 23 4 n (R _ _ _ rfl),
    Coded.fld_eq w 18 5 f (R _ _ _ rfl),
    Coded.fld_eq w 12 6 a (R _ _ _ rfl),
    Coded.fld_eq w 6 6 b (R _ _ _ rfl),
    Coded.fld_eq w 0 6 c (R _ _ _ rfl)]
  rfl

theorem Coded.cringReduceScatter (n : Fin 16) (f : Fin 32) (a : Fin 64) (b : Fin 64) (c : Fin 64) : Coded.Statement (.cringReduceScatter n f a b c) := by
  intro _ w h
  have R := Coded.read [(0x0E, 27, 4), (n.val, 23, 4), (f.val, 18, 5), (a.val, 12, 6), (b.val, 6, 6), (c.val, 0, 6)] h rfl
    ⟨by decide, n.isLt, f.isLt, a.isLt, b.isLt, c.isLt, trivial⟩
  have eCopy := Coded.arm_Copy_14 w (R _ _ _ rfl)
  show decodeCopy w = _
  rw [eCopy]
  rw [Coded.fld_eq w 23 4 n (R _ _ _ rfl),
    Coded.fld_eq w 18 5 f (R _ _ _ rfl),
    Coded.fld_eq w 12 6 a (R _ _ _ rfl),
    Coded.fld_eq w 6 6 b (R _ _ _ rfl),
    Coded.fld_eq w 0 6 c (R _ _ _ rfl)]
  rfl

theorem Coded.cringAllGather (n : Fin 16) (f : Fin 32) (a : Fin 64) (b : Fin 64) (c : Fin 64) : Coded.Statement (.cringAllGather n f a b c) := by
  intro _ w h
  have R := Coded.read [(0x0E, 27, 4), (n.val, 23, 4), (f.val, 18, 5), (a.val, 12, 6), (b.val, 6, 6), (c.val, 0, 6)] h rfl
    ⟨by decide, n.isLt, f.isLt, a.isLt, b.isLt, c.isLt, trivial⟩
  have eCopy := Coded.arm_Copy_14 w (R _ _ _ rfl)
  show decodeCopy w = _
  rw [eCopy]
  rw [Coded.fld_eq w 23 4 n (R _ _ _ rfl),
    Coded.fld_eq w 18 5 f (R _ _ _ rfl),
    Coded.fld_eq w 12 6 a (R _ _ _ rfl),
    Coded.fld_eq w 6 6 b (R _ _ _ rfl),
    Coded.fld_eq w 0 6 c (R _ _ _ rfl)]
  rfl

theorem Coded.cringReduceScatterF32 (n : Fin 16) (f : Fin 32) (a : Fin 64) (b : Fin 64) (c : Fin 64) : Coded.Statement (.cringReduceScatterF32 n f a b c) := by
  intro _ w h
  have R := Coded.read [(0x0E, 27, 4), (n.val, 23, 4), (f.val, 18, 5), (a.val, 12, 6), (b.val, 6, 6), (c.val, 0, 6)] h rfl
    ⟨by decide, n.isLt, f.isLt, a.isLt, b.isLt, c.isLt, trivial⟩
  have eCopy := Coded.arm_Copy_14 w (R _ _ _ rfl)
  show decodeCopy w = _
  rw [eCopy]
  rw [Coded.fld_eq w 23 4 n (R _ _ _ rfl),
    Coded.fld_eq w 18 5 f (R _ _ _ rfl),
    Coded.fld_eq w 12 6 a (R _ _ _ rfl),
    Coded.fld_eq w 6 6 b (R _ _ _ rfl),
    Coded.fld_eq w 0 6 c (R _ _ _ rfl)]
  rfl

theorem Coded.cringAllGatherF32 (n : Fin 16) (f : Fin 32) (a : Fin 64) (b : Fin 64) (c : Fin 64) : Coded.Statement (.cringAllGatherF32 n f a b c) := by
  intro _ w h
  have R := Coded.read [(0x0E, 27, 4), (n.val, 23, 4), (f.val, 18, 5), (a.val, 12, 6), (b.val, 6, 6), (c.val, 0, 6)] h rfl
    ⟨by decide, n.isLt, f.isLt, a.isLt, b.isLt, c.isLt, trivial⟩
  have eCopy := Coded.arm_Copy_14 w (R _ _ _ rfl)
  show decodeCopy w = _
  rw [eCopy]
  rw [Coded.fld_eq w 23 4 n (R _ _ _ rfl),
    Coded.fld_eq w 18 5 f (R _ _ _ rfl),
    Coded.fld_eq w 12 6 a (R _ _ _ rfl),
    Coded.fld_eq w 6 6 b (R _ _ _ rfl),
    Coded.fld_eq w 0 6 c (R _ _ _ rfl)]
  rfl

theorem Coded.cnred (n : Fin 16) (f : Fin 32) (a : Fin 64) (b : Fin 64) (c : Fin 64) : Coded.Statement (.cnred n f a b c) := by
  intro _ w h
  have R := Coded.read [(0x0F, 27, 4), (n.val, 23, 4), (f.val, 18, 5), (a.val, 12, 6), (b.val, 6, 6), (c.val, 0, 6)] h rfl
    ⟨by decide, n.isLt, f.isLt, a.isLt, b.isLt, c.isLt, trivial⟩
  have eCopy := Coded.arm_Copy_15 w (R _ _ _ rfl)
  show decodeCopy w = _
  rw [eCopy]
  rw [Coded.fld_eq w 23 4 n (R _ _ _ rfl),
    Coded.fld_eq w 18 5 f (R _ _ _ rfl),
    Coded.fld_eq w 12 6 a (R _ _ _ rfl),
    Coded.fld_eq w 6 6 b (R _ _ _ rfl),
    Coded.fld_eq w 0 6 c (R _ _ _ rfl)]
  rfl

theorem Coded.cmaintClean (n : Fin 16) (f : Fin 32) (a : Fin 64) (b : Fin 64) (c : Fin 64) : Coded.Statement (.cmaintClean n f a b c) := by
  intro _ w h
  have R := Coded.read [(0x10, 27, 5), (n.val, 23, 4), (f.val, 18, 5), (a.val, 12, 6), (b.val, 6, 6), (c.val, 0, 6)] h rfl
    ⟨by decide, n.isLt, f.isLt, a.isLt, b.isLt, c.isLt, trivial⟩
  have eCopy := Coded.arm_Copy_16 w (R _ _ _ rfl)
  show decodeCopy w = _
  rw [eCopy]
  rw [Coded.fld_eq w 23 4 n (R _ _ _ rfl),
    Coded.fld_eq w 18 5 f (R _ _ _ rfl),
    Coded.fld_eq w 12 6 a (R _ _ _ rfl),
    Coded.fld_eq w 6 6 b (R _ _ _ rfl),
    Coded.fld_eq w 0 6 c (R _ _ _ rfl)]
  rfl

theorem Coded.cmaintFlush (n : Fin 16) (f : Fin 32) (a : Fin 64) (b : Fin 64) (c : Fin 64) : Coded.Statement (.cmaintFlush n f a b c) := by
  intro _ w h
  have R := Coded.read [(0x10, 27, 5), (n.val, 23, 4), (f.val, 18, 5), (a.val, 12, 6), (b.val, 6, 6), (c.val, 0, 6)] h rfl
    ⟨by decide, n.isLt, f.isLt, a.isLt, b.isLt, c.isLt, trivial⟩
  have eCopy := Coded.arm_Copy_16 w (R _ _ _ rfl)
  show decodeCopy w = _
  rw [eCopy]
  rw [Coded.fld_eq w 23 4 n (R _ _ _ rfl),
    Coded.fld_eq w 18 5 f (R _ _ _ rfl),
    Coded.fld_eq w 12 6 a (R _ _ _ rfl),
    Coded.fld_eq w 6 6 b (R _ _ _ rfl),
    Coded.fld_eq w 0 6 c (R _ _ _ rfl)]
  rfl

theorem Coded.cmaintInval (n : Fin 16) (f : Fin 32) (a : Fin 64) (b : Fin 64) (c : Fin 64) : Coded.Statement (.cmaintInval n f a b c) := by
  intro _ w h
  have R := Coded.read [(0x10, 27, 5), (n.val, 23, 4), (f.val, 18, 5), (a.val, 12, 6), (b.val, 6, 6), (c.val, 0, 6)] h rfl
    ⟨by decide, n.isLt, f.isLt, a.isLt, b.isLt, c.isLt, trivial⟩
  have eCopy := Coded.arm_Copy_16 w (R _ _ _ rfl)
  show decodeCopy w = _
  rw [eCopy]
  rw [Coded.fld_eq w 23 4 n (R _ _ _ rfl),
    Coded.fld_eq w 18 5 f (R _ _ _ rfl),
    Coded.fld_eq w 12 6 a (R _ _ _ rfl),
    Coded.fld_eq w 6 6 b (R _ _ _ rfl),
    Coded.fld_eq w 0 6 c (R _ _ _ rfl)]
  rfl

theorem Coded.cmaintTlb (n : Fin 16) (f : Fin 32) (a : Fin 64) (b : Fin 64) (c : Fin 64) : Coded.Statement (.cmaintTlb n f a b c) := by
  intro _ w h
  have R := Coded.read [(0x10, 27, 5), (n.val, 23, 4), (f.val, 18, 5), (a.val, 12, 6), (b.val, 6, 6), (c.val, 0, 6)] h rfl
    ⟨by decide, n.isLt, f.isLt, a.isLt, b.isLt, c.isLt, trivial⟩
  have eCopy := Coded.arm_Copy_16 w (R _ _ _ rfl)
  show decodeCopy w = _
  rw [eCopy]
  rw [Coded.fld_eq w 23 4 n (R _ _ _ rfl),
    Coded.fld_eq w 18 5 f (R _ _ _ rfl),
    Coded.fld_eq w 12 6 a (R _ _ _ rfl),
    Coded.fld_eq w 6 6 b (R _ _ _ rfl),
    Coded.fld_eq w 0 6 c (R _ _ _ rfl)]
  rfl

theorem Coded.cpin (n : Fin 16) (f : Fin 32) (a : Fin 64) (b : Fin 64) (c : Fin 64) : Coded.Statement (.cpin n f a b c) := by
  intro _ w h
  have R := Coded.read [(0x11, 27, 5), (n.val, 23, 4), (f.val, 18, 5), (a.val, 12, 6), (b.val, 6, 6), (c.val, 0, 6)] h rfl
    ⟨by decide, n.isLt, f.isLt, a.isLt, b.isLt, c.isLt, trivial⟩
  have eCopy := Coded.arm_Copy_17 w (R _ _ _ rfl)
  show decodeCopy w = _
  rw [eCopy]
  rw [Coded.fld_eq w 23 4 n (R _ _ _ rfl),
    Coded.fld_eq w 18 5 f (R _ _ _ rfl),
    Coded.fld_eq w 12 6 a (R _ _ _ rfl),
    Coded.fld_eq w 6 6 b (R _ _ _ rfl),
    Coded.fld_eq w 0 6 c (R _ _ _ rfl)]
  rfl

theorem Coded.cpinUnpin (n : Fin 16) (f : Fin 32) (a : Fin 64) (b : Fin 64) (c : Fin 64) : Coded.Statement (.cpinUnpin n f a b c) := by
  intro _ w h
  have R := Coded.read [(0x11, 27, 5), (n.val, 23, 4), (f.val, 18, 5), (a.val, 12, 6), (b.val, 6, 6), (c.val, 0, 6)] h rfl
    ⟨by decide, n.isLt, f.isLt, a.isLt, b.isLt, c.isLt, trivial⟩
  have eCopy := Coded.arm_Copy_17 w (R _ _ _ rfl)
  show decodeCopy w = _
  rw [eCopy]
  rw [Coded.fld_eq w 23 4 n (R _ _ _ rfl),
    Coded.fld_eq w 18 5 f (R _ _ _ rfl),
    Coded.fld_eq w 12 6 a (R _ _ _ rfl),
    Coded.fld_eq w 6 6 b (R _ _ _ rfl),
    Coded.fld_eq w 0 6 c (R _ _ _ rfl)]
  rfl

theorem Coded.cmcast (n : Fin 16) (f : Fin 32) (a : Fin 64) (b : Fin 64) : Coded.Statement (.cmcast n f a b) := by
  intro _ w h
  have R := Coded.read [(0x12, 27, 5), (n.val, 23, 4), (f.val, 18, 5), (a.val, 12, 6), (b.val, 6, 6)] h rfl
    ⟨by decide, n.isLt, f.isLt, a.isLt, b.isLt, trivial⟩
  have eCopy := Coded.arm_Copy_18 w (R _ _ _ rfl)
  show decodeCopy w = _
  rw [eCopy, if_pos (R _ _ _ rfl)]
  rw [Coded.fld_eq w 23 4 n (R _ _ _ rfl),
    Coded.fld_eq w 18 5 f (R _ _ _ rfl),
    Coded.fld_eq w 12 6 a (R _ _ _ rfl),
    Coded.fld_eq w 6 6 b (R _ _ _ rfl)]
  rfl

theorem Coded.xcvt (f : BitVec 4) (g : BitVec 4) (d : Fin 64) (a : Fin 64) : Coded.Statement (.xcvt f g d a) := by
  intro _ w h
  have R := Coded.read [(0x01, 27, 1), (f.toNat, 23, 4), (g.toNat, 19, 4), (d.val, 12, 6), (a.val, 6, 6)] h rfl
    ⟨by decide, f.isLt, g.isLt, d.isLt, a.isLt, trivial⟩
  have eTransform := Coded.arm_Transform_1 w (R _ _ _ rfl)
  have eXcvtGroup := Coded.arm_XcvtGroup_0 w (R _ _ _ rfl)
  show decodeTransform w = _
  rw [eTransform, eXcvtGroup, if_pos (R _ _ _ rfl)]
  rw [Coded.bfld_eq w 23 4 f (R _ _ _ rfl),
    Coded.bfld_eq w 19 4 g (R _ _ _ rfl),
    Coded.fld_eq w 12 6 d (R _ _ _ rfl),
    Coded.fld_eq w 6 6 a (R _ _ _ rfl)]
  rfl

theorem Coded.xcvtSr (f : BitVec 4) (g : BitVec 4) (d : Fin 64) (a : Fin 64) (b : Fin 64) : Coded.Statement (.xcvtSr f g d a b) := by
  intro _ w h
  have R := Coded.read [(0x01, 27, 1), (f.toNat, 23, 4), (g.toNat, 19, 4), (0x01, 18, 1), (d.val, 12, 6), (a.val, 6, 6), (b.val, 0, 6)] h rfl
    ⟨by decide, f.isLt, g.isLt, by decide, d.isLt, a.isLt, b.isLt, trivial⟩
  have eTransform := Coded.arm_Transform_1 w (R _ _ _ rfl)
  have eXcvtGroup := Coded.arm_XcvtGroup_1 w (R _ _ _ rfl)
  show decodeTransform w = _
  rw [eTransform, eXcvtGroup]
  rw [Coded.bfld_eq w 23 4 f (R _ _ _ rfl),
    Coded.bfld_eq w 19 4 g (R _ _ _ rfl),
    Coded.fld_eq w 12 6 d (R _ _ _ rfl),
    Coded.fld_eq w 6 6 a (R _ _ _ rfl),
    Coded.fld_eq w 0 6 b (R _ _ _ rfl)]
  rfl

theorem Coded.xq (k : Bool) (sc : BitVec 4) (m : BitVec 4) (d : Fin 64) (a : Fin 64) (z : Fin 16) : Coded.Statement (.xq k sc m d a z) := by
  intro _ w h
  have R := Coded.read [(0x02, 27, 2), (k.toNat, 26, 1), (sc.toNat, 22, 4), (m.toNat, 18, 4), (d.val, 12, 6), (a.val, 6, 6), (z.val, 0, 4)] h rfl
    ⟨by decide, Coded.toNat_lt k, sc.isLt, m.isLt, d.isLt, a.isLt, z.isLt, trivial⟩
  have eTransform := Coded.arm_Transform_2 w (R _ _ _ rfl)
  show decodeTransform w = _
  rw [eTransform, if_pos (R _ _ _ rfl)]
  rw [Coded.bit_eq w 26 k (R _ _ _ rfl),
    Coded.bfld_eq w 22 4 sc (R _ _ _ rfl),
    Coded.bfld_eq w 18 4 m (R _ _ _ rfl),
    Coded.fld_eq w 12 6 d (R _ _ _ rfl),
    Coded.fld_eq w 6 6 a (R _ _ _ rfl),
    Coded.fld_eq w 0 4 z (R _ _ _ rfl)]
  rfl

theorem Coded.xdq (k : Bool) (sc : BitVec 4) (m : BitVec 4) (d : Fin 64) (a : Fin 64) (z : Fin 16) : Coded.Statement (.xdq k sc m d a z) := by
  intro _ w h
  have R := Coded.read [(0x03, 27, 2), (k.toNat, 26, 1), (sc.toNat, 22, 4), (m.toNat, 18, 4), (d.val, 12, 6), (a.val, 6, 6), (z.val, 0, 4)] h rfl
    ⟨by decide, Coded.toNat_lt k, sc.isLt, m.isLt, d.isLt, a.isLt, z.isLt, trivial⟩
  have eTransform := Coded.arm_Transform_3 w (R _ _ _ rfl)
  show decodeTransform w = _
  rw [eTransform, if_pos (R _ _ _ rfl)]
  rw [Coded.bit_eq w 26 k (R _ _ _ rfl),
    Coded.bfld_eq w 22 4 sc (R _ _ _ rfl),
    Coded.bfld_eq w 18 4 m (R _ _ _ rfl),
    Coded.fld_eq w 12 6 d (R _ _ _ rfl),
    Coded.fld_eq w 6 6 a (R _ _ _ rfl),
    Coded.fld_eq w 0 4 z (R _ _ _ rfl)]
  rfl

theorem Coded.xsld (v : Bool) (c : BitVec 4) (k : Bool) (o : BitVec 3) (z : Fin 16) (hb : Fin 16) (b : Fin 64) : Coded.Statement (.xsld v c k o z hb b) := by
  intro _ w h
  have R := Coded.read [(0x04, 27, 3), (v.toNat, 26, 1), (c.toNat, 22, 4), (k.toNat, 21, 1), (o.toNat, 18, 3), (z.val, 12, 4), (hb.val, 6, 4), (b.val, 0, 6)] h rfl
    ⟨by decide, Coded.toNat_lt v, c.isLt, Coded.toNat_lt k, o.isLt, z.isLt, hb.isLt, b.isLt, trivial⟩
  have eTransform := Coded.arm_Transform_4 w (R _ _ _ rfl)
  show decodeTransform w = _
  rw [eTransform, if_pos ⟨R _ _ _ rfl, R _ _ _ rfl⟩]
  rw [Coded.bit_eq w 26 v (R _ _ _ rfl),
    Coded.bfld_eq w 22 4 c (R _ _ _ rfl),
    Coded.bit_eq w 21 k (R _ _ _ rfl),
    Coded.bfld_eq w 18 3 o (R _ _ _ rfl),
    Coded.fld_eq w 12 4 z (R _ _ _ rfl),
    Coded.fld_eq w 6 4 hb (R _ _ _ rfl),
    Coded.fld_eq w 0 6 b (R _ _ _ rfl)]
  rfl

theorem Coded.xsst (v : Bool) (c : BitVec 4) (k : Bool) (o : BitVec 3) (z : Fin 16) (hb : Fin 16) (b : Fin 64) : Coded.Statement (.xsst v c k o z hb b) := by
  intro _ w h
  have R := Coded.read [(0x05, 27, 3), (v.toNat, 26, 1), (c.toNat, 22, 4), (k.toNat, 21, 1), (o.toNat, 18, 3), (z.val, 12, 4), (hb.val, 6, 4), (b.val, 0, 6)] h rfl
    ⟨by decide, Coded.toNat_lt v, c.isLt, Coded.toNat_lt k, o.isLt, z.isLt, hb.isLt, b.isLt, trivial⟩
  have eTransform := Coded.arm_Transform_5 w (R _ _ _ rfl)
  show decodeTransform w = _
  rw [eTransform, if_pos ⟨R _ _ _ rfl, R _ _ _ rfl⟩]
  rw [Coded.bit_eq w 26 v (R _ _ _ rfl),
    Coded.bfld_eq w 22 4 c (R _ _ _ rfl),
    Coded.bit_eq w 21 k (R _ _ _ rfl),
    Coded.bfld_eq w 18 3 o (R _ _ _ rfl),
    Coded.fld_eq w 12 4 z (R _ _ _ rfl),
    Coded.fld_eq w 6 4 hb (R _ _ _ rfl),
    Coded.fld_eq w 0 6 b (R _ _ _ rfl)]
  rfl

theorem Coded.xtr (wc : BitVec 2) (d : Fin 64) (a : Fin 64) : Coded.Statement (.xtr wc d a) := by
  intro _ w h
  have R := Coded.read [(0x06, 27, 3), (wc.toNat, 18, 2), (d.val, 12, 6), (a.val, 6, 6)] h rfl
    ⟨by decide, wc.isLt, d.isLt, a.isLt, trivial⟩
  have eTransform := Coded.arm_Transform_6 w (R _ _ _ rfl)
  show decodeTransform w = _
  rw [eTransform, if_pos ⟨R _ _ _ rfl, R _ _ _ rfl⟩]
  rw [Coded.bfld_eq w 18 2 wc (R _ _ _ rfl),
    Coded.fld_eq w 12 6 d (R _ _ _ rfl),
    Coded.fld_eq w 6 6 a (R _ _ _ rfl)]
  rfl

theorem Coded.xperm (wc : BitVec 2) (d : Fin 64) (a : Fin 64) (b : Fin 64) : Coded.Statement (.xperm wc d a b) := by
  intro _ w h
  have R := Coded.read [(0x07, 27, 3), (wc.toNat, 18, 2), (d.val, 12, 6), (a.val, 6, 6), (b.val, 0, 6)] h rfl
    ⟨by decide, wc.isLt, d.isLt, a.isLt, b.isLt, trivial⟩
  have eTransform := Coded.arm_Transform_7 w (R _ _ _ rfl)
  show decodeTransform w = _
  rw [eTransform, if_pos (R _ _ _ rfl)]
  rw [Coded.bfld_eq w 18 2 wc (R _ _ _ rfl),
    Coded.fld_eq w 12 6 d (R _ _ _ rfl),
    Coded.fld_eq w 6 6 a (R _ _ _ rfl),
    Coded.fld_eq w 0 6 b (R _ _ _ rfl)]
  rfl

theorem Coded.xhad (n : BitVec 2) (i : Bool) (d : Fin 64) (a : Fin 64) (b : Fin 64) : Coded.Statement (.xhad n i d a b) := by
  intro _ w h
  have R := Coded.read [(0x08, 27, 4), (n.toNat, 25, 2), (i.toNat, 24, 1), (d.val, 12, 6), (a.val, 6, 6), (b.val, 0, 6)] h rfl
    ⟨by decide, n.isLt, Coded.toNat_lt i, d.isLt, a.isLt, b.isLt, trivial⟩
  have eTransform := Coded.arm_Transform_8 w (R _ _ _ rfl)
  show decodeTransform w = _
  rw [eTransform, if_pos (R _ _ _ rfl)]
  rw [Coded.bfld_eq w 25 2 n (R _ _ _ rfl),
    Coded.bit_eq w 24 i (R _ _ _ rfl),
    Coded.fld_eq w 12 6 d (R _ _ _ rfl),
    Coded.fld_eq w 6 6 a (R _ _ _ rfl),
    Coded.fld_eq w 0 6 b (R _ _ _ rfl)]
  rfl

theorem Coded.xamax (f : BitVec 4) (d : Fin 64) (a : Fin 64) (b : Fin 64) : Coded.Statement (.xamax f d a b) := by
  intro _ w h
  have R := Coded.read [(0x09, 27, 4), (f.toNat, 22, 4), (d.val, 12, 6), (a.val, 6, 6), (b.val, 0, 6)] h rfl
    ⟨by decide, f.isLt, d.isLt, a.isLt, b.isLt, trivial⟩
  have eTransform := Coded.arm_Transform_9 w (R _ _ _ rfl)
  show decodeTransform w = _
  rw [eTransform, if_pos ⟨R _ _ _ rfl, R _ _ _ rfl⟩]
  rw [Coded.bfld_eq w 22 4 f (R _ _ _ rfl),
    Coded.fld_eq w 12 6 d (R _ _ _ rfl),
    Coded.fld_eq w 6 6 a (R _ _ _ rfl),
    Coded.fld_eq w 0 6 b (R _ _ _ rfl)]
  rfl

theorem Coded.xpack (m : BitVec 4) (wc : BitVec 2) (sc : Bool) (g : Bool) (d : Fin 64) (a : Fin 64) : Coded.Statement (.xpack m wc sc g d a) := by
  intro _ w h
  have R := Coded.read [(0x0A, 27, 4), (m.toNat, 22, 4), (wc.toNat, 20, 2), (sc.toNat, 19, 1), (g.toNat, 18, 1), (d.val, 12, 6), (a.val, 6, 6)] h rfl
    ⟨by decide, m.isLt, wc.isLt, Coded.toNat_lt sc, Coded.toNat_lt g, d.isLt, a.isLt, trivial⟩
  have eTransform := Coded.arm_Transform_10 w (R _ _ _ rfl)
  have eXpackGroup := Coded.arm_XpackGroup_0 w (R _ _ _ rfl)
  show decodeTransform w = _
  rw [eTransform, eXpackGroup, if_pos (R _ _ _ rfl)]
  rw [Coded.bfld_eq w 22 4 m (R _ _ _ rfl),
    Coded.bfld_eq w 20 2 wc (R _ _ _ rfl),
    Coded.bit_eq w 19 sc (R _ _ _ rfl),
    Coded.bit_eq w 18 g (R _ _ _ rfl),
    Coded.fld_eq w 12 6 d (R _ _ _ rfl),
    Coded.fld_eq w 6 6 a (R _ _ _ rfl)]
  rfl

theorem Coded.xunpk (m : BitVec 4) (wc : BitVec 2) (g : Bool) (d : Fin 64) (a : Fin 64) : Coded.Statement (.xunpk m wc g d a) := by
  intro _ w h
  have R := Coded.read [(0x0A, 27, 4), (0x01, 26, 1), (m.toNat, 22, 4), (wc.toNat, 20, 2), (g.toNat, 18, 1), (d.val, 12, 6), (a.val, 6, 6)] h rfl
    ⟨by decide, by decide, m.isLt, wc.isLt, Coded.toNat_lt g, d.isLt, a.isLt, trivial⟩
  have eTransform := Coded.arm_Transform_10 w (R _ _ _ rfl)
  have eXpackGroup := Coded.arm_XpackGroup_1 w (R _ _ _ rfl)
  show decodeTransform w = _
  rw [eTransform, eXpackGroup, if_pos ⟨R _ _ _ rfl, R _ _ _ rfl⟩]
  rw [Coded.bfld_eq w 22 4 m (R _ _ _ rfl),
    Coded.bfld_eq w 20 2 wc (R _ _ _ rfl),
    Coded.bit_eq w 18 g (R _ _ _ rfl),
    Coded.fld_eq w 12 6 d (R _ _ _ rfl),
    Coded.fld_eq w 6 6 a (R _ _ _ rfl)]
  rfl

theorem Coded.xexp (wc : BitVec 2) (d : Fin 64) (a : Fin 64) (m : Fin 16) : Coded.Statement (.xexp wc d a m) := by
  intro _ w h
  have R := Coded.read [(0x0B, 27, 4), (wc.toNat, 18, 2), (d.val, 12, 6), (a.val, 6, 6), (m.val, 0, 4)] h rfl
    ⟨by decide, wc.isLt, d.isLt, a.isLt, m.isLt, trivial⟩
  have eTransform := Coded.arm_Transform_11 w (R _ _ _ rfl)
  show decodeTransform w = _
  rw [eTransform, if_pos ⟨R _ _ _ rfl, R _ _ _ rfl⟩]
  rw [Coded.bfld_eq w 18 2 wc (R _ _ _ rfl),
    Coded.fld_eq w 12 6 d (R _ _ _ rfl),
    Coded.fld_eq w 6 6 a (R _ _ _ rfl),
    Coded.fld_eq w 0 4 m (R _ _ _ rfl)]
  rfl

theorem Coded.xtblPerm (a : Fin 64) (b : Fin 64) : Coded.Statement (.xtblPerm a b) := by
  intro _ w h
  have R := Coded.read [(0x0C, 27, 4), (a.val, 6, 6), (b.val, 0, 6)] h rfl
    ⟨by decide, a.isLt, b.isLt, trivial⟩
  have eTransform := Coded.arm_Transform_12 w (R _ _ _ rfl)
  have eXtblGroup := Coded.arm_XtblGroup_0 w (R _ _ _ rfl)
  show decodeTransform w = _
  rw [eTransform, eXtblGroup]
  rw [Coded.fld_eq w 6 6 a (R _ _ _ rfl),
    Coded.fld_eq w 0 6 b (R _ _ _ rfl)]
  rfl

theorem Coded.xtblKey (a : Fin 64) : Coded.Statement (.xtblKey a) := by
  intro _ w h
  have R := Coded.read [(0x0C, 27, 4), (0x4000, 12, 15), (a.val, 6, 6)] h rfl
    ⟨by decide, by decide, a.isLt, trivial⟩
  have eTransform := Coded.arm_Transform_12 w (R _ _ _ rfl)
  have eXtblGroup := Coded.arm_XtblGroup_16384 w (R _ _ _ rfl)
  show decodeTransform w = _
  rw [eTransform, eXtblGroup, if_pos (R _ _ _ rfl)]
  rw [Coded.fld_eq w 6 6 a (R _ _ _ rfl)]
  rfl

theorem Coded.retire : Coded.Statement .retire := by
  intro _ w h
  have R := Coded.read [(0x38, 26, 6)] h rfl
    ⟨by decide, trivial⟩
  have eScalar := Coded.arm_Scalar_56 w (R _ _ _ rfl)
  show decodeScalar w = _
  rw [eScalar, if_pos (R _ _ _ rfl)]
  rfl

theorem Coded.retu : Coded.Statement .retu := by
  intro _ w h
  have R := Coded.read [(0x3B, 26, 6)] h rfl
    ⟨by decide, trivial⟩
  have eScalar := Coded.arm_Scalar_59 w (R _ _ _ rfl)
  show decodeScalar w = _
  rw [eScalar, if_pos (R _ _ _ rfl)]
  rfl

theorem Coded.retl : Coded.Statement .retl := by
  intro _ w h
  have R := Coded.read [(0x3C, 26, 6)] h rfl
    ⟨by decide, trivial⟩
  have eScalar := Coded.arm_Scalar_60 w (R _ _ _ rfl)
  show decodeScalar w = _
  rw [eScalar, if_pos (R _ _ _ rfl)]
  rfl

theorem Coded.mOperationExecute (x : CtxId) : Coded.Statement (.mOperationExecute x) := fun _ _ h => nomatch h

theorem Coded.mldsCompletion (x : CtxId) : Coded.Statement (.mldsCompletion x) := fun _ _ h => nomatch h

theorem Coded.mdrainCompletion (x : CtxId) : Coded.Statement (.mdrainCompletion x) := fun _ _ h => nomatch h

theorem Coded.routineCompletion (x : CtxId) : Coded.Statement (.routineCompletion x) := fun _ _ h => nomatch h

theorem Coded.packageReset (b : BootInput) : Coded.Statement (.packageReset b) := fun _ _ h => nomatch h

theorem Coded.loadDataArrival (x : CtxId) : Coded.Statement (.loadDataArrival x) := fun _ _ h => nomatch h

theorem Coded.registerFill (x : CtxId) (v : Fin 64) : Coded.Statement (.registerFill x v) := fun _ _ h => nomatch h

theorem Coded.pageWalk (x : CtxId) (va : BitVec 56) : Coded.Statement (.pageWalk x va) := fun _ _ h => nomatch h

theorem Coded.releasedStorePerform (x : CtxId) (n : Nat) : Coded.Statement (.releasedStorePerform x n) := fun _ _ h => nomatch h

theorem Coded.storeRefused (x : CtxId) (n : Nat) (prot : Bool) : Coded.Statement (.storeRefused x n prot) := fun _ _ h => nomatch h

theorem Coded.rqctlRetry (x : CtxId) : Coded.Statement (.rqctlRetry x) := fun _ _ h => nomatch h

theorem Coded.rqctlDrop (x : CtxId) : Coded.Statement (.rqctlDrop x) := fun _ _ h => nomatch h

theorem Coded.commandExecute (core : Fin 1792) (queue : Fin 2) : Coded.Statement (.commandExecute core queue) := fun _ _ h => nomatch h

theorem Coded.commandCompletion (core : Fin 1792) (n : Nat) (outcome : Option Cause) : Coded.Statement (.commandCompletion core n outcome) := fun _ _ h => nomatch h

theorem Coded.ldBlkCompletion (core : Fin 1792) (n : Nat) : Coded.Statement (.ldBlkCompletion core n) := fun _ _ h => nomatch h

theorem Coded.watchFire (x : CtxId) (j : Fin 4) : Coded.Statement (.watchFire x j) := fun _ _ h => nomatch h

theorem Coded.userInterruptDelivery (x : CtxId) : Coded.Statement (.userInterruptDelivery x) := fun _ _ h => nomatch h

theorem Coded.rldDeadline (x : CtxId) : Coded.Statement (.rldDeadline x) := fun _ _ h => nomatch h

theorem Coded.rldReply (x : CtxId) (n : Nat) : Coded.Statement (.rldReply x n) := fun _ _ h => nomatch h

theorem Coded.faultRecordWrite : Coded.Statement (.faultRecordWrite) := fun _ _ h => nomatch h

theorem Coded.frqWrite (v : Word) : Coded.Statement (.frqWrite v) := fun _ _ h => nomatch h

theorem Coded.taskStart (x : CtxId) : Coded.Statement (.taskStart x) := fun _ _ h => nomatch h

theorem Coded.preemptionDecision (l : Fin 1792) : Coded.Statement (.preemptionDecision l) := fun _ _ h => nomatch h

theorem Coded.sliceFloorExpiry (x : CtxId) : Coded.Statement (.sliceFloorExpiry x) := fun _ _ h => nomatch h

theorem Coded.quantumExpiry (x : CtxId) : Coded.Statement (.quantumExpiry x) := fun _ _ h => nomatch h

theorem Coded.preemptForcedCheckpoint (x : CtxId) : Coded.Statement (.preemptForcedCheckpoint x) := fun _ _ h => nomatch h

theorem Coded.checkpointSwitchOut (x : CtxId) : Coded.Statement (.checkpointSwitchOut x) := fun _ _ h => nomatch h

theorem Coded.taskResume (x : CtxId) : Coded.Statement (.taskResume x) := fun _ _ h => nomatch h

theorem Coded.meridianFiring (m : Fin 8) : Coded.Statement (.meridianFiring m) := fun _ _ h => nomatch h

theorem Coded.channelMessageArrival (ch : Fin 256) (peer : Fin 2048) (pch : Fin 256) (tag : BitVec 32) (lost : List Nat) (data : List Byte) : Coded.Statement (.channelMessageArrival ch peer pch tag lost data) := fun _ _ h => nomatch h

theorem Coded.stashPrefetch : Coded.Statement (.stashPrefetch) := fun _ _ h => nomatch h

theorem Coded.releaseFlush : Coded.Statement (.releaseFlush) := fun _ _ h => nomatch h

theorem Coded.nredChunkArrival (grp : BitVec 10) (seq : BitVec 16) (chunk : Nat) (rank : Fin 32) (fits : Bool) (lost : Bool) (data : List Byte) : Coded.Statement (.nredChunkArrival grp seq chunk rank fits lost data) := fun _ _ h => nomatch h

theorem Coded.nredDeadlineSpill (grp : BitVec 10) (seq : BitVec 16) (chunk : Nat) : Coded.Statement (.nredDeadlineSpill grp seq chunk) := fun _ _ h => nomatch h

theorem Coded.ringStepArrival (id : BitVec 16) (kind : Fin 4) (step : Fin 8) (n : BitVec 27) (lost : Bool) (data : List Byte) : Coded.Statement (.ringStepArrival id kind step n lost data) := fun _ _ h => nomatch h

theorem Coded.keyAgreement (port : Fin 2) (peer : PeerHalf) (secret : BitVec 448) : Coded.Statement (.keyAgreement port peer secret) := fun _ _ h => nomatch h

theorem Coded.epochRotation (port : Fin 2) (peer : PeerHalf) (secret : BitVec 448) : Coded.Statement (.epochRotation port peer secret) := fun _ _ h => nomatch h

theorem Coded.frameReceive (port : Fin 2) (epoch : Nat) (counter : BitVec 32) (tagOk : Bool) : Coded.Statement (.frameReceive port epoch counter tagOk) := fun _ _ h => nomatch h

theorem Coded.roundTripMeasure (port : Fin 2) (us : Nat) (ns : Fin 1000) : Coded.Statement (.roundTripMeasure port us ns) := fun _ _ h => nomatch h

theorem Coded.packetReceive (src : BitVec 14) (stream : Fin 64) (seq : BitVec 32) (data : Payload) : Coded.Statement (.packetReceive src stream seq data) := fun _ _ h => nomatch h

theorem Coded.e2eResend (n : Nat) : Coded.Statement (.e2eResend n) := fun _ _ h => nomatch h

theorem Coded.heartbeat (port : Fin 6) : Coded.Statement (.heartbeat port) := fun _ _ h => nomatch h

theorem Coded.deadPeerDeclaration (port : Fin 6) : Coded.Statement (.deadPeerDeclaration port) := fun _ _ h => nomatch h

theorem Coded.deadNoticeReceive (dom : Fin 8) (coord : Fin 2048) : Coded.Statement (.deadNoticeReceive dom coord) := fun _ _ h => nomatch h

theorem Coded.fabricRead (line : Nat) (who : Fin 2048) : Coded.Statement (.fabricRead line who) := fun _ _ h => nomatch h

theorem Coded.fabricOwnership (line : Nat) (who : Fin 2048) : Coded.Statement (.fabricOwnership line who) := fun _ _ h => nomatch h

theorem Coded.fabricInvalidation (line : Nat) (home : Fin 2048) : Coded.Statement (.fabricInvalidation line home) := fun _ _ h => nomatch h

theorem Coded.invalidationAck (line : Nat) (who : Fin 2048) : Coded.Statement (.invalidationAck line who) := fun _ _ h => nomatch h

theorem Coded.fabricWriteBack (line : Nat) (who : Fin 2048) (data : List (Byte × Bool)) : Coded.Statement (.fabricWriteBack line who data) := fun _ _ h => nomatch h

theorem Coded.fabricEviction (line : Nat) (who : Fin 2048) : Coded.Statement (.fabricEviction line who) := fun _ _ h => nomatch h

theorem Coded.hbmRefresh (stack : Fin 12) (bank : Nat) : Coded.Statement (.hbmRefresh stack bank) := fun _ _ h => nomatch h

theorem Coded.lpddrRefresh (bank : Nat) : Coded.Statement (.lpddrRefresh bank) := fun _ _ h => nomatch h

theorem Coded.linkRetrain (port : Fin 6) (lane : Fin 8) (ok : Bool) : Coded.Statement (.linkRetrain port lane ok) := fun _ _ h => nomatch h

theorem Coded.scrub (line : Nat) : Coded.Statement (.scrub line) := fun _ _ h => nomatch h

theorem Coded.uncorrectableError (at_ : ErrorPlace) (unit : Bool) : Coded.Statement (.uncorrectableError at_ unit) := fun _ _ h => nomatch h

theorem Coded.correctedError (u : EccUnit) : Coded.Statement (.correctedError u) := fun _ _ h => nomatch h

theorem Coded.shutterArm (m : Master) (v : Word) : Coded.Statement (.shutterArm m v) := fun _ _ h => nomatch h

theorem Coded.shutterRelease (m : Master) : Coded.Statement (.shutterRelease m) := fun _ _ h => nomatch h

theorem Coded.shutterFire (src : ShutterSource) : Coded.Statement (.shutterFire src) := fun _ _ h => nomatch h

theorem Coded.shutterLatch : Coded.Statement (.shutterLatch) := fun _ _ h => nomatch h

theorem Coded.semaphoreAcquire (m : Master) (lease : BitVec 32) : Coded.Statement (.semaphoreAcquire m lease) := fun _ _ h => nomatch h

theorem Coded.semaphoreRenew (m : Master) (lease : BitVec 32) (epoch : BitVec 16) : Coded.Statement (.semaphoreRenew m lease epoch) := fun _ _ h => nomatch h

theorem Coded.semaphoreRelease (m : Master) (epoch : BitVec 16) : Coded.Statement (.semaphoreRelease m epoch) := fun _ _ h => nomatch h

theorem Coded.leaseExpiry : Coded.Statement (.leaseExpiry) := fun _ _ h => nomatch h

theorem Coded.guardedWrite (m : Master) (w : Guarded) : Coded.Statement (.guardedWrite m w) := fun _ _ h => nomatch h

theorem Coded.managementRequest (r : MgRequest) : Coded.Statement (.managementRequest r) := fun _ _ h => nomatch h

theorem Coded.mgevtRead : Coded.Statement (.mgevtRead) := fun _ _ h => nomatch h

theorem Coded.attestationQuote (nonce : BitVec 256) : Coded.Statement (.attestationQuote nonce) := fun _ _ h => nomatch h

theorem Coded.counterWrite (m : Master) (n : Fin 4096) (v : Word) : Coded.Statement (.counterWrite m n v) := fun _ _ h => nomatch h

theorem Coded.mgclkWrite (m : Master) (v : Word) : Coded.Statement (.mgclkWrite m v) := fun _ _ h => nomatch h

theorem Coded.governorInterval (watts : Nat) (mirrorWatts : Nat) (amps : Nat) (junction : Nat) : Coded.Statement (.governorInterval watts mirrorWatts amps junction) := fun _ _ h => nomatch h

theorem Coded.coolantAlarm (inlet : Nat) (flow : Nat) : Coded.Statement (.coolantAlarm inlet flow) := fun _ _ h => nomatch h

theorem Coded.thermalTrip : Coded.Statement (.thermalTrip) := fun _ _ h => nomatch h

theorem Coded.railShutoff : Coded.Statement (.railShutoff) := fun _ _ h => nomatch h

theorem Coded.fctlResume (x : CtxId) : Coded.Statement (.fctlResume x) := fun _ _ h => nomatch h

theorem Coded.fctlKill (x : CtxId) : Coded.Statement (.fctlKill x) := fun _ _ h => nomatch h

theorem Coded.fctlSwitchOut (x : CtxId) : Coded.Statement (.fctlSwitchOut x) := fun _ _ h => nomatch h

theorem Coded.flagsWrite (x : CtxId) (v : Word) : Coded.Statement (.flagsWrite x v) := fun _ _ h => nomatch h

theorem Coded.mquartWrite (x : CtxId) (v : Word) : Coded.Statement (.mquartWrite x v) := fun _ _ h => nomatch h

theorem Coded.carveWrite (x : CtxId) (v : Word) : Coded.Statement (.carveWrite x v) := fun _ _ h => nomatch h

theorem Coded.hgWrite (x : CtxId) (n : Fin 16) (v : Word) : Coded.Statement (.hgWrite x n v) := fun _ _ h => nomatch h

theorem Coded.hsWrite (x : CtxId) (n : Fin 16) (v : Word) : Coded.Statement (.hsWrite x n v) := fun _ _ h => nomatch h

theorem Coded.watchEntryWrite (x : CtxId) (j : Fin 4) (threshold : Bool) (v : Word) : Coded.Statement (.watchEntryWrite x j threshold v) := fun _ _ h => nomatch h

theorem Coded.coreControlWrite (core : Fin 1792) (off : BitVec 22) (v : Word) (w : Writer) : Coded.Statement (.coreControlWrite core off v w) := fun _ _ h => nomatch h

theorem Coded.frposWrite (v : Word) : Coded.Statement (.frposWrite v) := fun _ _ h => nomatch h

theorem Coded.vrbWrite (k : Fin 8) (v : Word) : Coded.Statement (.vrbWrite k v) := fun _ _ h => nomatch h

theorem Coded.contextCreate (x : CtxId) (pc : BitVec 56) (sup : Bool) : Coded.Statement (.contextCreate x pc sup) := fun _ _ h => nomatch h

theorem Coded.counterAdd (x : CtxId) (n : Nat) : Coded.Statement (.counterAdd x n) := fun _ _ h => nomatch h

theorem Coded.forwardedRequest (line : Nat) (who : Fin 2048) (own : Bool) : Coded.Statement (.forwardedRequest line who own) := fun _ _ h => nomatch h

theorem Coded.coolantRestored (inlet : Nat) (flow : Nat) : Coded.Statement (.coolantRestored inlet flow) := fun _ _ h => nomatch h

end Sys2Proof.Laws
end

