-- ==== Sys2Proof/Safety.lean ====
section
/-! DEFINITION. The terms claims are stated in: steps that go on, instructions that are ready to act where they stand, and
what a result in flight may change. -/

namespace Sys2Proof

open Machine

/-- A step answers a next state. -/
def StepsOn (s : State) : Prop := ∃ t, step s = .next t

/-- A step answers this next state. -/
def StepsTo (s t : State) : Prop := step s = .next t

/-! ## Ready to act -/

/-- The operands of an instruction may be read where it stands: none is late, none is lost or deferred where its use
forbids it, and no `chk` redirects (R84, R85). -/
def Readable (i : Instr) (s : State) : Prop :=
  ∀ r ∈ s.uses i, r.late = none ∧ r.contain = false ∧ r.poisonuse = false ∧ r.recovery = none

/-- The context has entries for what the instruction withholds (R318). -/
def Fits (i : Instr) (s : State) : Prop :=
  s.cx.withheld.length + (withholds i).toNat ≤ 64 ∧ s.cx.commands.length + (isCommand i).toNat ≤ 16

/-- An instruction that commits as a checkpoint stands right after one (R319). -/
def AtCheckpoint (i : Instr) (s : State) : Prop :=
  commitsAsCheckpoint i = true → s.cx.atCkpt = true

/-- The checks before a forced checkpoint pass: no memory sector became lost on behalf of a context that retires (R304,
R331), and a `carve` names a word that may be in force (R221). -/
def EarlyPass (i : Instr) (s : State) : Prop :=
  (i = .retire → s.cx.reg.lostw = false) ∧ ∀ d a, i = .carve d a → carveBad (s.readS a).val = false

/-- Nothing keeps the instruction from its own effect but what that effect itself checks. -/
structure Ready (i : Instr) (s : State) : Prop where
  wf         : i.wf = true
  readable   : Readable i s
  fits       : Fits i s
  checkpoint : AtCheckpoint i s
  early      : EarlyPass i s

/-! ## What a result in flight changes -/

/-- What a landing writes. -/
inductive Place where
  | s (d : Fin 64)
  | v (d : Fin 64)
  | m (d : Fin 16)
  | z (d : Fin 16)
  | q (d : Fin 8)
  | hold (p : Fin 2)
  | ctl (n : BitVec 14)
  | fpflags
  | flags
  | ring (h : Fin 16)
  | watch (j : Fin 4)
  | dim (n : Fin 64)
  | table
  | key
  | path
deriving DecidableEq, Repr

def Machine.Landing.place (l : Landing) : Place :=
  match l with
  | .s d _ => .s d
  | .v d _ _ => .v d
  | .m d _ _ => .m d
  | .z d _ => .z d
  | .q d _ => .q d
  | .hold p _ => .hold p
  | .ctl n _ => .ctl n
  | .fp _ => .fpflags
  | .sig _ | .clr _ | .clrErr _ => .flags
  | .ring h _ | .bind h _ _ => .ring h
  | .watch j _ _ => .watch j
  | .dim n _ | .seed n _ => .dim n
  | .table _ _ _ => .table
  | .key _ => .key
  | .pathA _ => .path

/-- The later state is the earlier with results entered in the delay line, each of which writes one of some places:
nothing else differs, in any core, in memory or in the package. -/
def OnlyEnters (places : List Place) (s t : State) : Prop :=
  ∃ es : List InFlight, t = es.foldl State.enter s ∧ ∀ e ∈ es, e.landing.place ∈ places

/-- An instruction answers the state in which a value with a property is on its way to a scalar register with a latency
and a tag, and nothing else has changed. -/
def WritesS (i : Instr) (s : State) (l : Nat) (d : Fin 64) (t : Tag) (p : Word → Prop) : Prop :=
  ∃ v, exec i s = .next (s.pushS l d v t) ∧ p v

/-- An instruction does not commit: it takes this stop, and nothing of it stands but what the stop itself does. -/
def Stops (i : Instr) (s : State) (e : Stop) : Prop := exec i s = .next { s.takeStop e with raised := some e }

/-- The control registers that hold what was last written to them, by number (R65, R69, R184, R218, R232, R274, R278, R292,
R295, R314, R324, R329, R333 to R341, R348, R352, R367, R374). -/
def plainRegisters : List Nat :=
  [0x001, 0x002, 0x003, 0x004, 0x005, 0x006, 0x010, 0x011, 0x012, 0x013, 0x014, 0x015, 0x016, 0x017, 0x018, 0x021, 0x022,
    0x023, 0x024, 0x025, 0x026, 0x0A0, 0x0A2, 0x0C0, 0x0C1, 0x0C2, 0x141, 0x144, 0x146, 0x147, 0x14A, 0x14B, 0x170, 0x171]

/-- An access of n bytes by the current context passes its checks and finds its place: the address is one of 56 bits and
a multiple of the size, it translates to a place that takes the access, and the open phase allows it (R231, R335). -/
structure Reaches (s : State) (a : Acc) (addr : Word) (n : Nat) (l : Loc) : Prop where
  small   : addr.toNat < 2 ^ 56
  aligned : addr.toNat % n = 0
  placed  : s.locate a (field addr 0 56) n = .ok l
  phase   : s.phaseCheck .l a (field addr 0 56) l n = .ok ()

/-- What a context holds that its program reads and what it has in progress: nothing of it moves. -/
def SameContext (c d : Ctx) : Prop :=
  d.regs = c.regs ∧ d.delay = c.delay ∧ d.transfer = c.transfer ∧ d.flags = c.flags ∧ d.wn = c.wn ∧ d.wt = c.wt ∧ d.pc = c.pc ∧
    d.sup = c.sup ∧ d.status = c.status ∧ d.withheld = c.withheld ∧ d.commands = c.commands ∧ d.released = c.released ∧
    d.task = c.task ∧ d.keep = c.keep

/-- The lines of n bytes at a place are here: no other package owns one of them or is about to, and of a line whose home is
another package this one holds a copy. A read here finds memory as it is (R379, R383). -/
def Held (s : State) (l : Loc) (n : Nat) : Prop := ∀ i < n, s.elsewhere (s.keyOf (l.add i) / 128) = false

/-- Acknowledgments of invalidations are due for a write that the current context has made on one of some paths, of a class in
a mask, and that is complete to it: the write has not performed at domain scope (R247, R383). -/
def AcksDue (s : State) (paths : List Path) (mask : BitVec 16) : Prop :=
  ∃ e ∈ s.fabric.dir, e.newOwner = some s.fabric.coord ∧ ∃ v ∈ s.views, v.key / 128 = globalLine s.fabric.coord e.line ∧
    v.owner.serial = s.cx.serial ∧ v.done = true ∧ mask.getLsbD v.cls.val = true ∧ ∃ p ∈ paths, v.path = some p

/-- No other package's request for ownership of a line of this one is in progress (R383). -/
def Uncontested (s : State) : Prop := ∀ e ∈ s.fabric.dir, ∀ w, e.newOwner = some w → w = s.fabric.coord

/-- n bytes at a place lie in memory or in a scratchpad. -/
def PlainPlace (l : Loc) (n : Nat) : Prop := ∀ i < n, isWindow (l.add i).pa.toNat = false ∨ windowSpace (l.add i).pa.toNat = 0

/-- The keys of n bytes at a place. -/
def placeKeys (s : State) (l : Loc) (n : Nat) : List Nat := (List.range n).map fun i => s.keyOf (l.add i)

/-- n bytes at a place take a command's writes: their home answers and refuses none of them, their lines are here, and no
later command of the same context wrote one of them before (R243, R248, R351, R383). -/
structure Takes (s : State) (c : Command) (l : Loc) (n : Nat) : Prop where
  alive  : s.homeDead l.home = false
  shared : l.ver = none
  held   : Held s l n
  plain  : PlainPlace l n
  open_  : ∀ i < n, s.homeRefuses (l.add i) 1 = false
  apart  : (placeKeys s l n).Nodup
  last   : ∀ v ∈ s.views, v.follows c.author = false

/-- The window of a channel takes n more bytes of a message at once: it is the oldest, has room, its one piece takes them, and
neither an earlier receive of its context nor a copy of a line in another package is in the way (R253, R377, R378, R383). -/
structure WindowTakes (s : State) (ch : Fin 256) (w : Window) (p : Piece) (n : Nat) : Prop where
  oldest : s.openWindow ch = some w
  room   : w.fill + n ≤ w.len
  one    : w.places = [p]
  len    : p.len = w.len
  takes  : Takes s w.cmd p.loc p.len
  first  : s.receiveOpen (·.before w.cmd) = false
  owned  : ∀ k ∈ placeKeys s p.loc p.len, s.lineEntry (k / 128) = none

/-- Every context's registers, flags and work stand as they were, and the same bundle is at hand. -/
def SameRun (s t : State) : Prop := t.cur = s.cur ∧ t.raised = s.raised ∧ ∀ x, SameContext (s.ctx x) (t.ctx x)

/-- Memory, its lost tags, the sequence counters and every context's registers, flags and work stand as they were. What
may differ is what no program reads as a value: caches, translations held, counts, who has seen which write. -/
def Unmoved (s t : State) : Prop := t.mem = s.mem ∧ t.lost = s.lost ∧ t.counters = s.counters ∧ SameRun s t

/-- A read of n bytes at a place by an observer, on a path, with an access of a class, finds memory as it is: the home answers,
the lines are here, none of the bytes has a write that the read may miss or a store of the observer's own over it, and no
sector of them is lost. -/
def PlainFor (s : State) (o : Owner) (p : Path) (c : Fin 16) (l : Loc) (n : Nat) : Prop :=
  s.homeDead l.home = false ∧ Held s l n ∧ (s.ctx o.ctx).ownStores p = [] ∧
    ∀ i < n, s.lostAt (s.keyOf (l.add i)) = false ∧
      ∀ v ∈ s.views, v.key = s.keyOf (l.add i) → v.open_ o p (s.since o p c) = false

/-- A read by the current context finds memory as it is. -/
def PlainRead (s : State) (p : Path) (c : Fin 16) (l : Loc) (n : Nat) : Prop := PlainFor s (s.me s.cur.ctx) p c l n

/-- The bytes of memory at a place. -/
def placeBytes (s : State) (l : Loc) (n : Nat) : List Byte := (List.range n).map fun i => s.byteAt (s.keyOf (l.add i))

/-- Spans of addresses reach their places: each translates, and its place takes the access (R142). -/
def SpansReach (s : State) (a : Acc) (takes : Piece → Bool) (l : List (BitVec 56 × Nat)) : Prop :=
  ∀ q ∈ l, ∃ loc, s.xlate s.cur.ctx s.cx.reg.ptroot s.supervisor a q.1 = .ok loc ∧ takes { va := q.1, loc := loc, len := q.2 } = true

/-- The bytes of memory at a place, as a number, lowest address least significant (R13). -/
def valueAt (s : State) (l : Loc) (n : Nat) : Nat := ofBytes (placeBytes s l n)

/-! ## Vector results -/

/-- An instruction answers the state in which a vector result is on its way: its lanes under a mask, its tags, its sticky
flags, and, where the word says so, operand b in the hold latch; nothing else has changed. -/
def WritesV (i : Instr) (s : State) (l : Nat) (d b : Fin 64) (h : Bool) (lanes : Quad) (tags : Tags) (q : FpFlags → Prop)
    (p : Nat → BitVec 32 → Prop) : Prop :=
  ∃ (x : VReg) (fl : FpFlags), exec i s = .next (((s.latch h b).push l (.v d x lanes)).pushFlags l fl) ∧ x.tags = tags ∧ q fl ∧
    ∀ n < 128, lanes.getLsbD n = true → p n (x.lane n)

/-- The value of element j of a lane as an integer of a type (R86, R126). -/
def laneInt (t : VFmt) (x : BitVec 32) (j : Nat) : Int := elemInt t (elem x (vwidth t) j).toNat

/-- The pattern of element j of a lane. -/
def lanePat (t : VFmt) (x : BitVec 32) (j : Nat) : Nat := (elem x (vwidth t) j).toNat

/-- A lane written under the mask, in a clean group, has an element outside the type's range (R95, R126). -/
def AnyClamps (t : VFmt) (lanes : Quad) (tags : Tags) (r : Nat → Nat → Int) : Prop :=
  ∃ n < 128, lanes.getLsbD n = true ∧ tags.get (laneGroup n) = .clean ∧ ∃ j < 32 / vwidth t, r n j < elemLo t ∨ elemHi t < r n j

/-! ## Results of the X slot -/

/-- An instruction answers the state in which r registers, each written whole, are on their way with one tag, and the sticky
flags of a clean result; nothing else has changed. The property is of positions of width w. -/
def WritesPos (i : Instr) (s : State) (l : Nat) (d : Fin 64) (r w : Nat) (p : Nat → Nat → Prop) : Prop :=
  ∃ (x : Nat) (fl : FpFlags), exec i s = .next ((s.putGroup l d r x (s.readTag i)).pushXFlags l (s.readTag i) fl) ∧
    ∀ n < 4096 * r / w, p n (pos w x n)

/-- A magnitude n · 2^e is, with its sign, within half a unit of 2^g of q units (R167). -/
def Nearest (neg : Bool) (n : Nat) (e : Int) (q g : Int) : Prop :=
  let c := min e g
  2 * (signed neg (n * 2 ^ (e - c).toNat) - q * 2 ^ (g - c).toNat).natAbs ≤ 2 ^ (g - c).toNat

end Sys2Proof
end

