-- ==== Sys2Proof/Certificates/Slice0/Obligations.lean ====
section
/-! DEFINITION. The statements about the model, for the provers. -/

open Sys2Proof Sys2Proof.Machine

/-! ## The scalar computations -/

/-- R100 with the latencies of R97 and the tags of R98: each two-register form of the ALU group, ready to act, answers the state
in which its value is one boundary from landing in `d`, with the larger of the operands' tags. R100, the unary forms: counts
of zeros and ones, the lowest set bit, the reversal. R100: the fn code of each form stands in the low byte of its word. -/
def Obligations.AluForms : Prop :=
  (∀ (d a b : Fin 64) (s : State),
     let x := (s.readS a).val
     let y := (s.readS b).val
     let n := y.toNat % 64
     let t := maxTag (s.readS a).tag (s.readS b).tag
     (Ready (.add d a b) s → WritesS (.add d a b) s 1 d t fun v => v.toNat = (x.toNat + y.toNat) % 2 ^ 64) ∧
     (Ready (.sub d a b) s → WritesS (.sub d a b) s 1 d t fun v => (v.toNat + y.toNat) % 2 ^ 64 = x.toNat) ∧
     (Ready (.and d a b) s → WritesS (.and d a b) s 1 d t fun v => ∀ i, v.getLsbD i = (x.getLsbD i && y.getLsbD i)) ∧
     (Ready (.or d a b) s → WritesS (.or d a b) s 1 d t fun v => ∀ i, v.getLsbD i = (x.getLsbD i || y.getLsbD i)) ∧
     (Ready (.xor d a b) s → WritesS (.xor d a b) s 1 d t fun v => ∀ i, v.getLsbD i = (x.getLsbD i != y.getLsbD i)) ∧
     (Ready (.andn d a b) s → WritesS (.andn d a b) s 1 d t fun v => ∀ i < 64, v.getLsbD i = (x.getLsbD i && !(y.getLsbD i))) ∧
     (Ready (.shl d a b) s → WritesS (.shl d a b) s 1 d t fun v => v.toNat = x.toNat * 2 ^ n % 2 ^ 64) ∧
     (Ready (.shr d a b) s → WritesS (.shr d a b) s 1 d t fun v => v.toNat = x.toNat / 2 ^ n) ∧
     (Ready (.sar d a b) s → WritesS (.sar d a b) s 1 d t fun v => v.toInt = x.toInt / 2 ^ n) ∧
     (Ready (.rol d a b) s → WritesS (.rol d a b) s 1 d t fun v => ∀ i < 64, v.getLsbD i = x.getLsbD ((i + 64 - n) % 64)) ∧
     (Ready (.min d a b) s → WritesS (.min d a b) s 1 d t fun v => v.toInt = min x.toInt y.toInt) ∧
     (Ready (.max d a b) s → WritesS (.max d a b) s 1 d t fun v => v.toInt = max x.toInt y.toInt) ∧
     (Ready (.minn d a b) s → WritesS (.minn d a b) s 1 d t fun v => v.toNat = min x.toNat y.toNat) ∧
     (Ready (.maxn d a b) s → WritesS (.maxn d a b) s 1 d t fun v => v.toNat = max x.toNat y.toNat) ∧
     (Ready (.cmpEq d a b) s → WritesS (.cmpEq d a b) s 1 d t fun v => v.toNat = if x.toNat = y.toNat then 1 else 0) ∧
     (Ready (.cmpNe d a b) s → WritesS (.cmpNe d a b) s 1 d t fun v => v.toNat = if x.toNat = y.toNat then 0 else 1) ∧
     (Ready (.cmpLt d a b) s → WritesS (.cmpLt d a b) s 1 d t fun v => v.toNat = if x.toInt < y.toInt then 1 else 0) ∧
     (Ready (.cmpLe d a b) s → WritesS (.cmpLe d a b) s 1 d t fun v => v.toNat = if x.toInt ≤ y.toInt then 1 else 0) ∧
     (Ready (.cmpLtn d a b) s → WritesS (.cmpLtn d a b) s 1 d t fun v => v.toNat = if x.toNat < y.toNat then 1 else 0) ∧
     (Ready (.cmpLen d a b) s → WritesS (.cmpLen d a b) s 1 d t fun v => v.toNat = if x.toNat ≤ y.toNat then 1 else 0)) ∧
  (∀ (d a : Fin 64) (s : State),
     let x := (s.readS a).val
     let t := (s.readS a).tag
     (Ready (.clz d a) s → WritesS (.clz d a) s 1 d t fun v =>
       v.toNat ≤ 64 ∧ (∀ i, 64 ≤ i + v.toNat → x.getLsbD i = false) ∧ (v.toNat < 64 → x.getLsbD (63 - v.toNat) = true)) ∧
     (Ready (.ctz d a) s → WritesS (.ctz d a) s 1 d t fun v =>
       v.toNat ≤ 64 ∧ (∀ i < v.toNat, x.getLsbD i = false) ∧ (v.toNat < 64 → x.getLsbD v.toNat = true)) ∧
     (Ready (.ffs d a) s → WritesS (.ffs d a) s 1 d t fun v =>
       (x = 0 → v = 0) ∧ (x ≠ 0 → 1 ≤ v.toNat ∧ x.getLsbD (v.toNat - 1) = true ∧ ∀ i < v.toNat - 1, x.getLsbD i = false)) ∧
     (Ready (.popc d a) s → WritesS (.popc d a) s 1 d t fun v => v.toNat = (List.range 64).countP fun i => x.getLsbD i) ∧
     (Ready (.brev d a) s → WritesS (.brev d a) s 1 d t fun v => ∀ i < 64, v.getLsbD i = x.getLsbD (63 - i))) ∧
  (∀ (d a b : Fin 64), ∀ p ∈ [(Instr.add d a b, 0x00), (.sub d a b, 0x01), (.and d a b, 0x02), (.or d a b, 0x03), (.xor d a b, 0x04),
      (.andn d a b, 0x05), (.shl d a b, 0x06), (.shr d a b, 0x07), (.sar d a b, 0x08), (.rol d a b, 0x09), (.min d a b, 0x0A),
      (.max d a b, 0x0B), (.minn d a b, 0x0C), (.maxn d a b, 0x0D), (.cmpEq d a b, 0x10), (.cmpNe d a b, 0x11), (.cmpLt d a b, 0x12),
      (.cmpLe d a b, 0x13), (.cmpLtn d a b, 0x14), (.cmpLen d a b, 0x15), (.clz d a, 0x18), (.ctz d a, 0x19), (.ffs d a, 0x1A),
      (.popc d a, 0x1B), (.brev d a, 0x1C)], ∃ w : SlotWord, encode p.1 = some w ∧ w.toNat % 256 = p.2)

/-- R101 with the latencies of R97: products and their high halves; quotients toward zero and remainders with the sign of the
dividend; the results for a divisor of zero and for the quotient −2^63 / −1; the fn code of each form in the low byte of its word. -/
def Obligations.MulForms : Prop :=
  ∀ (d a b : Fin 64) (s : State),
    let x := (s.readS a).val
    let y := (s.readS b).val
    let t := maxTag (s.readS a).tag (s.readS b).tag
    (Ready (.mul d a b) s → WritesS (.mul d a b) s 3 d t fun v => v.toNat = x.toNat * y.toNat % 2 ^ 64) ∧
    (Ready (.mulh d a b) s → WritesS (.mulh d a b) s 3 d t fun v => v.toInt = x.toInt * y.toInt / 2 ^ 64) ∧
    (Ready (.mulhn d a b) s → WritesS (.mulhn d a b) s 3 d t fun v => v.toNat = x.toNat * y.toNat / 2 ^ 64) ∧
    (Ready (.div d a b) s → WritesS (.div d a b) s 20 d t fun v =>
      (y = 0 → v = BitVec.allOnes 64) ∧ (x.toInt = -2 ^ 63 → y.toInt = -1 → v.toInt = -2 ^ 63) ∧
      (y ≠ 0 → ¬(x.toInt = -2 ^ 63 ∧ y.toInt = -1) → v.toInt = (x.toInt * y.toInt).sign * (x.toInt.natAbs / y.toInt.natAbs : Nat))) ∧
    (Ready (.divn d a b) s → WritesS (.divn d a b) s 20 d t fun v =>
      (y = 0 → v = BitVec.allOnes 64) ∧ (y ≠ 0 → v.toNat = x.toNat / y.toNat)) ∧
    (Ready (.rem d a b) s → WritesS (.rem d a b) s 20 d t fun v =>
      (y = 0 → v = x) ∧ (x.toInt = -2 ^ 63 → y.toInt = -1 → v = 0) ∧
      (y ≠ 0 → ∃ q : Int, x.toInt = q * y.toInt + v.toInt ∧ v.toInt.natAbs < y.toInt.natAbs ∧
        (v.toInt = 0 ∨ (v.toInt < 0 ↔ x.toInt < 0)))) ∧
    (Ready (.remn d a b) s → WritesS (.remn d a b) s 20 d t fun v => (y = 0 → v = x) ∧ (y ≠ 0 → v.toNat = x.toNat % y.toNat)) ∧
    (∀ p ∈ [(Instr.mul d a b, 0x00), (.mulh d a b, 0x01), (.mulhn d a b, 0x02), (.div d a b, 0x03), (.divn d a b, 0x04),
      (.rem d a b, 0x05), (.remn d a b, 0x06)], ∃ w : SlotWord, encode p.1 = some w ∧ w.toNat % 256 = p.2)

/-- R102 to R106: the immediate forms do what the register forms do with the immediate extended as the rule says; `li` is clean
and `liu` reads `d`. R107 to R110: field extraction and insertion, the funnel shifts, and selection. -/
def Obligations.ImmediateForms : Prop :=
  (∀ (d a : Fin 64) (i : BitVec 14) (n : BitVec 6) (c : BitVec 11) (j : BitVec 20) (s : State),
     let x := (s.readS a).val
     let t := (s.readS a).tag
     (Ready (.addi d a i) s → WritesS (.addi d a i) s 1 d t fun v => v = x + BitVec.ofInt 64 i.toInt) ∧
     (Ready (.andi d a i) s → WritesS (.andi d a i) s 1 d t fun v => ∀ k < 64, v.getLsbD k = (x.getLsbD k && i.getLsbD (min k 13))) ∧
     (Ready (.ori d a i) s → WritesS (.ori d a i) s 1 d t fun v => ∀ k < 64, v.getLsbD k = (x.getLsbD k || i.getLsbD (min k 13))) ∧
     (Ready (.xori d a i) s → WritesS (.xori d a i) s 1 d t fun v => ∀ k < 64, v.getLsbD k = (x.getLsbD k != i.getLsbD (min k 13))) ∧
     (Ready (.shli d a n) s → WritesS (.shli d a n) s 1 d t fun v => v.toNat = x.toNat * 2 ^ n.toNat % 2 ^ 64) ∧
     (Ready (.shri d a n) s → WritesS (.shri d a n) s 1 d t fun v => v.toNat = x.toNat / 2 ^ n.toNat) ∧
     (Ready (.sari d a n) s → WritesS (.sari d a n) s 1 d t fun v => v.toInt = x.toInt / 2 ^ n.toNat) ∧
     (Ready (.roli d a n) s → WritesS (.roli d a n) s 1 d t fun v => ∀ k < 64, v.getLsbD k = x.getLsbD ((k + 64 - n.toNat) % 64)) ∧
     (Ready (.cmpiEq d a c) s → WritesS (.cmpiEq d a c) s 1 d t fun v => v.toNat = if x.toInt = c.toInt then 1 else 0) ∧
     (Ready (.cmpiNe d a c) s → WritesS (.cmpiNe d a c) s 1 d t fun v => v.toNat = if x.toInt = c.toInt then 0 else 1) ∧
     (Ready (.cmpiLt d a c) s → WritesS (.cmpiLt d a c) s 1 d t fun v => v.toNat = if x.toInt < c.toInt then 1 else 0) ∧
     (Ready (.cmpiLe d a c) s → WritesS (.cmpiLe d a c) s 1 d t fun v => v.toNat = if x.toInt ≤ c.toInt then 1 else 0) ∧
     (Ready (.cmpiLtn d a c) s → WritesS (.cmpiLtn d a c) s 1 d t fun v =>
       v.toNat = if (x.toNat : Int) < c.toInt % 2 ^ 64 then 1 else 0) ∧
     (Ready (.cmpiLen d a c) s → WritesS (.cmpiLen d a c) s 1 d t fun v =>
       v.toNat = if (x.toNat : Int) ≤ c.toInt % 2 ^ 64 then 1 else 0) ∧
     (Ready (.li d j) s → WritesS (.li d j) s 1 d .clean fun v => v.toInt = j.toInt) ∧
     (Ready (.liu d j) s → WritesS (.liu d j) s 1 d (s.readS d).tag fun v =>
       v.toNat = ((s.readS d).val.toNat * 2 ^ 20 + j.toNat) % 2 ^ 64)) ∧
  (∀ (d a b c : Fin 64) (l p n : BitVec 6) (s : State),
     let x := (s.readS a).val
     let y := (s.readS b).val
     let z := (s.readS c).val
     let w := x.toNat * 2 ^ 64 + y.toNat
     let t := maxTag (s.readS a).tag (s.readS b).tag
     (Ready (.bfxN d a l p) s → WritesS (.bfxN d a l p) s 1 d (s.readS a).tag fun v =>
       ∀ k, v.getLsbD k = (decide (k ≤ l.toNat) && x.getLsbD (p.toNat + k))) ∧
     (Ready (.bfxI d a l p) s → WritesS (.bfxI d a l p) s 1 d (s.readS a).tag fun v =>
       ∀ k < 64, v.getLsbD k = x.getLsbD (p.toNat + min k l.toNat)) ∧
     (Ready (.bfi d a l p) s → WritesS (.bfi d a l p) s 1 d (maxTag (s.readS d).tag (s.readS a).tag) fun v =>
       ∀ k, v.getLsbD k = if p.toNat ≤ k ∧ k ≤ p.toNat + l.toNat then x.getLsbD (k - p.toNat) else (s.readS d).val.getLsbD k) ∧
     (Ready (.fshl d a b n) s → WritesS (.fshl d a b n) s 1 d t fun v => v.toNat = w * 2 ^ n.toNat / 2 ^ 64 % 2 ^ 64) ∧
     (Ready (.fshr d a b n) s → WritesS (.fshr d a b n) s 1 d t fun v => v.toNat = w / 2 ^ n.toNat % 2 ^ 64) ∧
     (Ready (.fshlv d a b c) s → WritesS (.fshlv d a b c) s 1 d (maxTag t (s.readS c).tag) fun v =>
       v.toNat = w * 2 ^ (z.toNat % 64) / 2 ^ 64 % 2 ^ 64) ∧
     (Ready (.fshrv d a b c) s → WritesS (.fshrv d a b c) s 1 d (maxTag t (s.readS c).tag) fun v =>
       v.toNat = w / 2 ^ (z.toNat % 64) % 2 ^ 64) ∧
     (Ready (.sel d a b c) s → WritesS (.sel d a b c) s 1 d (maxTag t (s.readS c).tag) fun v =>
       (z ≠ 0 → v = x) ∧ (z = 0 → v = y)))

/-- Which registers an S-slot computation may touch: one that is ready answers a next state in which one result for its
destination is in the delay line of whoever runs, and nothing else differs; for `s0` nothing differs at all (R66, R98). -/
def Obligations.ScalarFrame : Prop :=
  ∀ (d a b c : Fin 64) (i : BitVec 14) (n l : BitVec 6) (k : BitVec 11) (j : BitVec 20) (s : State),
    ∀ e ∈ [Instr.add d a b, .sub d a b, .and d a b, .or d a b, .xor d a b, .andn d a b, .shl d a b, .shr d a b, .sar d a b,
      .rol d a b, .min d a b, .max d a b, .minn d a b, .maxn d a b, .cmpEq d a b, .cmpNe d a b, .cmpLt d a b, .cmpLe d a b,
      .cmpLtn d a b, .cmpLen d a b, .clz d a, .ctz d a, .ffs d a, .popc d a, .brev d a, .mul d a b, .mulh d a b, .mulhn d a b,
      .div d a b, .divn d a b, .rem d a b, .remn d a b, .addi d a i, .andi d a i, .ori d a i, .xori d a i, .shli d a n,
      .shri d a n, .sari d a n, .roli d a n, .cmpiEq d a k, .cmpiNe d a k, .cmpiLt d a k, .cmpiLe d a k, .cmpiLtn d a k,
      .cmpiLen d a k, .li d j, .liu d j, .bfxN d a l n, .bfxI d a l n, .bfi d a l n, .fshl d a b n, .fshr d a b n, .fshlv d a b c,
      .fshrv d a b c, .sel d a b c], Ready e s →
      ∃ t : State, exec e s = .next t ∧ OnlyEnters [.s d] s t ∧ (d = 0 → t = s) ∧
        (s.bank? = none → ∃ es, t.cx.delay = s.cx.delay ++ es ∧ es.length ≤ 1 ∧ ∀ f ∈ es, f.landing.place = .s d)

/-! ## Control registers -/

/-- R2: `%partid` reads as the number of physical cores, with bits 63 to 16 zero, whatever the privilege, and a write to it has no
effect and raises nothing. -/
def Obligations.PartNumber : Prop :=
  ∀ (d a : Fin 64) (s : State), s.absent.length ≤ 1792 →
    (Ready (.mfs d 0x000) s → WritesS (.mfs d 0x000) s 1 d .clean fun v =>
      v.toNat % 2 ^ 16 + s.absent.length = 1792 ∧ v.toNat / 2 ^ 16 = 0) ∧
    (Ready (.mts a 0x000) s → exec (.mts a 0x000) s = .next s)

/-- R66: `s0` reads as 0 and `m0` as all ones, each with a clean tag; a result aimed at either is discarded, and with it every
change of the state, sticky flags among them, whichever slot computes it; `s63` takes what is written to it, and a call's
link besides. -/
def Obligations.FixedNames : Prop :=
  ∀ (t : VFmt) (f : BitVec 4) (a b : Fin 64) (x y : Fin 16) (k : Fin 4) (h : Bool) (i j : BitVec 20) (n : BitVec 14) (s : State),
    s.readS 0 = { val := 0, tag := .clean } ∧ s.readM 0 = { val := BitVec.allOnes 128, tags := Tags.clean } ∧
    (∀ l v g, s.pushS l 0 v g = s) ∧ (∀ l v g p, s.pushLoad l 0 v g p = s) ∧ (∀ l v m, s.pushM l 0 v m = s) ∧
    (∀ e ∈ [Instr.add 0 a b, .mul 0 a b, .div 0 a b, .li 0 i, .vext t 0 a b, .xamax f 0 a b, .vmaskAnd 0 x y k, .vmaskOr 0 x y k,
      .vmaskXor 0 x y k, .vmaskAndn 0 x y k, .vmaskNot 0 x k, .vmaskMov 0 x k], Ready e s → exec e s = .next s) ∧
    (∀ e ∈ [Instr.vcmpEq t 0 a b k h, .vcmpNe t 0 a b k h, .vcmpLt t 0 a b k h, .vcmpLe t 0 a b k h, .vcmpGt t 0 a b k h,
      .vcmpGe t 0 a b k h, .vcmpUo t 0 a b k h], Ready e s → exec e s = .next (s.latch h b)) ∧
    (Ready (.addi 63 a n) s → exec (.addi 63 a n) s =
      .next (s.pushS 1 63 ((s.readS a).val + BitVec.ofInt 64 n.toInt) (s.readS a).tag)) ∧
    (Ready (.call j) s → ∃ (target link : Word), exec (.call j) s = .next ((s.pushS 1 63 link .clean).setTransfer true target)) ∧
    (Ready (.callr a) s → ∃ (target link : Word), exec (.callr a) s = .next ((s.pushS 1 63 link .clean).setTransfer true target))

/-- R69 and R111: `mfs` reads any assigned register that the privilege allows, and its result is clean; one that is for the
supervisor raises PRIV in user code; a number that names no register raises BADOP. R339 and R340 outside deterministic mode:
`clk` reads the core's clock, `coreid` the core's logical and physical names, each with a clean tag. -/
def Obligations.ControlReads : Prop :=
  (∀ (d : Fin 64) (n : BitVec 14) (s : State), Ready (.mfs d n) s →
     (∀ r w, ctlAccess n.toNat = some (r, w) → (r ≠ .sup ∨ s.cx.sup = true) →
       WritesS (.mfs d n) s 1 d .clean fun v => v = s.readCtl s.cur.ctx n.toNat) ∧
     (∀ w, ctlAccess n.toNat = some (.sup, w) → s.cx.sup = false → Stops (.mfs d n) s (.raise .priv Info.none)) ∧
     (ctlAccess n.toNat = none → Stops (.mfs d n) s (.raise .badop Info.none))) ∧
  (∀ (d : Fin 64) (s : State), (∀ t, s.cx.task = some t → t.det = 0) →
     (Ready (.clk d) s → WritesS (.clk d) s 1 d .clean fun v => v = s.kr.clock) ∧
     (Ready (.coreidLog d) s → WritesS (.coreidLog d) s 1 d .clean fun v =>
       v.toNat = s.fabric.dom.val * 2 ^ 23 + s.fabric.coord.toNat * 2 ^ 12 + (s.logicalOf s.cur.ctx).val) ∧
     (Ready (.coreidPhys d) s → WritesS (.coreidPhys d) s 1 d .clean fun v =>
       v.toNat = s.fabric.dom.val * 2 ^ 23 + s.fabric.coord.toNat * 2 ^ 12 + s.cur.slot.val * 2 ^ 11 + s.cur.core.val))

/-- R69, R71 and R111: `mts` of an allowed value puts the write one boundary ahead, so that its own bundle sees the old value; a
register whose writes are ignored stays; a forbidden value raises the cause its field map names; a supervisor's register
raises PRIV in user code. `%carve` and `%mquart` have conditions of their own beside these. R71 with R65 and R69: a plain
register reads what was written to it, and a write of one leaves every other as it was. The model's own readings in it: log 44. -/
def Obligations.ControlWrites : Prop :=
  (∀ (a : Fin 64) (n : BitVec 14) (s : State), Ready (.mts a n) s →
     (∀ r w, ctlAccess n.toNat = some (r, w) → (w ≠ .sup ∨ s.cx.sup = true) → w ≠ .ignored →
       s.ctlBad s.cur.ctx n.toNat (s.readS a).val = none → n ≠ 0x020 → (n = 0x040 → s.mirrorBusy s.cur.ctx = false) →
       exec (.mts a n) s = .next (s.push 1 (.ctl n (s.readS a).val))) ∧
     (∀ r, ctlAccess n.toNat = some (r, .ignored) → exec (.mts a n) s = .next s) ∧
     (∀ r w c, ctlAccess n.toNat = some (r, w) → (w ≠ .sup ∨ s.cx.sup = true) → w ≠ .ignored →
       s.ctlBad s.cur.ctx n.toNat (s.readS a).val = some c → Stops (.mts a n) s (.raise c Info.none)) ∧
     (∀ r, ctlAccess n.toNat = some (r, .sup) → s.cx.sup = false → Stops (.mts a n) s (.raise .priv Info.none))) ∧
  (∀ (s : State) (x : CtxId) (v : Word), ∀ n ∈ plainRegisters,
     (s.writeCtl x n v).readCtl x n = v ∧
     ∀ m ∈ plainRegisters, m ≠ n → (s.writeCtl x n v).readCtl x m = s.readCtl x m)

/-! ## Transfers and poison -/

/-- R112 and R113: a branch tests the signed value of its register, and its target is its bundle's address plus the displacement;
the outcome goes to the trace, and a transfer of four bundles, its own and three delay bundles, is pending. R55 and R115: a
transfer counts its own bundle and three delay bundles; after the third, fetch continues at the target if it is taken and at
the next bundle if it is not, and until then it runs on through the bundles that follow. R112 and R114: `jmp` goes where its
register says, `call` to its displacement and `callr` to its register; a call's link is on its way to `s63`. R22 and R23: after a
bundle comes the byte that follows it in its line, and offset 0 of the next line where that byte is a filler or the line ends. R114:
the link is the address after the third delay bundle so reached. The model's own readings in it: log 82, 83. -/
def Obligations.Transfers : Prop :=
  (∀ (a : Fin 64) (i : BitVec 16) (s : State),
     let v := (s.readS a).val.toInt
     let goes (j : Instr) (taken : Bool) : Prop := Ready j s →
       ∃ target : Word, (target.toNat : Int) = ((s.cur.addr.toNat : Int) + i.toInt) % 2 ^ 56 ∧
         exec j s = .next ((s.traceOutcome s.cur.ctx taken).setTransfer taken target)
     goes (.brZ a i) (decide (v = 0)) ∧ goes (.brNz a i) (decide (v ≠ 0)) ∧ goes (.brNeg a i) (decide (v < 0)) ∧
     goes (.brNneg a i) (decide (v ≥ 0)) ∧ goes (.brPos a i) (decide (v > 0)) ∧ goes (.brNpos a i) (decide (v ≤ 0)) ∧
     goes (.br i) true) ∧
  (∀ (c : Ctx) (t : Transfer) (n0 n1 n2 n3 : BitVec 56), c.transfer = some t → t.due = 4 →
     let c3 := ((c.pass n0).pass n1).pass n2
     c3.pc = n2 ∧ c3.transfer = some { t with due := 1 } ∧
     (c3.pass n3).transfer = none ∧ (c3.pass n3).regs = c.regs ∧
     (c3.pass n3).pc = (if t.taken then BitVec.ofNat 56 t.target.toNat else n3) ∧
     (c3.pass n3).checked = !t.taken) ∧
  (∀ (a : Fin 64) (i : BitVec 20) (s : State),
     let link : Word := (s.linkAddr s.cur.ctx s.cur.addr).setWidth 64
     (Ready (.jmp a) s → exec (.jmp a) s = .next (s.setTransfer true (s.readS a).val)) ∧
     (Ready (.call i) s → ∃ target : Word, (target.toNat : Int) = ((s.cur.addr.toNat : Int) + i.toInt) % 2 ^ 56 ∧
       exec (.call i) s = .next ((s.pushS 1 63 link .clean).setTransfer true target)) ∧
     (Ready (.callr a) s → exec (.callr a) s = .next ((s.pushS 1 63 link .clean).setTransfer true (s.readS a).val))) ∧
  (∀ (x : CtxId) (a : BitVec 56) (s : State),
     let head (d : BitVec 56) : Byte := (s.lineAt x d).getD (d.toNat % 64) 0
     let after (d : BitVec 56) : Nat := d.toNat % 64 + 1 + 4 * (List.range 8).countP fun i => (head d).getLsbD i
     let n := s.nextAddr x
     (head a ≠ 0 → after a ≤ 64 → (n a).toNat =
       (if after a = 64 ∨ (s.lineAt x a).getD (after a) 0 = 0 then (a.toNat / 64 + 1) * 64 else a.toNat / 64 * 64 + after a) % 2 ^ 56) ∧
     ((∀ d ∈ [n a, n (n a), n (n (n a))], head d ≠ 0) → s.linkAddr x a = n (n (n (n a)))))

/-- R117: `chk` of a register that is not deferred, late or lost or not, has no effect but its outcome in the trace; of a deferred
one it redirects to its displacement, and of a late one it traps in place. R84 and R85: what a poisoned operand does in each
use, in an instruction that reads one scalar register strictly: lost raises CONTAIN, deferred POISONUSE, and late traps in
place, before any effect. The model's own readings in it: log 82. -/
def Obligations.PoisonOutcomes : Prop :=
  (∀ (a : Fin 64) (i : BitVec 16) (s : State),
     ((s.readS a).tag = .clean ∨ (s.readS a).tag = .lost → Fits (.chk a i) s →
       exec (.chk a i) s = .next (s.traceOutcome s.cur.ctx false)) ∧
     ((s.readS a).tag = .deferred → ∃ target : BitVec 56,
       (target.toNat : Int) = ((s.cur.addr.toNat : Int) + i.toInt) % 2 ^ 56 ∧ Stops (.chk a i) s (.redirect target)) ∧
     ((s.readS a).tag = .late → s.bank? = none → Stops (.chk a i) s (.late 0 0 a))) ∧
  (∀ (a : Fin 64) (s : State),
     (∀ i ∈ [Instr.jmp a, .callr a, .sig a, .clrf a, .clrfErr a, .xtblKey a],
       ((s.readS a).tag = .lost → Stops i s (.raise .contain Info.none)) ∧
       ((s.readS a).tag = .deferred → Stops i s (.raise .poisonuse Info.none)) ∧
       ((s.readS a).tag = .late → s.bank? = none → Stops i s (.late 0 0 a)) ∧
       ((s.readS a).tag = .late → s.bank? ≠ none → Stops i s (.raise .late Info.none))))

/-! ## Memory -/

/-- R231 with R226: a load that reaches its place answers with its value on its way to `d`: memory's bytes, sign-extended or zero-
extended, clean where no sector read is lost; no context's registers or work have moved, and where the line is here nothing a
program reads has. R116: a speculative load whose base is deferred, or whose address a plain load would
fault on, answers with 0 and a deferred tag on their way to `d`; one that reaches its place loads as a plain load does; one
that no TLB translates waits for its walk. The model's own readings in it: log 25, 103. -/
def Obligations.Loads : Prop :=
  (∀ (d b : Fin 64) (c : Fin 16) (o : BitVec 10) (s : State) (l : Loc), ∀ p ∈
     [(Instr.ldI8 d b c o, 1, true), (.ldN8 d b c o, 1, false), (.ldI16 d b c o, 2, true), (.ldN16 d b c o, 2, false),
       (.ldI32 d b c o, 4, true), (.ldN32 d b c o, 4, false), (.ldI64 d b c o, 8, true)],
     Ready p.1 s → Reaches s .read (smAddr (s.readS b).val o p.2.1) p.2.1 l →
     ∃ (t : State) (v : Word) (g : Tag), exec p.1 s = .next (t.landLoad l d v g) ∧ SameRun s t ∧ (Held s l p.2.1 → Unmoved s t) ∧
       ((isWindow l.pa.toNat && windowSpace l.pa.toNat == 5) = false → PlainRead s .l c l p.2.1 →
         g = .clean ∧ (p.2.2 = false → v.toNat = valueAt s l p.2.1) ∧
         (p.2.2 = true → v.toInt = (valueAt s l p.2.1 : Int).bmod (2 ^ (8 * p.2.1))))) ∧
  (∀ (d b : Fin 64) (c : Fin 16) (o : BitVec 10) (s : State) (l : Loc), ∀ p ∈
     [(Instr.ldSN32 d b c o, 4), (.ldSI64 d b c o, 8)], Ready p.1 s →
     let addr := smAddr (s.readS b).val o p.2
     ((s.readS b).tag = .deferred → exec p.1 s = .next (s.pushS (s.deferLatency addr p.2) d 0 .deferred)) ∧
     ((s.readS b).tag = .clean → s.cx.walk = none →
       (2 ^ 56 ≤ addr.toNat ∨ addr.toNat % p.2 ≠ 0 ∨ ∃ e i, s.locate .read (field addr 0 56) p.2 = .error (.raise e i)) →
       ∃ t n, exec p.1 s = .next (t.pushS n d 0 .deferred) ∧ Unmoved s t) ∧
     ((s.readS b).tag = .clean → addr.toNat < 2 ^ 56 → addr.toNat % p.2 = 0 → isAlias (field addr 0 56) = false →
       s.lookup s.cur.core s.cx.reg.ptroot (field addr 0 56) = none → s.cx.walk = none →
       Stops p.1 s (.walk (field addr 0 56) (some p.2))) ∧
     ((s.readS b).tag = .clean → Reaches s .read addr p.2 l → (isWindow l.pa.toNat && windowSpace l.pa.toNat == 5) = false →
       exec p.1 s = .next (s.loadFrom (field addr 0 56) c l p.2 false d)))

/-- R231: a store that reaches its place is withheld with its bytes, lowest address first, its class, its scope and its lost tag;
memory and every register stand until it performs. -/
def Obligations.Stores : Prop :=
  ∀ (d b : Fin 64) (c : Fin 16) (o : BitVec 10) (s : State) (l : Loc), ∀ p ∈
    [(Instr.st8 d b c o, 1), (.st16 d b c o, 2), (.st32 d b c o, 4), (.st64 d b c o, 8)],
    let addr := smAddr (s.readS b).val o p.2
    Ready p.1 s → Reaches s .write addr p.2 l →
    ∃ (t : State) (w : StoreOp), exec p.1 s = .next t ∧ t.mem = s.mem ∧ t.lost = s.lost ∧ t.counters = s.counters ∧
      t.cx.withheld = s.cx.withheld ++ [w] ∧ (∀ x, (t.ctx x).regs = (s.ctx x).regs ∧ (t.ctx x).flags = (s.ctx x).flags) ∧
      w.kind = .plain ∧ w.cls = c ∧ w.scope = s.cur.scope ∧ w.path = .l ∧ w.parked = none ∧
      w.lanes = [{ va := field addr 0 56, loc := l, bytes := bytesOf p.2 (s.readS d).val.toNat,
                   lost := decide ((s.readS d).tag = .lost) }]

/-- R231: an S load or store whose address is not a multiple of its size raises ALIGN with that address, one of more than 56 bits
raises XLATE, and one that translates to a place that refuses the access raises PROT. R352: one that no TLB translates is held for a
walk, and one whose walk has failed raises what the walk met; R351: a translation whose leaf does not allow the access raises
what it says. The model's own readings in it: log 57, 103. -/
def Obligations.AccessFaults : Prop :=
  ∀ (d b : Fin 64) (c : Fin 16) (o : BitVec 10) (s : State), ∀ p ∈
    [(Instr.ldI8 d b c o, 1, Acc.read), (.ldN8 d b c o, 1, .read), (.st8 d b c o, 1, .write), (.ldI16 d b c o, 2, .read), (.ldN16 d b c o, 2, .read), (.ldI32 d b c o, 4, .read), (.ldN32 d b c o, 4, .read),
      (.ldI64 d b c o, 8, .read), (.st16 d b c o, 2, .write), (.st32 d b c o, 4, .write), (.st64 d b c o, 8, .write)],
    let addr := smAddr (s.readS b).val o p.2.1
    let va : BitVec 56 := field addr 0 56
    Ready p.1 s →
    (2 ^ 56 ≤ addr.toNat → Stops p.1 s (.raise .xlate { Info.none with addr := va })) ∧
    (addr.toNat < 2 ^ 56 → addr.toNat % p.2.1 ≠ 0 → Stops p.1 s (.raise .align { Info.none with addr := va })) ∧
    (addr.toNat < 2 ^ 56 → addr.toNat % p.2.1 = 0 → ∀ l, s.xlate s.cur.ctx s.cx.reg.ptroot s.supervisor p.2.2 va = .ok l →
      (p.2.2 = .read → s.refuses s.cur.core va l p.2.1 .read .scalar s.supervisor = true) →
      (p.2.2 = .write → s.refusesHere s.cur.core va l p.2.1 .write .scalar s.supervisor = true) →
      Stops p.1 s (.raise .prot { Info.none with addr := va, looked := [va] })) ∧
    (addr.toNat < 2 ^ 56 → addr.toNat % p.2.1 = 0 → s.mustWalk s.cur.ctx s.cx.reg.ptroot va none = true → Stops p.1 s (.walk va none)) ∧
    (addr.toNat < 2 ^ 56 → addr.toNat % p.2.1 = 0 → s.mustWalk s.cur.ctx s.cx.reg.ptroot va none = false →
      (∀ e, s.walkFailed s.cur.ctx s.cx.reg.ptroot va none = some e →
        Stops p.1 s (.raise e.cause { Info.none with addr := va, sub := e.sub })) ∧
      (s.walkFailed s.cur.ctx s.cx.reg.ptroot va none = none →
        ∀ e, s.translate s.cur.core s.cx.reg.ptroot s.supervisor p.2.2 va = .error e →
          Stops p.1 s (.raise e.cause { Info.none with addr := va, sub := e.sub, looked := [va] })))

/-- R232 and R233: an atomic whose place answers reads the old value into `d` and writes the new one at once; every byte outside
its location reads as before. R232 with R129: the new value of each atomic operation, over the width's patterns; the floating
extremes are the number where one operand is a NaN, and −0 is below +0. The model's own readings in it: log 5, 97. -/
def Obligations.Atomics : Prop :=
  (∀ (d a b : Fin 64) (p : BitVec 4) (c : Fin 16) (s : State) (l : Loc), ∀ q ∈ [(Instr.amo32 d a b p c, 4), (.amo64 d a b p c, 8)],
     let va : BitVec 56 := field (s.readS a).val 0 56
     let k := s.keyOf l
     let old := ofBytes (s.bytesAt k q.2)
     let new := amoValue p.toNat q.2 old ((s.readS b).val.toNat % 2 ^ (8 * q.2)) ((s.readS d).val.toNat % 2 ^ (8 * q.2))
     Ready q.1 s → Reaches s .atomic (s.readS a).val q.2 l → l.ver = none → s.cx.refusal = none → s.homeRefuses l q.2 = false →
     s.homeDead l.home = false → (∀ u, s.cx.task = some u → u.det = 0) → s.amoWaits va l q.2 c = false → Held s l q.2 →
     s.lineEntry (k / 128) = none → (c = 15 → s.releaseWaits s.cur.ctx s.cur.scope = false) → s.lostAt k = false → (s.readS b).tag = .clean →
     (p = 11 → (s.readS d).tag = .clean) →
     Memory.wf s.mem = true →
     ∃ (t : State), exec q.1 s = .next (t.landLoad l d (BitVec.ofNat 64 old) .clean) ∧
       (∀ i < q.2, t.byteAt (k + i) = BitVec.ofNat 8 (new / 256 ^ i)) ∧
       (∀ j, (j < k ∨ k + q.2 ≤ j) → t.byteAt j = s.byteAt j) ∧
       ∀ x, (t.ctx x).regs = (s.ctx x).regs ∧ (t.ctx x).flags = (s.ctx x).flags) ∧
  (∀ (n : Nat) (old x cmp : Nat), n = 4 ∨ n = 8 → old < 2 ^ (8 * n) → x < 2 ^ (8 * n) → cmp < 2 ^ (8 * n) →
     let si (v : Nat) : Int := (v : Int).bmod (2 ^ (8 * n))
     amoValue 0 n old x cmp = (old + x) % 2 ^ (8 * n) ∧ amoValue 1 n old x cmp = old &&& x ∧ amoValue 2 n old x cmp = old ||| x ∧
     amoValue 3 n old x cmp = old ^^^ x ∧ amoValue 4 n old x cmp = x ∧
     si (amoValue 5 n old x cmp) = min (si old) (si x) ∧ si (amoValue 6 n old x cmp) = max (si old) (si x) ∧
     amoValue 7 n old x cmp = min old x ∧ amoValue 8 n old x cmp = max old x ∧
     (let f := amoFmt n
      let u := f.decode old
      let v := f.decode x
      let pick (less : Bool) : Nat := if u.isNan && v.isNan then f.nan else if u.isNan then x else if v.isNan then old
        else if less then x else old
      amoValue 9 n old x cmp = pick (ltVal true v u) ∧ amoValue 10 n old x cmp = pick (ltVal true u v)) ∧
     amoValue 11 n old x cmp = (if old = cmp then x else old))

/-- R380 and R381: a remote load that reaches a place outside the on-chip window answers with its result entered at its declared
latency, as one that never freezes the context; no context's registers move, and where the line is here
memory stands. R230: a load block whose lines are all reachable, cacheable
places makes a block of those lines that will complete its flag; memory and registers stand. The model's own readings in it: log 24. -/
def Obligations.RemoteLoadsAndBlocks : Prop :=
  (∀ (d a : Fin 64) (n : BitVec 14) (s : State) (l : Loc),
     let va : BitVec 56 := field (s.readS a).val 0 56
     Ready (.rld d a n) s → (s.readS a).val.toNat < 2 ^ 56 → (s.readS a).val.toNat % 8 = 0 → s.locate .read va 8 = .ok l →
     (isWindow l.pa.toNat = true → Stops (.rld d a n) s (.raise .prot { Info.none with addr := va, looked := [va] })) ∧
     (isWindow l.pa.toNat = false → ∃ t : State, SameRun s t ∧ (Held s l 8 → Unmoved s t) ∧ (d = 0 → exec (.rld d a n) s = .next t) ∧
       (d ≠ 0 → ∃ e : InFlight, exec (.rld d a n) s = .next (t.enter e) ∧ e.left = n.toNat ∧ e.rld = true ∧
         ∃ v g, e.landing = .s d { val := v, tag := g }))) ∧
  (∀ (f : Fin 32) (a b : Fin 64) (r : BitVec 2) (c : Fin 16) (s : State) (ls : List Loc),
     let addr := (s.readS a).val
     Ready (.ldBlk f a b r c) s → addr.toNat < 2 ^ 56 → addr.toNat % 128 = 0 → s.blockLines (field addr 0 56) (b.val + 1) = .ok ls →
     ∃ t : State, exec (.ldBlk f a b r c) s = .next t ∧ t.mem = s.mem ∧ t.counters = s.counters ∧
       (∀ x, (t.ctx x).regs = (s.ctx x).regs ∧ (t.ctx x).flags = (s.ctx x).flags) ∧
       ∃ k ∈ t.kr.blocks, k.lines = (ls.map fun l => s.keyOf l / 128) ∧ k.due.map (fun d => (d.flag, d.err)) = some (f, none))

/-! ## Order, flags, rings, counters -/

/-- R257 and R258: a fence completes where the context's own accesses in question have performed: memory, every register and all
work stand, and only who sees which write changes, and which writes the context's later loads come after. `fence.c` asks for
the path-L stores of its classes, the replay queue if it names class 15, the commands of its classes, and at domain scope or
wider the acknowledgments due for the context's writes of its classes (R383); a mask of 0 asks for nothing. `fence.p` asks for
the path-L stores and the replay queue if it names L, for the path-X stores if it names X, and for the same acknowledgments.
After `fence.c` each complete write of the context of its classes, on a path but A and X, has performed at its scope; after
`fence.p` the context's complete writes of each of its paths are visible to its reads of the other. A fence that what it asks for
keeps waiting is held, with nothing changed. The model's own readings in it: log 11, 51, 63. -/
def Obligations.Fences : Prop :=
  ∀ (m : BitVec 16) (p q : BitVec 3) (s : State),
    let me := s.cx.serial
    let pq : List Path := [pathOf p.toNat, pathOf q.toNat]
    let kept (v u : View) : Prop := u.key = v.key ∧ u.old = v.old ∧ u.n = v.n ∧ u.owner = v.owner ∧ u.path = v.path ∧ v.scope ≤ u.scope ∧
      ∀ o ∈ v.seen, o ∈ u.seen
    let completes (i : Instr) (loads : Option (BitVec 16)) (sees : View → View → Prop) : Prop := ∃ vs : List View,
      exec i s = .next (match loads with
        | some l => ({ s with views := vs } : State).orderLoads s.cur.ctx l
        | none => { s with views := vs }) ∧
      vs.length = s.views.length ∧ ∀ (k : Nat) (v u : View), s.views[k]? = some v → vs[k]? = some u → kept v u ∧ (v.owner.serial = me → v.done = true → sees v u)
    let far (v u : View) : Prop := v.path ∈ [some .l, some .c, some .n, some .k] → m.getLsbD v.cls.val = true → s.cur.scope ≤ u.scope
    let both (v u : View) : Prop :=
      (v.path = some (pathOf p.toNat) → (me, pathOf q.toNat) ∈ u.seen) ∧ (v.path = some (pathOf q.toNat) → (me, pathOf p.toNat) ∈ u.seen) ∧
      (∀ r ∈ pq, r = .l ∨ r = .x → v.path = some r → s.cur.scope ≤ u.scope)
    let stores (f : StoreOp → Prop) : Prop := ∃ o ∈ s.cx.released, f o
    let parks : Prop := s.cx.parked ≠ []
    let cWaits : Prop := stores (fun o => o.path = .l ∧ m.getLsbD o.cls.val = true) ∨ (m.getLsbD 15 = true ∧ parks) ∨
      s.commandsOpen me m = true ∨ (4 ≤ s.cur.scope.val ∧ AcksDue s [.l, .c, .n, .k] m)
    let pWaits : Prop := (Path.l ∈ pq ∧ (stores (fun o => o.path = .l) ∨ parks)) ∨ (Path.x ∈ pq ∧ stores fun o => o.path = .x) ∨
      (4 ≤ s.cur.scope.val ∧ AcksDue s (pq.filter fun r => r == .l || r == .x) (BitVec.allOnes 16))
    (Ready (.fenceC m) s → ¬cWaits → completes (.fenceC m) (some m) far) ∧
    (Ready (.fenceC m) s → cWaits → Stops (.fenceC m) s .hold) ∧
    (Ready (.fenceC 0) s → completes (.fenceC 0) (some 0) fun _ _ => True) ∧
    (Ready (.fenceP p q) s → ¬pWaits → Path.l ∈ pq → completes (.fenceP p q) (some (BitVec.allOnes 16)) both) ∧
    (Ready (.fenceP p q) s → ¬pWaits → Path.l ∉ pq → completes (.fenceP p q) none both) ∧
    (Ready (.fenceP p q) s → pWaits → Stops (.fenceP p q) s .hold)

/-- R272: `sig`, `clrf` and `clrf.err` put their change of the flags named by the register's low 32 bits one boundary ahead. R272
with R267: what lands of them, for flags that no ring level drives: `sig` sets the named set bits and no error bit; `clrf`
clears both bits of each named flag, `clrf.err` the error bits alone. -/
def Obligations.FlagInstructions : Prop :=
  (∀ (a : Fin 64) (s : State),
     let m : BitVec 32 := (s.readS a).val.setWidth 32
     (Ready (.sig a) s → exec (.sig a) s = .next (s.push 1 (.sig m))) ∧
     (Ready (.clrf a) s → exec (.clrf a) s = .next (s.push 1 (.clr m))) ∧
     (Ready (.clrfErr a) s → exec (.clrfErr a) s = .next (s.push 1 (.clrErr m)))) ∧
  (∀ (c : Ctx) (m : BitVec 32), c.levels = [] →
     (c.sigFlags m).flags.set = c.flags.set ||| m ∧ (c.sigFlags m).flags.err = c.flags.err ∧ (c.sigFlags m).regs = c.regs ∧
     (c.clrFlags m).flags.set = c.flags.set &&& ~~~m ∧ (c.clrFlags m).flags.err = c.flags.err &&& ~~~m ∧
     (c.clrFlags m).regs = c.regs ∧
     (c.clrErrors m).flags.set = c.flags.set ∧ (c.clrErrors m).flags.err = c.flags.err &&& ~~~m ∧
     (c.clrErrors m).regs = c.regs ∧ (c.clrErrors m).wn = c.wn ∧
     ∀ f : Fin 32, (c.clrErrors m).flags.cause.get f = if m.getLsbD f.val then 0 else c.flags.cause.get f)

/-- R284 and R285: on a valid handle, `adv.p` moves the producer by n where n slots are free and `adv.c` the consumer where n are
filled, modulo the ring's slots and with the wrap bit turned over at its end; otherwise, and on an invalid handle, PROT. R283 and R286: on a valid handle
and with k not above its slots, `rfill` and `rfree` put a binding of the flag to a level of k one boundary ahead, or for k = 0
its removal; otherwise PROT. -/
def Obligations.Rings : Prop :=
  (∀ (h : Fin 16) (b : Fin 64) (s : State),
     let hg := s.cx.regs.hg.get h
     let hs := s.cx.regs.hs.get h
     let n : Nat := (s.readS b).val.toNat % 2 ^ 13
     let slots := hgSlots hg
     hgValid hg = true → hsP hs < slots → hsC hs < slots → 0 ≤ ringFilled hg hs → ringFilled hg hs ≤ slots →
     (Ready (.advP h b) s → n ≤ ringFree hg hs → ∃ v : Word, exec (.advP h b) s = .next (s.push 1 (.ring h v)) ∧
       hsP v = (hsP hs + n) % slots ∧ (flag v 12 = (flag hs 12 != decide (slots ≤ hsP hs + n))) ∧ hsC v = hsC hs ∧
       flag v 25 = flag hs 25) ∧
     (Ready (.advC h b) s → n ≤ ringFilled hg hs → ∃ v : Word, exec (.advC h b) s = .next (s.push 1 (.ring h v)) ∧
       hsC v = (hsC hs + n) % slots ∧ (flag v 25 = (flag hs 25 != decide (slots ≤ hsC hs + n))) ∧ hsP v = hsP hs ∧
       flag v 12 = flag hs 12) ∧
     (Ready (.advP h b) s → ringFree hg hs < n → Stops (.advP h b) s (.raise .prot Info.none)) ∧
     (Ready (.advC h b) s → ringFilled hg hs < n → Stops (.advC h b) s (.raise .prot Info.none))) ∧
  (∀ (h : Fin 16) (b : Fin 64) (s : State), hgValid (s.cx.regs.hg.get h) = false →
     (Ready (.advP h b) s → Stops (.advP h b) s (.raise .prot Info.none)) ∧
     (Ready (.advC h b) s → Stops (.advC h b) s (.raise .prot Info.none))) ∧
  (∀ (f : Fin 32) (h : Fin 16) (b : Fin 64) (s : State),
     let hg := s.cx.regs.hg.get h
     let k := (s.readS b).val.toNat % 2 ^ 13
     (hgValid hg = true → k ≤ hgSlots hg →
       (Ready (.rfill f h b) s → ∃ v : Word, exec (.rfill f h b) s = .next (s.push 1 (.bind h v (if k = 0 then none else some f))) ∧
         (flag v 63 = decide (k ≠ 0)) ∧ (k ≠ 0 → bits v 58 5 = f.val ∧ bits v 46 12 + 1 = k)) ∧
       (Ready (.rfree f h b) s → ∃ v : Word, exec (.rfree f h b) s = .next (s.push 1 (.bind h v (if k = 0 then none else some f))) ∧
         (flag v 45 = decide (k ≠ 0)) ∧ (k ≠ 0 → bits v 40 5 = f.val ∧ bits v 28 12 + 1 = k))) ∧
     ((hgValid hg = false ∨ hgSlots hg < k) →
       (Ready (.rfill f h b) s → Stops (.rfill f h b) s (.raise .prot Info.none)) ∧
       (Ready (.rfree f h b) s → Stops (.rfree f h b) s (.raise .prot Info.none))))

/-- R278 to R282: a sequence counter is named through the slot's window. `seqadd` is withheld, `seqrd` puts this package's value
on its way to `d`, `seqwatch` takes the flag's watch entry, or the lowest free one, one boundary ahead, and `seqwatch.tag`
adds the task's tag to the threshold; a name outside the window raises PROT, a negative addend SEQBACK, and a binding with no
free entry ENGINE. R280: `seqrd` is an acquire, and reads lost from a dead package. R396: what asks another domain waits for its
port. R279: an add to a counter saturates at 2^64 − 1, reads back, and leaves every other counter. The model's own readings in it: log 5, 43. -/
def Obligations.Counters : Prop :=
  (∀ (f : Fin 32) (d a b : Fin 64) (s : State),
     let name := (s.readS a).val
     let v := (s.readS b).val
     (∀ n, counterOf s.cx.reg.seqwin name = .ok n →
       (Ready (.seqadd a b) s → v.toNat < 2 ^ 63 → exec (.seqadd a b) s =
         .next (s.withhold (.counter (nameFar name) (nameDom name) (namePkg name) n v) [] 0 .l)) ∧
       (Ready (.seqadd a b) s → 2 ^ 63 ≤ v.toNat → Stops (.seqadd a b) s (.raise .seqback Info.none)) ∧
       (Ready (.seqrd d a) s → nameFar name = false → (∀ u, s.cx.task = some u → u.det = 0) →
         exec (.seqrd d a) s = .next ((s.orderLoads s.cur.ctx (BitVec.allOnes 16)).pushLoad 8 d (s.counter n) .clean
           (s.fabric.dom, s.fabric.coord))) ∧
       (Ready (.seqrd d a) s → s.askCounter s.cur.ctx name (.read n) = none → Stops (.seqrd d a) s .hold) ∧
       (Ready (.seqrd d a) s → (∀ u, s.cx.task = some u → u.det = 0) → s.askCounter s.cur.ctx name (.read n) ≠ none →
         ∃ (t : State) (w : Word), exec (.seqrd d a) s = .next ((t.orderLoads s.cur.ctx (BitVec.allOnes 16)).pushLoad 8 d w
           (lostTag (s.nameDead name)) (s.namePeer name)) ∧ SameRun s t ∧ t.mem = s.mem ∧ t.counters = s.counters) ∧
       (∀ j, s.cx.watchEntry f = some j →
         (Ready (.seqwatch f a b) s → (s.askCounter s.cur.ctx name (.watch n v) = none → Stops (.seqwatch f a b) s .hold) ∧
           ∀ t, s.askCounter s.cur.ctx name (.watch n v) = some t → SameRun s t ∧ (nameFar name = false → t = s) ∧
             exec (.seqwatch f a b) s = .next (t.push 1 (.watch j (watchWord f name n) v))) ∧
         (Ready (.seqwatchTag f a b) s → ∃ thr : Word, thr.toNat = min (v.toNat + s.cx.tag.toNat) (2 ^ 64 - 1) ∧
           (s.askCounter s.cur.ctx name (.watch n thr) = none → Stops (.seqwatchTag f a b) s .hold) ∧
           ∀ t, s.askCounter s.cur.ctx name (.watch n thr) = some t → SameRun s t ∧ (nameFar name = false → t = s) ∧
             exec (.seqwatchTag f a b) s = .next (t.push 1 (.watch j (watchWord f name n) thr)))) ∧
       (s.cx.watchEntry f = none → Ready (.seqwatch f a b) s → Stops (.seqwatch f a b) s (.raise .engine Info.none))) ∧
     (counterOf s.cx.reg.seqwin name = .error .prot →
       (Ready (.seqadd a b) s → Stops (.seqadd a b) s (.raise .prot Info.none)) ∧
       (Ready (.seqrd d a) s → Stops (.seqrd d a) s (.raise .prot Info.none)) ∧
       (Ready (.seqwatch f a b) s → Stops (.seqwatch f a b) s (.raise .prot Info.none)))) ∧
  (∀ (s : State) (n : Fin 4096) (v : Word), (s.counters.Pairwise fun p q => p.1 < q.1) →
     ((s.addCounter n v).counter n).toNat = min ((s.counter n).toNat + v.toNat) (2 ^ 64 - 1) ∧
     ((s.addCounter n v).counters.Pairwise fun p q => p.1 < q.1) ∧
     ∀ m, m ≠ n → (s.addCounter n v).counter m = s.counter m)

/-- R149, R153 to R157: `qseed` puts the seed of a dimension one boundary ahead; `qpt` puts a point six boundaries ahead, which
for a dimension without a seed is, bit by bit, the parity of the direction numbers that the Gray code of the index selects;
`qldt` and `qsave` move the records of a run of dimensions between memory and their entries. -/
def Obligations.SequenceUnit : Prop :=
  ∀ (d a b : Fin 64) (c : Fin 16) (s : State),
    let x := (s.readS a).val
    let y := (s.readS b).val
    (Ready (.qseed a b) s → ∃ n : Fin 64, n.val = x.toNat % 64 ∧ exec (.qseed a b) s = .next (s.push 1 (.seed n y))) ∧
    (Ready (.qpt d a b) s → WritesS (.qpt d a b) s 6 d (maxTag (s.readS a).tag (s.readS b).tag) fun v =>
      let r := s.cx.regs.dim (y.toNat % 64)
      let i : BitVec 32 := x.setWidth 32
      recordSeed r = 0 → y.getLsbD 6 = false →
        ∀ j < 64, v.getLsbD j = decide (((List.range 32).countP fun k => (i ^^^ (i >>> 1)).getLsbD k && (direction r k).getLsbD j) % 2 = 1)) ∧
    (∀ ps, s.reachSpan .read x (136 * runCount y) = .ok ps → (s.readPieces c ps).1.lost = false → Ready (.qldt c a b) s →
      exec (.qldt c a b) s = .next ((s.readPieces c ps).2.pushDims (runFirst y) (s.readPieces c ps).1.bytes (runCount y))) ∧
    (∀ ps, s.reachSpan .read x (136 * runCount y) = .ok ps → (s.readPieces c ps).1.lost = true → Ready (.qldt c a b) s →
      Stops (.qldt c a b) s (.raise .contain { Info.none with addr := field x 0 56, looked := ps.map (·.va) })) ∧
    (∀ ps, s.reachSpan .write x (136 * runCount y) = .ok ps → Ready (.qsave c a b) s →
      ∃ (t : State) (w : StoreOp), exec (.qsave c a b) s = .next t ∧ t.mem = s.mem ∧ t.cx.regs = s.cx.regs ∧
        t.cx.withheld = s.cx.withheld ++ [w] ∧ w.cls = c ∧ w.kind = .span ∧
        w.lanes = spanLanes ps ((List.range (runCount y)).flatMap fun i => bytesOf 136 (s.cx.regs.dim ((runFirst y + i) % 64)).toNat) false)

/-! ## Tasks, gates, faults -/

/-- R301 and R302: a launch of a readable graph that the privilege allows, from a team with fewer than 16 instances and with every
released store performed, at domain scope as well (R383, R407), adds one instance of its nodes with the control word's tag and tokens; an entry for a queue with
room joins the queue of the team's meridian. The model's own readings in it: log 31. -/
def Obligations.Launches : Prop :=
  ∀ (d a b : Fin 64) (s : State),
    let addr := (s.readS a).val
    let w := (s.readS b).val
    let m := teamStage s.cx.reg.team
    (Ready (.launch d a b) s → addr.toNat < 2 ^ 56 → addr.toNat % 64 = 0 → s.cx.released = [] → s.releaseWaits s.cur.ctx 4 = false →
      s.teamInFlight s.cx.reg.team < 16 → ∀ g, s.readGraph s.cur.ctx s.cx.sup .bundle (field addr 0 56) s.cx.regs.stencil s.cx.reg.seqwin = .ok g →
      (g.sup = true → s.cx.sup = true) → g.valid = true →
      ∃ (t : State) (i : Inst), exec (.launch d a b) s = .next t ∧ t.insts = s.insts ++ [i] ∧ i.nodes = g.nodes ∧
        i.team = s.cx.reg.team ∧ i.tag = w.setWidth 32 ∧ i.tokens = w.toNat / 2 ^ 40 % 16 ∧ i.arg = (s.readS d).val ∧
        i.retired = [] ∧ i.started = [] ∧ t.mem = s.mem ∧ t.cx.regs = s.cx.regs) ∧
    (Ready (.launch d a b) s → addr.toNat < 2 ^ 56 → addr.toNat % 64 ≠ 0 →
      Stops (.launch d a b) s (.raise .align { Info.none with addr := field addr 0 56 })) ∧
    ∀ p ∈ [(Instr.launchQF d b, (0 : Fin 3)), (.launchQB d b, 1), (.launchQW d b, 2)], Ready p.1 s →
      ((s.meridian.get m).room p.2 = true → s.cx.released = [] → s.releaseWaits s.cur.ctx 4 = false → ∃ t : State, exec p.1 s = .next t ∧
        (t.meridian.get m).queue.get p.2 = ((s.meridian.get m).settleW.queue.get p.2) ++ [(w.setWidth 32, (s.readS d).val)] ∧
        (∀ k, k ≠ m → t.meridian.get k = s.meridian.get k) ∧ t.mem = s.mem ∧ t.cx.regs = s.cx.regs) ∧
      ((s.meridian.get m).room p.2 = false → Stops p.1 s (.raise .engine Info.none))

/-- R218 and R221: `carve` of a team of one context whose core is quiet puts its word in force and the old one on its way to `d`;
while a member is missing it is held at the barrier, and where the members' words differ all of them fault. R221: a `carve`
whose word breaks the rules of R218 raises CARVE before anything else of it happens. The model's own readings in it: log 31, 91. -/
def Obligations.CarveOuts : Prop :=
  (∀ (d a : Fin 64) (s : State), Ready (.carve d a) s →
     let w := (s.readS a).val
     let x := s.cur.ctx
     (∀ old, s.cx.carveOld = some old → ∃ t : State, exec (.carve d a) s = .next (t.pushS 1 d old .clean) ∧ t.mem = s.mem ∧
       t.cx.regs = s.cx.regs ∧ t.kr.carve = s.kr.carve) ∧
     (s.cx.carveOld = none → s.carveMembers x w = none → Stops (.carve d a) s (.barrier w false)) ∧
     (s.cx.carveOld = none → ∀ ms, s.carveMembers x w = some ms → (ms.any fun m => m.2 != w || !(s.carveFits m.1 m.2)) = true →
       Stops (.carve d a) s (.faults (ms.map fun m => (m.1, .carve, Info.none)))) ∧
     (s.cx.carveOld = none → s.carveMembers x w = some [(x, w)] → s.carveFits x w = true → s.coreSettled x = true →
       ∀ t, s.carveSpill [(x, w)] = .ok t → ∃ u : State, exec (.carve d a) s = .next (u.pushS 1 d (t.kr.carve.get x.slot) .clean) ∧
         u.kr.carve.get x.slot = w ∧ u.cx.regs = t.cx.regs)) ∧
  (∀ (d a : Fin 64) (s : State), Readable (.carve d a) s → carveBad (s.readS a).val = true →
     Stops (.carve d a) s (.raise .carve Info.none))

/-- R30, R51, R335 and R341: PAUSE sets the pause cycles that follow its bundle, its field and one, in a handler for the handler;
outside deterministic mode PHASE has no effect, and in it 4095 closes the open phase, and any other number opens a phase whose
entry is readable: its ranges are registered, and a range that meets another's, or a reserved field, raises PHASE; MARK changes nothing where the trace is
off and no armed shutter waits for it. R304: `retire` after containment ends the task once nothing of it is outstanding, and
otherwise leaves the context draining; a context for which a memory sector became lost faults with CONTAIN instead. The model's own readings in it: log 77. -/
def Obligations.GatesAndRetires : Prop :=
  (∀ (g : Gate) (n : BitVec 12) (s : State),
     (Ready (.pause g n) s → ∃ t : State, exec (.pause g n) s = .next t ∧ t.mem = s.mem ∧ t.counters = s.counters ∧
       (s.bank? = none → t.cx = { s.cx with pause := n.toNat + 1 }) ∧
       (∀ b, s.bank? = some b → t.bank? = some { b with pause := n.toNat + 1 } ∧ t.cx = s.cx)) ∧
     (Ready (.phase g n) s → s.cx.deterministic = false → exec (.phase g n) s = .next s) ∧
     (Ready (.phase g 4095) s → s.cx.deterministic = true → ∃ t : State, exec (.phase g 4095) s = .next t ∧ t.mem = s.mem ∧
       t.cx.regs = { s.cx.regs with phase := none }) ∧
     (∀ l, let at_ := s.cx.reg.phbase.toNat + 64 * n.toNat
       let va : BitVec 56 := BitVec.ofNat 56 at_
       Ready (.phase g n) s → s.cx.deterministic = true → n ≠ 4095 → at_ < 2 ^ 56 → s.locate .read va 64 = .ok l →
       let r := (s.passes va l 2).readAs (s.me s.cur.ctx) .l 0 l 64
       let rs := entryRanges (s.me s.cur.ctx) n r.1.bytes
       let here (p : Fin 28 × Registered) : Prop := p.1.val = s.cur.core.val / 64
       let clash : Prop := ∃ x ∈ rs, rangeOk x.range = false ∨ ∃ p ∈ r.2.prunePhases.phases, here p ∧ conflicts x p.2 = true
       (clash → Stops (.phase g n) s (.raise .phase { Info.none with detail := n.setWidth 14 })) ∧
       (¬clash → ∃ t : State, exec (.phase g n) s = .next t ∧ t.cx.regs = { s.cx.regs with phase := some n } ∧
         ∀ x ∈ rs, flag x.range 63 = true → ∃ p ∈ t.phases, here p ∧ p.2 = x)) ∧
     (Ready (.mark g n) s → s.cx.reg.trctl.getLsbD 63 = false → s.mgmt.shutter.armed = false → exec (.mark g n) s = .next s)) ∧
  (∀ (s : State),
     (Ready .retire s → ∃ t : State, exec .retire s = .next t ∧
       let u := s.commit s.cur.ctx true
       (u.runs s.cur.ctx = true → u.mayRetire s.cur.ctx = true → t = u.retireTask s.cur.ctx) ∧
       (u.runs s.cur.ctx = true → u.mayRetire s.cur.ctx = false → (t.ctx s.cur.ctx).status = .retiring ∧
         (t.ctx s.cur.ctx).regs = (u.ctx s.cur.ctx).regs)) ∧
     (Readable .retire s → s.cx.reg.lostw = true → Stops .retire s (.raise .contain Info.none)))

/-- R325 and R328: `trap` commits its bundle as a checkpoint and takes its record at the boundary after it: kind 1, the code of
TRAP, its number as the detail, the bundle's address as the source, and nothing rolled back; where the checkpoint's release waits
for room, the record waits for it. The model's own readings in it: log 17. -/
def Obligations.Traps : Prop :=
  ∀ (n : BitVec 14) (s : State), Ready (.trap n) s →
    let u := s.commit s.cur.ctx true
    (∀ ended, (u.ctx s.cur.ctx).releasing = some (.bundle ended) → exec (.trap n) s =
      .next (u.modCtx s.cur.ctx fun c => { c with releasing := some (.trap ended n s.cur.addr) })) ∧
    (u.runs s.cur.ctx = true → (u.ctx s.cur.ctx).releasing = none → (u.ctx s.cur.ctx).reg.trctl.getLsbD 63 = false →
    ∃ (t : State) (r : BitVec 512), exec (.trap n) s = .next t ∧ t.waiting = u.waiting ++ [{ record := r, ctx := some s.cur.ctx }] ∧
      bits r 56 8 = 0x13 ∧ bits r 54 2 = 1 ∧ bits r 0 14 = n.toNat ∧ bits r 64 56 = s.cur.addr.toNat ∧
      bits r 128 56 = (u.ctx s.cur.ctx).pc.toNat ∧ (t.ctx s.cur.ctx).status = .faulting ∧
      (t.ctx s.cur.ctx).regs = (u.ctx s.cur.ctx).regs ∧ t.mem = u.mem)

/-- R80, R321, R324 and R325: taking a fault, where no window write waits, puts the context back to its last checkpoint (registers, delay lines, pending
transfer and fetch address as kept, a vector register where it has a keep copy, what it withheld discarded) and lets it present
nothing more; a record that names the cause, the slot, the failing address, the faulting bundle and the resume address joins
those to be written; memory and every other context's registers stand. R326: resuming a halted context sets it running at its
record's resume address, and touches nothing else of it. The model's own readings in it: log 15, 16, 26. -/
def Obligations.FaultsAndResumes : Prop :=
  (∀ (s : State) (x : CtxId) (e : Cause) (slot : Nat) (i : Info), slot < 16 → (s.ctx x).reg.trctl.getLsbD 63 = false → (s.ctx x).winWrites = [] →
     let t := s.takeFault x e slot i
     let k := (s.ctx x).keep
     (t.ctx x).status = .faulting ∧ { (t.ctx x).regs with v := k.regs.v } = k.regs ∧
     (∀ n, (t.ctx x).regs.v.get n = if (s.core x.core).keptV x.slot n then k.regs.v.get n else (s.ctx x).regs.v.get n) ∧
     (t.ctx x).delay = k.delay ∧ (t.ctx x).transfer = k.transfer ∧
     (t.ctx x).pc = k.pc ∧ (t.ctx x).withheld = [] ∧ (t.ctx x).commands = [] ∧ (t.ctx x).wn = k.wn ∧ (t.ctx x).wt = k.wt ∧
     (t.ctx x).released = (s.ctx x).released ∧ t.mem = s.mem ∧ t.lost = s.lost ∧
     (∀ y, y ≠ x → t.ctx y = s.ctx y) ∧
     ∃ r : BitVec 512, t.waiting = s.waiting ++ [{ record := r, ctx := some x }] ∧
       bits r 56 8 = causeCode e ∧ bits r 54 2 = 0 ∧ bits r 50 4 = slot ∧ bits r 36 8 = i.sub.toNat ∧ bits r 0 14 = i.detail.toNat ∧
       bits r 64 56 = (i.src.getD s.cur.addr).toNat ∧ bits r 128 56 = k.pc.toNat ∧
       bits r 191 1 = (k.transfer.isSome || k.ended).toNat ∧ bits r 192 56 = i.addr.toNat ∧ bits r 256 64 = k.pos % 2 ^ 64) ∧
  (∀ (s : State) (x : CtxId) (r : BitVec 512), (s.ctx x).resume = some r → (s.ctx x).winWrites = [] →
     let t := s.resumeHalted x
     (t.ctx x).status = .running ∧ (t.ctx x).pc = field r 128 56 ∧ (t.ctx x).regs = (s.ctx x).regs ∧
     (t.ctx x).flags = (s.ctx x).flags ∧ (t.ctx x).transfer = (s.ctx x).transfer ∧ (t.ctx x).resume = none ∧ t.mem = s.mem ∧
     ∀ y, y ≠ x → t.ctx y = s.ctx y)

/-- R277 and R330: a handler's return, with nothing in flight and no supervisor's write waiting, gives the core back to the interrupted context at the bundle it stood at, with its registers
as they are and the handler's mark gone; outside its own kind of handler it raises BADOP. R81 and R275: a delivered interrupt
is the lowest-numbered pending one; its pending bit clears, the status names it, and a handler begins at the vector with
zeroed shadow registers and an empty delay line, on the context's core. -/
def Obligations.Handlers : Prop :=
  (∀ (s : State), ∀ p ∈ [(Instr.retu, false), (.retl, true)], Ready p.1 s →
     (∀ b, s.bank? = some b → b.late = p.2 → b.delay = [] → s.ctlWrites = [] → s.cx.reg.trctl.getLsbD 63 = false →
       ∃ t : State, exec p.1 s = .next t ∧ t.kr.bank = none ∧ t.cx.pc = s.cx.pc ∧ t.cx.regs = s.cx.regs ∧ t.cx.delay = s.cx.delay ∧
         t.cx.transfer = s.cx.transfer ∧ t.mem = s.mem ∧
         (p.2 = false → t.cx.reg.uistat.getLsbD 13 = false) ∧ (p.2 = true → t.cx.reg.lstat.getLsbD 63 = false)) ∧
     ((∀ b, s.bank? = some b → b.late ≠ p.2) → Stops p.1 s (.raise .badop Info.none))) ∧
  (∀ (s : State) (x : CtxId) (j : Fin 8), (s.ctx x).nextInterrupt = some j → (∀ u, (s.ctx x).task = some u → u.det = 0) →
     (s.ctx x).reg.trctl.getLsbD 63 = false →
     let t := s.deliverInterrupt x
     (∀ i < j, (s.ctx x).reg.uistat.getLsbD i.val = false) ∧
     bits (t.ctx x).reg.uistat j.val 1 = 0 ∧ bits (t.ctx x).reg.uistat 13 1 = 1 ∧ bits (t.ctx x).reg.uistat 8 5 = 24 + j.val ∧
     (t.ctx x).regs = (s.ctx x).regs ∧ (t.ctx x).pc = (s.ctx x).pc ∧ t.mem = s.mem ∧
     ∃ b, (t.core x.core).bank = some b ∧ b.slot = x.slot ∧ b.late = false ∧ b.pc = (s.ctx x).reg.uictl.setWidth 56 ∧
       b.delay = [] ∧ b.transfer = none ∧ ∀ r, b.shadow.get r = { val := 0, tag := .clean })

/-! ## Vector forms -/

/-- R125 and R126: the integer forms of two and three operands, element by element: sums, differences and products modulo the
width, saturating ones clamped with the sticky flag of a clamp, high halves, even products at twice the width, and the
extremes; the result has the larger of the operands' and the write mask's tags in each lane group. R126 and R129: the one-
operand forms: the absolute value and the negation modulo the width for integers; for floating types the sign bit cleared or
turned over, and the canonical NaN for a NaN. The model's own readings in it: log 45. -/
def Obligations.VectorIntegers : Prop :=
  (∀ (t : VFmt) (d a b : Fin 64) (k : Fin 4) (h : Bool) (s : State), t.integer = true →
     let m := (s.wm k).val
     let w := vwidth t
     let x (n j : Nat) : Int := laneInt t ((s.readV a).lane n) j
     let y (n j : Nat) : Int := laneInt t ((s.readB b).lane n) j
     let e (n j : Nat) : Int := laneInt t ((s.readV d).lane n) j
     let g2 := joinTags [(s.readV a).tags, (s.readB b).tags, (s.wm k).tags]
     let g3 := joinTags [(s.readV a).tags, (s.readB b).tags, (s.readV d).tags, (s.wm k).tags]
     let quiet (fl : FpFlags) : Prop := fl = FpFlags.none
     let wraps (i : Instr) (l : Nat) (g : Tags) (r : Nat → Nat → Int) : Prop := Ready i s →
       WritesV i s l d b h m g quiet fun n v => ∀ j < 32 / w, (lanePat t v j : Int) = r n j % 2 ^ w
     let clamps (i : Instr) (r : Nat → Nat → Int) : Prop := Ready i s →
       WritesV i s 2 d b h m g2 (fun fl => fl.sat = true ↔ AnyClamps t m g2 r) fun n v =>
         ∀ j < 32 / w, laneInt t v j = max (elemLo t) (min (elemHi t) (r n j))
     wraps (.vadd t d a b k h) 2 g2 (fun n j => x n j + y n j) ∧ wraps (.vsub t d a b k h) 2 g2 (fun n j => x n j - y n j) ∧
     wraps (.vmul t d a b k h) 4 g2 (fun n j => x n j * y n j) ∧
     wraps (.vmulHi t d a b k h) 4 g2 (fun n j => x n j * y n j / 2 ^ w) ∧
     wraps (.vfma t d a b k h) 4 g3 (fun n j => e n j + x n j * y n j) ∧
     wraps (.vfmaFms t d a b k h) 4 g3 (fun n j => x n j * y n j - e n j) ∧
     wraps (.vfmaFnma t d a b k h) 4 g3 (fun n j => e n j - x n j * y n j) ∧
     wraps (.vmin t d a b k h) 2 g2 (fun n j => min (x n j) (y n j)) ∧
     wraps (.vmax t d a b k h) 2 g2 (fun n j => max (x n j) (y n j)) ∧
     clamps (.vaddSat t d a b k h) (fun n j => x n j + y n j) ∧ clamps (.vsubSat t d a b k h) (fun n j => x n j - y n j) ∧
     (Ready (.vmulWide t d a b k h) s → WritesV (.vmulWide t d a b k h) s 4 d b h m g2 quiet fun n v =>
       ∀ j < 16 / w, ((elem v (2 * w) j).toNat : Int) = x n (2 * j) * y n (2 * j) % 2 ^ (2 * w))) ∧
  (∀ (t : VFmt) (d a : Fin 64) (k : Fin 4) (s : State),
     let m := (s.wm k).val
     let w := vwidth t
     let g := joinTags [(s.readV a).tags, (s.wm k).tags]
     let x (n j : Nat) : Nat := lanePat t ((s.readV a).lane n) j
     let f := vffmt t
     (t.integer = true → Ready (.vabs t d a k) s → WritesV (.vabs t d a k) s 2 d 0 false m g (fun _ => True) fun n v =>
       ∀ j < 32 / w, (lanePat t v j : Int) = ((elemInt t (x n j)).natAbs : Int) % 2 ^ w) ∧
     (t.integer = true → Ready (.vneg t d a k) s → WritesV (.vneg t d a k) s 2 d 0 false m g (fun _ => True) fun n v =>
       ∀ j < 32 / w, (lanePat t v j : Int) = -(elemInt t (x n j)) % 2 ^ w) ∧
     (t.integer = false → Ready (.vabs t d a k) s → WritesV (.vabs t d a k) s 2 d 0 false m g (fun _ => True) fun n v =>
       ∀ j < 32 / w, lanePat t v j = if (f.decode (x n j)).isNan then f.nan else x n j % 2 ^ (w - 1)) ∧
     (t.integer = false → Ready (.vneg t d a k) s → WritesV (.vneg t d a k) s 2 d 0 false m g (fun _ => True) fun n v =>
       ∀ j < 32 / w, lanePat t v j = if (f.decode (x n j)).isNan then f.nan else (x n j + 2 ^ (w - 1)) % 2 ^ w))

/-- R128 and R129: each floating form applies its operation to each element in the context's rounding mode (the extremes without
rounding). R128: the exact sum, product, or product and sum of finite values, rounded once. R94: what rounding does: between the
two neighbours on the format's grid it takes the nearer, the even one of two as near, in RNE, the one of smaller magnitude in RZ,
the upper in RU and the lower in RD; what it takes is the pattern's value, and an overflow, judged after rounding on the
unbounded grid, gives what the format and the mode say. R137: the special functions answer each written lane with their value
after eight cycles. The model's own readings in it: log 42. -/
def Obligations.VectorFloats : Prop :=
  (∀ (t : VFmt) (d a b : Fin 64) (k : Fin 4) (h : Bool) (s : State), t.integer = false →
     let m := (s.wm k).val
     let w := vwidth t
     let f := vffmt t
     let x (n j : Nat) : Nat := lanePat t ((s.readV a).lane n) j
     let y (n j : Nat) : Nat := lanePat t ((s.readB b).lane n) j
     let e (n j : Nat) : Nat := lanePat t ((s.readV d).lane n) j
     let g2 := joinTags [(s.readV a).tags, (s.readB b).tags, (s.wm k).tags]
     let g3 := joinTags [(s.readV a).tags, (s.readB b).tags, (s.readV d).tags, (s.wm k).tags]
     let gives (i : Instr) (l : Nat) (g : Tags) (r : Nat → Nat → Nat) : Prop := Ready i s →
       WritesV i s l d b h m g (fun _ => True) fun n v => ∀ j < 32 / w, lanePat t v j = r n j % 2 ^ w
     gives (.vadd t d a b k h) 2 g2 (fun n j => (f.add s.vmode (x n j) (y n j)).1) ∧
     gives (.vsub t d a b k h) 2 g2 (fun n j => (f.sub s.vmode (x n j) (y n j)).1) ∧
     gives (.vmul t d a b k h) 4 g2 (fun n j => (f.mul s.vmode (x n j) (y n j)).1) ∧
     gives (.vfma t d a b k h) 4 g3 (fun n j => (f.fma s.vmode (x n j) (y n j) (e n j)).1) ∧
     gives (.vfmaFms t d a b k h) 4 g3 (fun n j => (f.fms s.vmode (x n j) (y n j) (e n j)).1) ∧
     gives (.vfmaFnma t d a b k h) 4 g3 (fun n j => (f.fnma s.vmode (x n j) (y n j) (e n j)).1) ∧
     gives (.vmin t d a b k h) 2 g2 (fun n j => (f.minMax false (x n j) (y n j)).1) ∧
     gives (.vmax t d a b k h) 2 g2 (fun n j => (f.minMax true (x n j) (y n j)).1)) ∧
  (∀ (d a : Fin 64) (k : Fin 4) (s : State),
     let gives (i : Instr) (f : BitVec 32 → Flagged Nat) : Prop := Ready i s →
       WritesV i s 8 d 0 false (s.wm k).val (joinTags [(s.readV a).tags, (s.wm k).tags]) (fun _ => True) fun n v =>
         v = BitVec.ofNat 32 (f ((s.readV a).lane n)).1
     gives (.vspecExp2 d a k) specExp2 ∧ gives (.vspecLog2 d a k) specLog2 ∧ gives (.vspecRcp d a k) specRcp ∧
     gives (.vspecRsqrt d a k) specRsqrt ∧ gives (.vspecSqrt d a k) specSqrt) ∧
  (∀ (f : FFmt) (m : RMode) (x y z : Nat) (s1 s2 s3 : Bool) (n1 n2 n3 : Nat) (e1 e2 e3 : Int),
     f.decode x = .num s1 n1 e1 → f.decode y = .num s2 n2 e2 → f.decode z = .num s3 n3 e3 →
     let up (s : Bool) (n : Nat) (e g : Int) : Int := signed s (n * 2 ^ (e - g).toNat)
     (∃ s n, (f.add m x y).1 = (f.round m s n (min e1 e2)).1 ∧ signed s n = up s1 n1 e1 (min e1 e2) + up s2 n2 e2 (min e1 e2)) ∧
     (f.mul m x y).1 = (f.round m (s1 != s2) (n1 * n2) (e1 + e2)).1 ∧
     ∃ s n, (f.fma m x y z).1 = (f.round m s n (min (e1 + e2) e3)).1 ∧
       signed s n = up (s1 != s2) (n1 * n2) (e1 + e2) (min (e1 + e2) e3) + up s3 n3 e3 (min (e1 + e2) e3)) ∧
  (∀ (m : RMode) (neg : Bool) (n : Nat) (e g : Int),
     let q := (roundAt m neg n e g).1
     let v := n * 2 ^ (e - min e g).toNat
     let u := 2 ^ (g - min e g).toNat
     (v % u = 0 → q * u = v) ∧ v < q * u + u ∧ q * u < v + u ∧
     (m = .rne → 2 * ((q * u : Int) - v).natAbs ≤ u ∧ (2 * ((q * u : Int) - v).natAbs = u → q % 2 = 0)) ∧
     (m = .rz ∨ (m = .ru ∧ neg = true) ∨ (m = .rd ∧ neg = false) → q * u ≤ v) ∧
     ((m = .ru ∧ neg = false) ∨ (m = .rd ∧ neg = true) → v ≤ q * u)) ∧
  (∀ (f : FFmt) (m : RMode) (neg : Bool) (n : Nat) (e : Int), n ≠ 0 →
     let gw := msb n e - f.fb
     let g := max gw (1 - f.bias - f.fb)
     (f.overflows (roundAt m neg n e gw).1 gw = true → (f.round m neg n e).1 = f.overflow m neg) ∧
     (f.overflows (roundAt m neg n e gw).1 gw = false → ∃ (q : Nat) (h : Int), f.decode (f.round m neg n e).1 = .num neg q h ∧
       q * 2 ^ (h - min h g).toNat = (roundAt m neg n e g).1 * 2 ^ (g - min h g).toNat))

/-- R138: the special inputs of the special functions, by the pattern of the input, with the flags each raises; every NaN gives
the canonical NaN, a signalling one with nv. R137: each of the five forms, where its operands may be read, answers a next
state in which its lanes under the write mask, and what they raise, are on their way after eight cycles. -/
def Obligations.SpecialInputs : Prop :=
  let no := FpFlags.none
  let nv := { FpFlags.none with nv := true }
  let dz := { FpFlags.none with dz := true }
  let big := { FpFlags.none with of := true, nx := true }
  let under := { FpFlags.none with uf := true, nx := true }
  let nx := { FpFlags.none with nx := true }
  ∀ x : BitVec 32,
    let u := x.toNat
    let m := u % 2 ^ 31
    let top := u / 2 ^ 31 * 2 ^ 31
    (0x7F800000 < m → ∀ f ∈ [specExp2, specLog2, specRcp, specRsqrt, specSqrt],
      f x = (0x7FC00000, if m < 0x7FC00000 then nv else no)) ∧
    (u = 0xFF800000 → specExp2 x = (0, no)) ∧ (u = 0x7F800000 → specExp2 x = (0x7F800000, no)) ∧
    (m = 0 → specExp2 x = (0x3F800000, no)) ∧ (0 < m → m < 0x00800000 → specExp2 x = (0x3F800000, nx)) ∧
    (0x43000000 ≤ u → u < 0x7F800000 → specExp2 x = (0x7F800000, big)) ∧
    (0xC2FC0000 < u → u < 0xFF800000 → specExp2 x = (0, under)) ∧
    (m = 0 → specLog2 x = (0xFF800000, dz)) ∧ (0x80000000 < u → u ≤ 0xFF800000 → specLog2 x = (0x7FC00000, nv)) ∧
    (u = 0x7F800000 → specLog2 x = (0x7F800000, no)) ∧
    (∀ k : Nat, k < 23 → u = 2 ^ k → ∃ n e, FFmt.f32.decode (specLog2 x).1 = .num true n e ∧ e ≤ 0 ∧ n = (149 - k) * 2 ^ (-e).toNat ∧
      (specLog2 x).2 = no) ∧
    (m = 0 → specRcp x = (top + 0x7F800000, dz)) ∧ (m = 0x7F800000 → specRcp x = (top, no)) ∧
    (0x7E800000 < m → m < 0x7F800000 → specRcp x = (top, under)) ∧
    (0 < m → m ≤ 0x00200000 → specRcp x = (top + 0x7F800000, big)) ∧
    (m = 0 → specRsqrt x = (top + 0x7F800000, dz)) ∧ (0x80000000 < u → u ≤ 0xFF800000 → specRsqrt x = (0x7FC00000, nv)) ∧
    (u = 0x7F800000 → specRsqrt x = (0, no)) ∧
    (m = 0 → specSqrt x = (top, no)) ∧ (0x80000000 < u → u ≤ 0xFF800000 → specSqrt x = (0x7FC00000, nv)) ∧
    (u = 0x7F800000 → specSqrt x = (0x7F800000, no)) ∧
    ∀ (d a : Fin 64) (k : Fin 4) (s : State), ∀ i ∈ [Instr.vspecExp2 d a k, .vspecLog2 d a k, .vspecRcp d a k, .vspecRsqrt d a k,
      .vspecSqrt d a k], Ready i s → ∃ (v : VReg) (fl : FpFlags), exec i s = .next ((s.push 8 (.v d v (s.wm k).val)).pushFlags 8 fl)

/-- R127, R131, R133 to R136, R141: logic, shifts by the element's low bits, bit counts, fields, funnels, selection and moves of
lanes, with no sticky flag. -/
def Obligations.VectorBits : Prop :=
  ∀ (t : VFmt) (d a b : Fin 64) (k : Fin 4) (h : Bool) (c : Fin 8) (s : State),
    let m := (s.wm k).val
    let w := vwidth t
    let x (n : Nat) : BitVec 32 := (s.readV a).lane n
    let y (n : Nat) : BitVec 32 := (s.readB b).lane n
    let e (n : Nat) : BitVec 32 := (s.readV d).lane n
    let ms := s.readM (c.castLE (by decide))
    let g1 := joinTags [(s.readV a).tags, (s.wm k).tags]
    let g2 := joinTags [(s.readV a).tags, (s.readB b).tags, (s.wm k).tags]
    let g3 := joinTags [(s.readV a).tags, (s.readB b).tags, (s.readV d).tags, (s.wm k).tags]
    let lanes (i : Instr) (l : Nat) (h : Bool) (b : Fin 64) (g : Tags) (r : Nat → BitVec 32) : Prop := Ready i s →
      WritesV i s l d b h m g (fun fl => fl = FpFlags.none) fun n v => v = r n
    let elems (i : Instr) (h : Bool) (b : Fin 64) (g : Tags) (p : Nat → Nat → Nat → Prop) : Prop := Ready i s →
      WritesV i s 2 d b h m g (fun fl => fl = FpFlags.none) fun n v => ∀ j < 32 / w, p n j (lanePat t v j)
    lanes (.vlogAnd t d a b k h) 2 h b g2 (fun n => x n &&& y n) ∧ lanes (.vlogOr t d a b k h) 2 h b g2 (fun n => x n ||| y n) ∧
    lanes (.vlogXor t d a b k h) 2 h b g2 (fun n => x n ^^^ y n) ∧
    lanes (.vlogAndn t d a b k h) 2 h b g2 (fun n => x n &&& ~~~(y n)) ∧ lanes (.vlogNot t d a k) 2 false 0 g1 (fun n => ~~~(x n)) ∧
    lanes (.vmov t d a k) 2 false 0 g1 x ∧
    elems (.vshShl t d a b k h) h b g2 (fun n j v => v = lanePat t (x n) j * 2 ^ (lanePat t (y n) j % w) % 2 ^ w) ∧
    elems (.vshShr t d a b k h) h b g2 (fun n j v => v = lanePat t (x n) j / 2 ^ (lanePat t (y n) j % w)) ∧
    elems (.vshSar t d a b k h) h b g2 (fun n j v =>
      (v : Int) = (lanePat t (x n) j : Int).bmod (2 ^ w) / 2 ^ (lanePat t (y n) j % w) % 2 ^ w) ∧
    elems (.vbitClz t d a k) false 0 g1 (fun n j v => v ≤ w ∧ lanePat t (x n) j < 2 ^ (w - v) ∧ (v < w → 2 ^ (w - 1 - v) ≤ lanePat t (x n) j)) ∧
    elems (.vbitCtz t d a k) false 0 g1 (fun n j v => v ≤ w ∧ lanePat t (x n) j % 2 ^ v = 0 ∧ (v < w → lanePat t (x n) j / 2 ^ v % 2 = 1)) ∧
    elems (.vbitFfs t d a k) false 0 g1 (fun n j v => (lanePat t (x n) j = 0 → v = 0) ∧
      (lanePat t (x n) j ≠ 0 → 1 ≤ v ∧ lanePat t (x n) j % 2 ^ (v - 1) = 0 ∧ lanePat t (x n) j / 2 ^ (v - 1) % 2 = 1)) ∧
    elems (.vbitPopc t d a k) false 0 g1 (fun n j v => v = (List.range w).countP fun i => (lanePat t (x n) j).testBit i) ∧
    lanes (.vsel t d a b k h c) 2 h b (joinTags [(s.readV a).tags, (s.readB b).tags, ms.tags, (s.wm k).tags])
      (fun n => if ms.val.getLsbD n then x n else y n) ∧
    (Ready (.vbfxN32 d a b k h) s → WritesV (.vbfxN32 d a b k h) s 2 d b h m g2 (fun fl => fl = FpFlags.none) fun n v =>
      ∀ i < 32, v.getLsbD i = (decide (i ≤ bits (y n) 5 5) && (x n).getLsbD (bits (y n) 0 5 + i))) ∧
    (Ready (.vbfxI32 d a b k h) s → WritesV (.vbfxI32 d a b k h) s 2 d b h m g2 (fun fl => fl = FpFlags.none) fun n v =>
      ∀ i < 32, v.getLsbD i = (x n).getLsbD (bits (y n) 0 5 + min i (bits (y n) 5 5))) ∧
    (Ready (.vfshLeft t d a b k h) s → WritesV (.vfshLeft t d a b k h) s 2 d b h m g3 (fun fl => fl = FpFlags.none) fun n v =>
      v.toNat = ((e n).toNat * 2 ^ 32 + (x n).toNat) * 2 ^ ((y n).toNat % 32) / 2 ^ 32 % 2 ^ 32) ∧
    (Ready (.vfshRight t d a b k h) s → WritesV (.vfshRight t d a b k h) s 2 d b h m g3 (fun fl => fl = FpFlags.none) fun n v =>
      v.toNat = ((e n).toNat * 2 ^ 32 + (x n).toNat) / 2 ^ ((y n).toNat % 32) % 2 ^ 32)

/-- R130: a compare of integers or floating values writes, under the write mask, one bit for each lane: that every element of the
lane meets the condition; one aimed at `m0` writes nothing and raises no flag (R66). R132 and R66: the mask operations act bit
by bit under the write mask, and one aimed at `m0` writes nothing. The model's own readings in it: log 41. -/
def Obligations.ComparesAndMasks : Prop :=
  (∀ (t : VFmt) (d : Fin 16) (a b : Fin 64) (k : Fin 4) (h : Bool) (s : State),
     let g := joinTags [(s.readV a).tags, (s.readB b).tags, (s.wm k).tags]
     let f := vffmt t
     let bit (i : Instr) (p : Int → Int → Prop) (q : FVal → FVal → Prop) : Prop := Ready i s →
       (d = 0 → exec i s = .next (s.latch h b)) ∧
       (d ≠ 0 → ∃ (x : MReg) (fl : FpFlags), exec i s = .next (((s.latch h b).push 2 (.m d x (s.wm k).val)).pushFlags 2 fl) ∧
         x.tags = g ∧ (t.integer = true → fl = FpFlags.none) ∧
         ∀ n < 128, (s.wm k).val.getLsbD n = true →
           (x.val.getLsbD n = true ↔ ∀ j < 32 / vwidth t,
             (t.integer = true → p (laneInt t ((s.readV a).lane n) j) (laneInt t ((s.readB b).lane n) j)) ∧
             (t.integer = false → q (f.decode (lanePat t ((s.readV a).lane n) j)) (f.decode (lanePat t ((s.readB b).lane n) j)))))
     bit (.vcmpEq t d a b k h) (fun x y => x = y) (fun x y => eqVal x y = true) ∧
     bit (.vcmpNe t d a b k h) (fun x y => x ≠ y) (fun x y => eqVal x y = false) ∧
     bit (.vcmpLt t d a b k h) (fun x y => x < y) (fun x y => ltVal false x y = true) ∧
     bit (.vcmpLe t d a b k h) (fun x y => x ≤ y) (fun x y => ltVal false x y = true ∨ eqVal x y = true) ∧
     bit (.vcmpGt t d a b k h) (fun x y => y < x) (fun x y => ltVal false y x = true) ∧
     bit (.vcmpGe t d a b k h) (fun x y => y ≤ x) (fun x y => ltVal false y x = true ∨ eqVal x y = true) ∧
     bit (.vcmpUo t d a b k h) (fun _ _ => False) (fun x y => x.isNan = true ∨ y.isNan = true)) ∧
  (∀ (d a b : Fin 16) (k : Fin 4) (s : State),
     let x := (s.readM a).val
     let y := (s.readM b).val
     let w := s.wm k
     let gives (i : Instr) (g : Tags) (r : Nat → Bool) : Prop := Ready i s →
       ∃ v : MReg, exec i s = .next (if d = 0 then s else s.push 2 (.m d v w.val)) ∧ v.tags = g ∧ ∀ n < 128, v.val.getLsbD n = r n
     let g1 := joinTags [(s.readM a).tags, w.tags]
     let g2 := joinTags [(s.readM a).tags, w.tags, (s.readM b).tags]
     gives (.vmaskAnd d a b k) g2 (fun n => x.getLsbD n && y.getLsbD n) ∧ gives (.vmaskOr d a b k) g2 (fun n => x.getLsbD n || y.getLsbD n) ∧
     gives (.vmaskXor d a b k) g2 (fun n => x.getLsbD n != y.getLsbD n) ∧
     gives (.vmaskAndn d a b k) g2 (fun n => x.getLsbD n && !(y.getLsbD n)) ∧
     gives (.vmaskNot d a k) g1 (fun n => !(x.getLsbD n)) ∧ gives (.vmaskMov d a k) g1 (fun n => x.getLsbD n))

/-- R139 to R141 and R158: reductions over the sixteen lanes of each group by the tree of R139, of sums modulo 2^32, of floating
sums rounded at each node, or of extremes; shuffles and rotations in a group, the crossing of
groups, the broadcast of a scalar, the extraction of an element, and points. -/
def Obligations.VectorMoves : Prop :=
  ∀ (t : VFmt) (d a b : Fin 64) (k : Fin 4) (h : Bool) (s : State),
    let m := (s.wm k).val
    let w := vwidth t
    let x := s.readV a
    let y := s.readB b
    let g2 := joinTags [x.tags, y.tags, (s.wm k).tags]
    let lanes (i : Instr) (l : Nat) (b : Fin 64) (h : Bool) (g : Tags) (r : Nat → BitVec 32) : Prop := Ready i s →
      WritesV i s l d b h m g (fun fl => fl = FpFlags.none) fun n v => v = r n
    lanes (.vshuf t d a b k h) 2 b h g2 (fun n => x.lane (n / 16 * 16 + (y.lane n).toNat % 16)) ∧
    lanes (.vrot t d a b k h) 2 b h g2 (fun n => x.lane (n / 16 * 16 + (n % 16 + 16 - (y.lane n).toNat % 16) % 16)) ∧
    lanes (.vxg t d a b k h) 4 b h (joinTags [Vector.ofFn (crossTag x y m), y.tags, (s.wm k).tags])
      (fun n => x.lane ((y.lane n).toNat % 128)) ∧
    (Ready (.vbcast t d a k) s → WritesV (.vbcast t d a k) s 2 d 0 false m (joinTags [evenTags (s.readS a).tag, (s.wm k).tags])
      (fun fl => fl = FpFlags.none) fun _ v => ∀ j < 32 / w, lanePat t v j = (s.readS a).val.toNat % 2 ^ w) ∧
    (Ready (.vext t d a b) s →
      let e := (s.readS b).val.toNat % (4096 / w)
      WritesS (.vext t d a b) s 3 d (maxTag (x.tags.get (laneGroup (e * w / 32))) (s.readS b).tag) fun v =>
        v.toInt = elemInt t (elem x.val w e).toNat) ∧
    (Ready (.vqpt t d a b k) s → WritesV (.vqpt t d a b k) s 8 d 0 false m
      (joinTags [x.tags, evenTags (s.readS b).tag, (s.wm k).tags]) (fun fl => fl = FpFlags.none) fun n v =>
        v = pointForm (t == .f32) (qpoint (s.cx.regs.dim ((s.readS b).val.toNat % 64))
          (BitVec.ofNat 32 ((s.readS b).val.toNat / 2 ^ 32 + (x.lane n).toNat)))) ∧
    let add (u v : Nat) : Nat := if t.integer then (u + v) % 2 ^ 32 else (FFmt.f32.add s.vmode u v).1 % 2 ^ 32
    let ext (top : Bool) (u v : Nat) : Nat :=
      if t.integer then (if (if top then elemInt t u < elemInt t v else elemInt t v < elemInt t u) then v else u)
      else (FFmt.f32.minMax top u v).1 % 2 ^ 32
    let tree (node : Nat → Nat → Nat) (n : Nat) : Nat :=
      let y (k : Nat) : Nat := node (x.lane (n + 2 * k)).toNat (x.lane (n + 2 * k + 1)).toNat
      let z (k : Nat) : Nat := node (y (2 * k)) (y (2 * k + 1))
      let u (k : Nat) : Nat := node (z (2 * k)) (z (2 * k + 1))
      node (u 0) (u 1)
    (∀ p ∈ [(Instr.vredAdd t d a k, add), (.vredMax t d a k, ext true), (.vredMin t d a k, ext false)], Ready p.1 s →
      WritesV p.1 s 4 d 0 false (m &&& firstLanes) (joinTags [x.tags, (s.wm k).tags]) (fun fl => t.integer = true → fl = FpFlags.none)
        fun n v => n % 16 = 0 ∧ v.toNat = tree p.2 n)

/-- R142 to R144, R234 and R235: vector loads whose lanes all reach their places complete with the lanes on their way; vector
stores and memory-side atomics complete withheld, one lane each for the written lanes, with the class of `%vcls`; memory stands
until they perform. R142 and R143: the loaded lanes hold memory's bytes where the read of each is plain. R336: in deterministic mode
`vamo.add.sr` raises PHASE. Outside it each form completes where every address is one of 56 bits and a multiple of 4, translates, and lies in the
scratchpads, or for an atomic in the cacheable class (R142, R234). The model's own readings in it: log 11, 40, 86, 87, 109. -/
def Obligations.VectorMemory : Prop :=
  (∀ (t : VFmt) (d a b : Fin 64) (k : Fin 4) (s : State),
     let m := (s.wm k).val
     let loads (i : Instr) (n : Nat) (l : List (Nat × Piece)) : Prop := ∃ (u : State) (x : VReg),
       exec i s = .next (u.landLanes n d m x) ∧ SameRun s u ∧ ((∀ p ∈ l, Held s p.2.loc 4) → Unmoved s u)
     let stores (i : Instr) (kind : StoreKind) (l : List (Nat × Piece)) : Prop := ∃ (u : State) (o : StoreOp),
       exec i s = .next u ∧ u.mem = s.mem ∧ u.cx.regs = s.cx.regs ∧ u.cx.withheld = s.cx.withheld ++ [o] ∧ o.kind = kind ∧
         o.cls = s.vclass ∧ o.path = .l ∧ o.lanes = storeLanes (s.readV d) l
     let step : Byte := field (s.readS b).val 56 8
     let seed := recordSeed (s.cx.regs.dim 63)
     (∀ l, s.reachRow .read (s.rowAddr a b) m = .ok l → Ready (.vld t d a b k) s → loads (.vld t d a b k) 5 l) ∧
     (∀ l, s.reachLanes .read (s.laneAddrs a b k) (s.inScratch .read) = .ok l → Ready (.vgath t d a b k) s →
       loads (.vgath t d a b k) 7 l) ∧
     (∀ l, s.reachRow .write (s.rowAddr a b) m = .ok l → Ready (.vst t d a b k) s → stores (.vst t d a b k) .plain l) ∧
     (∀ l, s.reachLanes .write (s.laneAddrs a b k) (s.inScratch .write) = .ok l → Ready (.vscat t d a b k) s →
       stores (.vscat t d a b k) .plain l) ∧
     (∀ l, s.reachLanes .atomic (s.amoAddrs a b k) s.inVamo = .ok l → s.cx.deterministic = false →
       (Ready (.vamoAdd t d a b k) s → stores (.vamoAdd t d a b k) (.vamo 0 t step seed) l) ∧
       (Ready (.vamoAddSr d a b k) s → stores (.vamoAddSr d a b k) (.vamo 1 .bf16 step seed) l) ∧
       (Ready (.vamoMin t d a b k) s → stores (.vamoMin t d a b k) (.vamo 2 t step seed) l) ∧
       (Ready (.vamoMax t d a b k) s → stores (.vamoMax t d a b k) (.vamo 3 t step seed) l) ∧
       (Ready (.vamoFmax t d a b k) s → stores (.vamoFmax t d a b k) (.vamo 4 t step seed) l)) ∧
     (∀ l, s.reachLanes .atomic (s.amoAddrs a b k) s.inVamo = .ok l → s.cx.deterministic = true →
       Ready (.vamoAddSr d a b k) s → Stops (.vamoAddSr d a b k) s
         (.raise .phase { Info.none with detail := phaseDetail s.cx.regs.phase }))) ∧
  (∀ (t : VFmt) (d a b : Fin 64) (k : Fin 4) (s : State), s.cx.deterministic = false →
     let row := s.rowAddr a b
     let good (v : Word) : Prop := v.toNat < 2 ^ 56 ∧ v.toNat % 4 = 0
     let spans (l : List (Nat × Word)) : List (BitVec 56 × Nat) := l.map fun p => (field p.2 0 56, 4)
     let loads (i : Instr) (n : Nat) : Prop := Ready i s → ∃ (u : State) (x : VReg),
       exec i s = .next (u.landLanes n d (s.wm k).val x) ∧ SameRun s u
     let stores (i : Instr) : Prop := Ready i s → ∃ (u : State) (o : StoreOp), exec i s = .next u ∧ u.mem = s.mem ∧
       u.cx.regs = s.cx.regs ∧ u.cx.withheld = s.cx.withheld ++ [o]
     (good row → SpansReach s .read (s.inScratch .read) (pagePieces (field row 0 56) 512 2) → loads (.vld t d a b k) 5) ∧
     (good row → SpansReach s .write (s.inScratch .write) (pagePieces (field row 0 56) 512 2) → stores (.vst t d a b k)) ∧
     ((∀ p ∈ s.laneAddrs a b k, good p.2) → SpansReach s .read (s.inScratch .read) (spans (s.laneAddrs a b k)) →
       loads (.vgath t d a b k) 7) ∧
     ((∀ p ∈ s.laneAddrs a b k, good p.2) → SpansReach s .write (s.inScratch .write) (spans (s.laneAddrs a b k)) →
       stores (.vscat t d a b k)) ∧
     ((∀ p ∈ s.amoAddrs a b k, good p.2) → SpansReach s .atomic s.inVamo (spans (s.amoAddrs a b k)) →
       stores (.vamoAdd t d a b k) ∧ stores (.vamoAddSr d a b k) ∧ stores (.vamoMin t d a b k) ∧ stores (.vamoMax t d a b k) ∧
       stores (.vamoFmax t d a b k))) ∧
  (∀ (s : State) (n : Nat) (d : Fin 64) (k : Fin 4) (l : List (Nat × Piece)), (l.map (·.1)).Nodup →
     (∀ p ∈ l, p.1 < 128 ∧ PlainRead s .l s.vclass p.2.loc 4) →
     ∃ (u : State) (x : VReg), s.loadLanes n d k l = u.landLanes n d (s.wm k).val x ∧
       (∀ p ∈ l, (x.lane p.1).toNat = valueAt s p.2.loc 4) ∧ (∀ g, x.tags.get g = (s.wm k).tags.get g))

/-! ## The X slot -/

/-- R164 to R166: a conversion writes every position of the narrower side from the same position of the source; an integer is kept
or clamped to the to-format's range, and a NaN becomes the canonical NaN of a floating to-format or 0. -/
def Obligations.Conversions : Prop :=
  ∀ (f g : BitVec 4) (d a b : Fin 64) (s : State),
    let ws := codeWidth f
    let wd := codeWidth g
    let x := s.groupVal a (ws / wd)
    let mode (p : Nat) : RMode := .sr (srbits (recordSeed (s.cx.regs.dim 63))
      (BitVec.ofNat 56 ((s.readS b).val.toNat % 2 ^ 56 + p * wd / 8)) (field (s.readS b).val 56 8) 16) 16
    let gives (i : Instr) (m : Nat → RMode) : Prop := Ready i s →
      WritesPos i s 3 d (max 1 (wd / ws)) wd fun p y =>
        let v := (xfmt f).value (pos ws x p)
        p < 4096 / min ws wd → y = ((xfmt g).convert (m p) v).1 % 2 ^ wd ∧
        (∀ sf n, ∀ sg n', xfmt f = .int sf n → xfmt g = .int sg n' →
          (y : Int) = max (intLo sg n') (min (intHi sg n') (if sf then sext (BitVec.ofNat 64 (pos ws x p)) ws else pos ws x p)) % 2 ^ wd) ∧
        (v.isNan = true → (∀ h, xfmt g = .float h → y = h.nan) ∧ ∀ sg n', xfmt g = .int sg n' → y = 0)
    gives (.xcvt f g d a) (fun _ => modeOf s.cx.regs.round) ∧ gives (.xcvtSr f g d a b) mode

/-- R167 and R168: `xq` puts the mantissas of each block, block after block, and its exponent on their way; `xdq` puts the value
of each position's mantissa under its block's exponent, rounded, on its way. R167: a block with a NaN or an infinity has
exponent 255 and zero mantissas; one of zeros exponent 0; every other an exponent of 1 to 254, each mantissa within m bits and
the nearest to its element in the block's unit, or at a bound of the mantissas' range. -/
def Obligations.BlockForms : Prop :=
  (∀ (k : Bool) (f m : BitVec 4) (d a : Fin 64) (z : Fin 16) (s : State),
     let w := (floatOf f).width
     let bl := if k then 32 else 16
     let block (j : Nat) : QBlock := quantBlock m.toNat (valuesAt (floatOf f) (s.readV a).val.toNat (bl * j) bl)
     (Ready (.xq k f m d a z) s → ∃ (x e : Nat) (fl : FpFlags),
       let t := s.readTag (.xq k f m d a z)
       exec (.xq k f m d a z) s =
         .next (((s.putGroup 6 d 1 x t).push 6 (.z z { val := BitVec.ofNat 128 e, tag := t })).pushXFlags 6 t fl) ∧
       (∀ j < 4096 / w / bl, pos 8 e j = (block j).ex ∧ ∀ i < bl, pos m.toNat x (bl * j + i) = (block j).qs.getD i 0) ∧
       e < 256 ^ (4096 / w / bl) ∧ x < 2 ^ (m.toNat * (4096 / w))) ∧
     (Ready (.xdq k f m d a z) s → WritesPos (.xdq k f m d a z) s 4 d 1 w fun p y =>
       y = ((XFmt.float (floatOf f)).convert (modeOf s.cx.regs.round)
         (bfpValue m.toNat (pos 8 (s.readZ z).val.toNat (p / bl)) (pos m.toNat (s.readV a).val.toNat p))).1 % 2 ^ w)) ∧
  (∀ (m : Nat) (xs : List FVal), 2 ≤ m → m ≤ 8 →
     let b := quantBlock m xs
     let bad (v : FVal) : Prop := v.isNan = true ∨ ∃ n, v = .inf n
     let zero (v : FVal) : Prop := ∃ s e, v = FVal.num s 0 e
     b.qs.length = xs.length ∧
     ((∃ v ∈ xs, bad v) → b.ex = 255 ∧ ∀ q ∈ b.qs, q = 0) ∧
     ((∀ v ∈ xs, zero v) → b.ex = 0 ∧ ∀ q ∈ b.qs, q = 0) ∧
     ((∀ v ∈ xs, ¬bad v) → (∃ v ∈ xs, ¬zero v) → 1 ≤ b.ex ∧ b.ex ≤ 254 ∧
       ∀ (i : Nat) (s : Bool) (n : Nat) (e : Int), xs[i]? = some (FVal.num s n e) → ∃ q, b.qs[i]? = some q ∧ q < 2 ^ m ∧
         let v := sext (BitVec.ofNat 64 q) m
         Nearest s n e v ((b.ex : Int) - 127 - (m - 1)) ∨ v = -2 ^ (m - 1) ∨ v = 2 ^ (m - 1) - 1))

/-- R169 to R171: a scale transfer whose checks pass puts the ring slot's bytes, zero-extended, on their way to the scale
register, or withholds the register's low bytes; a count that is not ceil(K / B), where b is not `s0`, raises SCALECOUNT and
an unbound handle PROT. Outside deterministic mode either form completes where its count is right, its handle is bound, and
its slot's address is a multiple of 4 that translates to a place that takes the access. -/
def Obligations.ScaleTransfers : Prop :=
  ∀ (v : Bool) (c : BitVec 4) (k : Bool) (o : BitVec 3) (z h : Fin 16) (b : Fin 64) (s : State),
    let n := (c.toNat + 1) * (if v then 4 else 1)
    let bl := if k then 32 else 16
    let len := (s.readS b).val.toNat % 2 ^ 32
    let ld : Instr := .xsld v c k o z h b
    let st : Instr := .xsst v c k o z h b
    (∀ va l, s.reachScale .read true h b bl (c.toNat + 1) (16 * o.toNat) n = .ok (va, l) → Ready ld s →
      ∃ (u : State) (e : InFlight) (y : Tagged 128), exec ld s = .next (u.enter e) ∧ SameRun s u ∧ (Held s l n → Unmoved s u) ∧ e.left = 6 ∧ e.rld = false ∧
        e.landing = .z z y ∧ (PlainRead s .x 0 l n → y.val.toNat = valueAt s l n ∧ y.tag = (s.readS b).tag)) ∧
    (∀ va l, s.reachScale .write false h b bl (c.toNat + 1) (16 * o.toNat) n = .ok (va, l) → Ready st s →
      ∃ (u : State) (w : StoreOp), exec st s = .next u ∧ u.mem = s.mem ∧ u.cx.regs = s.cx.regs ∧
        u.cx.withheld = s.cx.withheld ++ [w] ∧ w.kind = .span ∧ w.path = .x ∧
        w.lanes = spanLanes [{ va := va, loc := l, len := n }] (bytesOf n (s.readZ z).val.toNat) (decide ((s.readZ z).tag = .lost))) ∧
    (∀ a q l, (a, q) = (Acc.read, true) ∨ (a, q) = (Acc.write, false) →
      let hg := s.cx.regs.hg.get h
      let va : BitVec 56 := BitVec.ofNat 56 (ringSlot hg (relSlot hg (s.cx.regs.hs.get h) q 0) + 16 * o.toNat)
      s.cx.deterministic = false → b = 0 ∨ ((c.toNat + 1) * bl < len + bl ∧ len ≤ (c.toNat + 1) * bl) → hgValid hg = true → va.toNat % 4 = 0 →
      s.translate s.cur.core s.cx.reg.ptroot s.supervisor a va = .ok l → s.refusesHere s.cur.core va l n a .unit s.supervisor = false →
      (q = true → Ready ld s → ∃ (u : State) (e : InFlight), exec ld s = .next (u.enter e) ∧ SameRun s u ∧ e.left = 6 ∧
        ∃ y, e.landing = .z z y) ∧
      (q = false → Ready st s → ∃ (u : State) (w : StoreOp), exec st s = .next u ∧ u.mem = s.mem ∧ u.cx.regs = s.cx.regs ∧
        u.cx.withheld = s.cx.withheld ++ [w])) ∧
    (∀ i ∈ [ld, st], Ready i s → b ≠ 0 → (c.toNat + 1) * bl < len ∨ len + bl ≤ (c.toNat + 1) * bl →
      Stops i s (.raise .scalecount Info.none)) ∧
    (∀ i ∈ [ld, st], Ready i s → b = 0 → hgValid (s.cx.regs.hg.get h) = false → Stops i s (.raise .prot Info.none))

/-- R174 and R175: `xtbl.perm` enters the table its bytes hold, with the id, and `xtbl.key` the key of a header record; each lands
at the next boundary, and a lost sector raises CONTAIN (within the reading of the bytes). `xperm` gathers through the table
where its id is the loaded one, and raises ENGINE where it is not. The model's own readings in it: log 37, 46, 89. -/
def Obligations.TableForms : Prop :=
  ∀ (w : BitVec 2) (d a b : Fin 64) (s : State),
    let y := (s.readS b).val
    let n := y.toNat % 2 ^ 14
    let addr := (s.readS a).val
    let va : BitVec 56 := field addr 0 56
    let e := 4096 / xwidth w
    (Ready (.xtblPerm a b) s → (n = 0 ∨ 8192 < n) → Stops (.xtblPerm a b) s (.raise .engine Info.none)) ∧
    (∀ bs u, 1 ≤ n → n ≤ 8192 → addr.toNat < 2 ^ 56 → s.readTable va (2 * n) 2 = .ok (bs, u) → Ready (.xtblPerm a b) s →
      ∃ l : List (BitVec 13), exec (.xtblPerm a b) s =
          .next (u.enter { left := 1, landing := .table n (field y 32 16) l, arrived := false, rld := false, peer := none }) ∧ l.length = n ∧
        ∀ i < n, (l.getD i 0).toNat = ((bs.getD (2 * i) 0).toNat + 256 * (bs.getD (2 * i + 1) 0).toNat) % 2 ^ 13) ∧
    (∀ bs u, addr.toNat < 2 ^ 56 → s.readTable va 32 32 = .ok (bs, u) → Ready (.xtblKey a) s → ∃ key : Word,
      exec (.xtblKey a) s = .next (u.enter { left := 1, landing := .key key, arrived := false, rld := false, peer := none }) ∧
      key.toNat = ofBytes ((bs.drop 8).take 8)) ∧
    (Ready (.xperm w d a b) s → y.toNat / 2 ^ 32 % 2 ^ 16 ≠ s.kr.tblId.toNat → Stops (.xperm w d a b) s (.raise .engine Info.none)) ∧
    (Ready (.xperm w d a b) s → y.toNat / 2 ^ 32 % 2 ^ 16 = s.kr.tblId.toNat → WritesPos (.xperm w d a b) s 5 d 1 (xwidth w) fun j r =>
      let t := y.toNat % 2 ^ 13 + j
      let c := (s.kr.tbl.getD t 0).toNat
      let c0 := y.toNat / 2 ^ 16 % 2 ^ 13
      (t < s.kr.tblLen → c0 ≤ c → c - c0 < e → r = pos (xwidth w) (s.readV a).val.toNat (c - c0)) ∧
      (s.kr.tblLen ≤ t ∨ c < c0 ∨ e ≤ c - c0 → r = pos (xwidth w) (s.readV d).val.toNat j))

/-- R177 to R181: transposition, packed fields and their elements, expansion by a bitmap, the transform of each run, stage by
stage with its signs before or after and its scaling, and the largest magnitude, which a target of `s0` discards with its flags. The model's own readings in it: log 41, 45. -/
def Obligations.LayoutForms : Prop :=
  ∀ (w : BitVec 2) (m : BitVec 4) (u g : Bool) (d a b : Fin 64) (k : Fin 16) (s : State),
    let n := xwidth w
    let x := (s.readV a).val.toNat
    let i := m.toNat + 1
    let int (y : Nat) : Int := if g then (y : Int).bmod (2 ^ n) else y
    let msk (q : Nat) : Bool := (s.readM ⟨(k.val + q / 128) % 16, Nat.mod_lt _ (by decide)⟩).val.getLsbD (q % 128)
    (Ready (.xtr w d a) s → WritesPos (.xtr w d a) s 8 d (if w = 2 then 2 else 1) n fun p y =>
      y = pos n (s.groupVal a (if w = 2 then 2 else 1)) (p / 256 * 256 + p % 16 * 16 + p / 16 % 16)) ∧
    (Ready (.xpack m w u g d a) s → WritesPos (.xpack m w u g d a) s 3 d 1 i fun j y =>
      (4096 / n ≤ j → y = 0) ∧ (j < 4096 / n → u = false → y = pos n x j % 2 ^ i) ∧
      (j < 4096 / n → u = true → (y : Int) = max (intLo g i) (min (intHi g i) (int (pos n x j))) % 2 ^ i)) ∧
    (Ready (.xunpk m w g d a) s → WritesPos (.xunpk m w g d a) s 3 d 1 n fun j y =>
      (g = false → y = pos i x j) ∧ (g = true → (y : Int) = (pos i x j : Int).bmod (2 ^ i) % 2 ^ n)) ∧
    (Ready (.xexp w d a k) s → WritesPos (.xexp w d a k) s 5 d 1 n fun p y =>
      y = if msk p then pos n x ((List.range p).countP msk) else 0) ∧
    (∀ inv, Ready (.xhad w inv d a b) s → ∃ st : Nat → Nat → Nat,
      let sign (p v : Nat) : Nat := if (hash s.kr.key ((s.readS b).val + BitVec.ofNat 64 p)).getLsbD 63 then flipSign v else v
      let h : Nat := if inv then (if w.toNat = 0 then 2 else 3) else (if w.toNat = 2 then 3 else 2)
      (∀ p < 128, st 0 p = if inv then pos 32 x p else sign p (pos 32 x p)) ∧
      (∀ j < 4 + w.toNat, ∀ p < 128, st (j + 1) p =
        if p / 2 ^ j % 2 = 0 then (FFmt.f32.add .rne (st j p) (st j (p + 2 ^ j))).1
        else (FFmt.f32.sub .rne (st j (p - 2 ^ j)) (st j p)).1) ∧
      WritesPos (.xhad w inv d a b) s (8 + 2 * w.toNat) d 1 32 fun p y =>
        let v := (FFmt.f32.mul .rne (st (4 + w.toNat) p) ((127 - h) * 2 ^ 23)).1
        y = if inv then sign p v else v) ∧
    (Ready (.xamax m d a b) s →
      let vs := FFmt.f32.decode ((s.readS b).val.toNat % 2 ^ 32) :: valuesAt (floatOf m) x 0 (4096 / (floatOf m).width)
      let t := s.readTag (.xamax m d a b)
      (d = 0 → exec (.xamax m d a b) s = .next s) ∧
      (d ≠ 0 → ∃ (y : Nat) (fl : FpFlags), exec (.xamax m d a b) s = .next ((s.pushS 4 d (BitVec.ofNat 64 y) t).pushXFlags 4 t fl) ∧
        ((∃ v ∈ vs, v.isNan = true) → y = 0x7FC00000 ∧ (fl.nv = true ↔ ∃ v ∈ vs, v.isSnan = true)) ∧
        ((∀ v ∈ vs, v.isNan = false) → fl = FpFlags.none ∧ y < 2 ^ 31 ∧ (∃ v ∈ vs, eqVal (FFmt.f32.decode y) v.abs = true) ∧
          ∀ v ∈ vs, ltVal false (FFmt.f32.decode y) v.abs = false)))

/-! ## The mirror and the engines -/

/-- R196, R197, R203: an M operation that passes its checks, made with every earlier operation done, joins the context's queue
with what it read; the first check that fails is its stop, and a full queue holds it. `mswap` is also held while a load of its
array is incomplete (R206); a context that owns no quarter may issue `mmode` alone. The model's own readings in it: log 47, 92, 101. -/
def Obligations.MirrorQueue : Prop :=
  ∀ (a : Fin 16) (e p q t : Fin 8) (f : Fin 32) (c b o : Bool) (g : Fin 16) (r r2 : BitVec 2) (m w v : BitVec 3) (n : Fin 64)
    (id : BitVec 16) (s : State),
    let x := s.cur.ctx
    let u := s.aheadOf x
    let joins (i : Instr) : Prop := Ready i s →
      (8 ≤ s.cx.mqueue.length → Stops i s .hold) ∧
      (s.cx.mqueue.length < 8 →
        (∀ ps, u.checkOp x (s.mirrorOp i []) i = .ok ps → ∃ op : MirrorOp,
          exec i s = .next (s.modCx fun c => { c with mqueue := c.mqueue ++ [op] }) ∧ op.instr = i ∧ op.places = ps ∧
          (∀ k, op.q.get k = (s.readQ k).val) ∧ op.hg = s.cx.regs.hg ∧ op.hs = s.cx.regs.hs ∧ op.scope = s.cur.scope) ∧
        (∀ k, u.checkOp x (s.mirrorOp i []) i = .error k → Stops i s k))
    (∀ i ∈ [Instr.mlds a f p q, .mstream a t c, .mstreamEyepiece a e t c, .mdrain f t g c, .mzero q, .mepl e q, .mseg a r r2,
        .mmode m o b w v, .mcall n id f], joins i) ∧
    (s.loading s.cur.core a = false → s.loadsAhead x a = false → joins (.mswap a)) ∧
    (s.loading s.cur.core a = true ∨ s.loadsAhead x a = true → Ready (.mswap a) s → Stops (.mswap a) s .hold) ∧
    (s.cx.mqueue = [] → s.firstDue x (·.isLoad) = none → s.quarters x = 0 →
      ∀ i ∈ [Instr.mlds a f p q, .mswap a, .mstream a t c, .mstreamEyepiece a e t c, .mdrain f t g c, .mzero q, .mepl e q,
          .mseg a r r2, .mcall n id f], s.loading s.cur.core a = false → Ready i s → Stops i s (.raise .prot Info.none)) ∧
    (s.cx.mqueue = [] → s.firstDue x (·.isLoad) = none → Ready (.mmode m o b w v) s → ∃ op : MirrorOp,
      exec (.mmode m o b w v) s = .next (s.modCx fun c => { c with mqueue := [op] }) ∧ op.instr = .mmode m o b w v)

/-- R204, R211, R213: `mqset` puts its register on its way to a q register; `mstat` answers the context's mirror flags and passes
once nothing of the mirror is outstanding, clears them if it says so, and is held before; `mephw` writes micro-steps, and an
entry if it names one, whose bytes it has read and found good; an operation queued before it, or a routine that runs in the other context, holds it.
The model's own readings in it: log 48, 90. -/
def Obligations.MirrorRegisters : Prop :=
  ∀ (q b : Fin 8) (a d : Fin 64) (c set : Bool) (f : Fin 1024) (e : Fin 64) (s : State),
    let x := s.cur.ctx
    let w := (s.readQ q).val
    let v := (s.readQ b).val
    let n := v.toNat / 2 ^ 16 % 2 ^ 8 + 1
    let va : BitVec 56 := field w 0 56
    (Ready (.mqset q a) s → exec (.mqset q a) s = .next (s.push 1 (.q q (s.readS a)))) ∧
    (Ready (.mstat d c) s → s.mirrorBusy x = true → Stops (.mstat d c) s .hold) ∧
    (Ready (.mstat d c) s → s.mirrorBusy x = false → ∃ u : Word,
      u.toNat = min 65535 s.cx.mpasses * 2 ^ 16 + s.cx.mflags.toNat ∧
      exec (.mstat d c) s = .next
        ((((if c then s.modCx fun c => { c with mflags := 0, mpasses := 0 } else s).pushS 4 d u .clean)).push 4 (.pathA s.nextId))) ∧
    (Ready (.mephw q b f set e) s → s.storeBusy x = true → Stops (.mephw q b f set e) s .hold) ∧
    (Ready (.mephw q b f set e) s → s.storeBusy x = false → s.quarters x ≠ 0 →
      (2 ^ 56 ≤ w.toNat ∨ 2 ^ 24 ≤ v.toNat ∨ 1024 < f.val + n → Stops (.mephw q b f set e) s (.raise .engine Info.none)) ∧
      (w.toNat < 2 ^ 56 → v.toNat < 2 ^ 24 → f.val + n ≤ 1024 → va.toNat % 4 = 0 →
        ∀ ps, s.tilePieces x (s.mirrorOp (.mzero 0) []) .bundle (pagePieces va (4 * n) 4) = .ok ps →
        let r := (ps.foldl (fun s p => s.touch x s.cx.reg.ptroot p.va) s).readA (s.me x) ps
        (∀ y ∈ r.1, y.2 = false) → (∀ i < n, stepOk ((stepWords (r.1.map (·.1)) n).getD i 0) = true) →
        exec (.mephw q b f set e) s = .next (r.2.writeSteps x.core f.val (r.1.map (·.1)) (if set then some e else none) (v.toNat % 2 ^ 16))))

/-- R186, R187, R206, R207, R209: the mirror does the operation at the head of a context's queue and takes it from there. `mmode`
sets the mode; `mswap` exchanges the planes of its array's segments and of no other; `mseg` forms one array; `mzero` makes the
entries of its tile zero and no other byte of memory; `mepl` gives its eyepiece the row's record and its source. R191, R192,
R208: a row that `mstream` takes meets the live planes block by block in every column, and their sums enter the entries, which
`.init` makes zero first, and no other byte changes: in int8 the sum is exact and wraps or saturates, in a float mode it is
rounded to the nearest. R205: `mlds` of an int8 tile puts its bytes in the shadow planes and zero past the tile. R210: a row
that `mdrain` takes is written element by element, and `.clr` zeroes its entries. R205, R210, R215, R267: the first completion
of its kind that a context waits for sets its flag, or its error bit besides, in the context that issued the operation, and is
no longer due. The model's own readings in it: log 47, 48. -/
def Obligations.MirrorWork : Prop :=
  (∀ (x : CtxId) (o : MirrorOp) (rest : List MirrorOp) (s : State), (s.ctx x).mqueue = o :: rest →
     let does (p : State → Prop) : Prop := ∃ t : State, exec (.mOperationExecute x) s = .next t ∧ (t.ctx x).mqueue = rest ∧
       (t.ctx x).regs = (s.ctx x).regs ∧ p t
     let m := (s.ctx x).mmode
     let es := mmEntry m
     let id := if o.row = 0 then s.nextId else o.id
     let row (n : Nat) (p : State → Prop) : Prop := ∃ t : State, exec (.mOperationExecute x) s = .next t ∧
       (t.ctx x).regs = (s.ctx x).regs ∧ p t ∧ (n ≤ o.row + 1 → (t.ctx x).mqueue = rest) ∧
       (o.row + 1 < n → ∃ p : MirrorOp, (t.ctx x).mqueue = p :: rest ∧ p.instr = o.instr ∧ p.row = o.row + 1 ∧ p.q = o.q)
     (∀ m p b w a, o.instr = .mmode m p b w a → does fun t => t.mem = s.mem ∧
       (t.ctx x).mmode.toNat = m.toNat * 256 + p.toNat * 128 + b.toNat * 64 + w.toNat * 8 + a.toNat) ∧
     (∀ a, o.instr = .mswap a → does fun t => t.mem = s.mem ∧ ∀ i : Fin 16,
       let g := (s.core x.core).seg.get i
       (t.core x.core).seg.get i =
         if i ∈ (s.core x.core).arraySegs a then { g with sel := !g.sel, live := g.shadow, shadow := g.live } else g) ∧
     (∀ f r c, o.instr = .mseg f r c → does fun t => t.mem = s.mem ∧ ∀ i : Fin 16, f.val ≤ i.val →
       i.val < f.val + 2 ^ r.toNat * 2 ^ c.toNat →
       let g := (t.core x.core).seg.get i
       g.first = f ∧ g.grc.val = r.toNat ∧ g.gcc.val = c.toNat ∧ g.err = none) ∧
     (∀ q, o.instr = .mzero q → Memory.wf s.mem = true →
       let u := tileOf (o.q.get q)
       let k0 := s.windowKey x.core 1 (16 * u.base + o.row * u.len * es)
       row u.rows fun t => ∀ k, t.byteAt k = if k0 ≤ k ∧ k < k0 + u.len * es then 0 else s.byteAt k) ∧
     (∀ e q l, o.instr = .mepl e q →
       let u := tileOf (o.q.get q)
       s.aliasLoc x.core (o.rowVa u true 0) = .ok l → PlainFor s o.owner .a 0 l (recordBytes m true u.len) →
       let r := sourceRecord m (mmA m - 2) 0 0 0 0 1 u.len (o.rowVa u true 0)
       does fun t => t.mem = s.mem ∧ ∀ f, (t.core x.core).eye.get f =
         if f = e then { data := placeBytes s l (recordBytes m true u.len), lost := false, record := r }
         else (s.core x.core).eye.get f) ∧
     (∀ a q init l, o.instr = .mstream a q init →
       let u := tileOf (o.q.get q)
       let n := arrayCols ((s.core x.core).seg.get a) m
       let blocks := (List.range (blockCount m u.len)).map (recordBlock m true (placeBytes s l (recordBytes m true u.len)) u.len)
       let k0 := s.windowKey x.core 1 (16 * u.base + o.row * n * es)
       s.aliasLoc x.core (o.rowVa u true o.row) = .ok l → PlainFor s o.owner .a 0 l (recordBytes m true u.len) →
       Memory.wf s.mem = true → 16 * u.base + (o.row + 1) * n * es ≤ 2 ^ 18 →
       row u.rows fun t =>
         (∀ c < n, t.bytesAt (k0 + c * es) es =
           ((if init then Entry.zero else entryOf m (s.bytesAt (k0 + c * es) es)).stream m
             (blocks.mapIdx fun j b => (b, s.planeBlock x.core a m c j))).bytes m) ∧
         ∀ k, k < k0 ∨ k0 + n * es ≤ k → t.byteAt k = s.byteAt k) ∧
     (∀ f q fmt clr l, o.instr = .mdrain f q fmt clr →
       let u := tileOf (o.q.get q)
       let w := drainBytes fmt
       let k0 := s.windowKey x.core 1 (16 * u.base + o.row * u.len * es)
       let out (n : Nat) := (entryOf m (s.bytesAt (k0 + n * es) es)).drain m fmt
       let keys := (List.range (u.len * w)).map fun i => s.keyOf (l.add i)
       s.aliasLoc x.core (o.rowVa u false o.row) = .ok l → Memory.wf s.mem = true → 16 * u.base + (o.row + 1) * u.len * es ≤ 2 ^ 18 →
       keys.Nodup → (∀ k ∈ keys, k < k0 ∨ k0 + u.len * es ≤ k) →
       (∀ v ∈ s.views, v.follows { owner := o.owner, path := some .a, cmd := some id, cls := 0, scope := o.scope } = false) →
       row u.rows fun t =>
         (∀ n < u.len, ∀ i < w, t.byteAt (s.keyOf (l.add (n * w + i))) = (bytesOf w (out n).1).getD i 0) ∧
         (∀ k, k ∉ keys → t.byteAt k = if clr = true ∧ k0 ≤ k ∧ k < k0 + u.len * es then 0 else s.byteAt k) ∧
         (∀ i < 8, (t.ctx x).mflags.getLsbD i = ((s.ctx x).mflags.getLsbD i || (List.range u.len).any fun n => (out n).2.testBit i)) ∧
         (t.core x.core).flagsDue = (s.core x.core).flagsDue ++ (if u.rows ≤ o.row + 1 then
           [({ owner := o.owner, flag := f, err := none, what := .drain, first := id, id := id } : FlagDue)] else [])) ∧
     (∀ a f p q, o.instr = .mlds a f p q → mmMode m = 0 → (∀ r ∈ o.places, PlainFor s o.owner .a 0 r.loc r.len) → Memory.wf s.mem = true →
       let v := o.q.get q
       let rows := v.toNat % 2 ^ 9 + 1
       let g := (s.core x.core).seg.get a
       let b := o.places.flatMap fun r => placeBytes s r.loc r.len
       does fun t =>
         (∀ i ∈ (s.core x.core).arraySegs a, ((t.core x.core).seg.get i).shadow.mode = some m ∧ ∀ r < 128, ∀ c < 128,
           let y := (i.val - g.first.val) % g.gr * 128 + r
           let z := (i.val - g.first.val) / g.gr * 128 + c
           t.byteAt (s.planeKey x.core i 1 + 128 * r + c) =
             if y < rows ∧ z ≤ v.toNat / 2 ^ 9 % 2 ^ 10 then b.getD (z * ((rows + 31) / 32 * 32) + y) 0 else 0) ∧
         (∀ k, (∀ i ∈ (s.core x.core).arraySegs a, k < s.planeKey x.core i 1 ∨ s.planeKey x.core i 1 + 2 ^ 15 ≤ k) →
           t.byteAt k = s.byteAt k) ∧
         (t.core x.core).flagsDue = (s.core x.core).flagsDue ++
           [{ owner := o.owner, flag := f, err := none, what := .load a, first := id, id := id }]) ∧
     (∀ n id f, o.instr = .mcall n id f → o.routine = none → ∃ t : State, exec (.mOperationExecute x) s = .next t ∧ t.mem = s.mem ∧
       ∃ op r, (t.ctx x).mqueue = op :: rest ∧ op.instr = o.instr ∧ op.routine = some r ∧ r.pc = (s.routineEntry x.core n.val).1 ∧
         (t.ctx x).regs = (s.ctx x).regs)) ∧
  (∀ (x : CtxId) (s : State),
     ∀ p ∈ [(Instr.mldsCompletion x, fun k : DueKind => k.isLoad), (.mdrainCompletion x, fun k => k == .drain), (.routineCompletion x, fun k => k == .routine)],
     (s.firstDue x p.2 = none → exec p.1 s = .next s) ∧
     ∀ d, s.firstDue x p.2 = some d → (s.ctx x).serial = d.owner.serial → (s.ctx x).resident = true → (s.ctx x).levels = [] →
       ∃ t : State, exec p.1 s = .next t ∧ (t.core x.core).flagsDue = (s.core x.core).flagsDue.erase d ∧
         (t.ctx x).flags.set = (s.ctx x).flags.set ||| mask32 d.flag ∧
         (t.ctx x).flags.err = (s.ctx x).flags.err ||| (if d.err.isSome then mask32 d.flag else 0) ∧
         t.finished = s.finished ++ [{ owner := d.owner, flag := d.flag, first := d.first, id := d.id }] ∧ t.mem = s.mem ∧
         (t.ctx x).regs = (s.ctx x).regs) ∧
  (∀ (e : Entry) (m : BitVec 11) (qa qw : List Int) (ua uw : Int) (sa sw : Nat), mmMode m = 0 →
     let r := e.meet m { layers := [(qa, ua)], status := sa } { layers := [(qw, uw)], status := sw }
     let y := e.sig + ((qa.zip qw).map fun p => p.1 * p.2).sum
     (mmOpt m = false → r.sig = y.bmod (2 ^ 32) ∧ r.st = e.st ||| sa ||| sw) ∧
     (mmOpt m = true → r.sig = max (-2 ^ 31) (min (2 ^ 31 - 1) y) ∧
       r.st = e.st ||| sa ||| sw ||| (if -2 ^ 31 ≤ y ∧ y < 2 ^ 31 then 0 else stSat))) ∧
  (∀ (wa : Nat) (a p : Int × Int), (p.1 = 0 → wadd wa a p = a) ∧ (p.1 ≠ 0 → a.1 = 0 → wadd wa a p = p) ∧
     ∀ ta tp : Nat, 2 ^ ta ≤ a.1.natAbs → a.1.natAbs < 2 ^ (ta + 1) → 2 ^ tp ≤ p.1.natAbs → p.1.natAbs < 2 ^ (tp + 1) →
       let g : Int := max (ta + a.2) (tp + p.2) - (wa - 3)
       let e := min a.2 p.2
       let y := a.1 * 2 ^ (a.2 - e).toNat + p.1 * 2 ^ (p.2 - e).toNat
       ∃ q : Int, Nearest (decide (y < 0)) y.natAbs e q g ∧
         wadd wa a p = if q = 0 then (0, 0) else if q = 2 ^ (wa - 1) then (q / 2, g + 1) else (q, g))

/-- The checks of a command's registers, those of R237 to R242 for the copies, of R354 to R356 for maintenance and pins, of
R361 and R368 for the stash and the versions, of R375 to R376 for the channels and of R384, R386 and R390 for groups,
reductions and rings: a command whose registers pass them is withheld with what it read, in the queue of its slot; memory and
every register stand. A `cmcast` of a user raises PRIV. R335: in deterministic mode one whose registers name a scratchpad
outside the open phase raises PHASE at its issue, and not otherwise. Which named bits must be zero in which use is the model's
reading where the spec calls them reserved in some uses only. The model's own readings in it: log 37, 39, 49. -/
def Obligations.Commands : Prop :=
  ∀ (n : Fin 16) (f : Fin 32) (a b c : Fin 64) (s : State),
    let x := (s.readS a).val
    let y := (s.readS b).val
    let z := (s.readS c).val
    let z1 := (s.readS (nextReg c)).val
    let withheld (i : Instr) (ra rb rc : Fin 64) : Prop := Ready i s →
      (∀ va, s.spanMisses i (s.cmdRegs ra rb rc) = some va → s.cx.deterministic = true ∧
        Stops i s (.raise .phase { Info.none with addr := va, detail := phaseDetail s.cx.regs.phase })) ∧
      (s.cx.deterministic = false ∨ s.spanMisses i (s.cmdRegs ra rb rc) = none → ∃ (t : State) (k : Command), exec i s = .next t ∧
      t.cx.commands = s.cx.commands ++ [k] ∧ k.instr = i ∧ k.queue = (if s.cur.pos = .c1 then 1 else 0) ∧
      k.a = (s.readS ra).val ∧ k.b = (s.readS rb).val ∧ k.c = (s.readS rc).val ∧ k.c1 = (s.readS (nextReg rc)).val ∧
      k.scope = s.cur.scope ∧ k.owner = { ctx := s.cur.ctx, serial := s.cx.serial } ∧
      t.mem = s.mem ∧ t.cx.regs = s.cx.regs ∧ t.cx.flags = s.cx.flags ∧ t.cx.withheld = s.cx.withheld)
    let shape : Prop := c.val = 63 → bits z 24 24 = 0
    let size : Nat := credBytes (bits z 48 4)
    let range (u : Nat) : Prop := x.toNat % u = 0 ∧ y.toNat % u = 0 ∧ 0 < y.toNat ∧ x.toNat + y.toNat ≤ 2 ^ 56
    let message : Prop := 0 < y.toNat ∧ y.toNat ≤ 2 ^ 24 ∧ chBound (s.channelEntry (z.toNat % 256)) = true
    (∀ i ∈ [Instr.cpy n f a b c, .cfill n f a b c], z.toNat < 2 ^ 48 → shape → withheld i a b c) ∧
    (size ≠ 0 → bits z 52 3 = 0 → (flag z 55 = true → bits z 48 4 = 6) → shape → x.toNat % size = 0 → y.toNat % size = 0 →
      (bits z 0 24 + 1) % size = 0 → (s.cx.deterministic = true → bits z 48 4 = 2 ∨ bits z 48 4 = 4) →
      withheld (.cred n f a b c) a b c) ∧
    (∀ i ∈ [Instr.cgath n f a b c, .cscat n f a b c], z.toNat < 2 ^ 36 → z1.toNat % 4 = 0 → withheld i a b c) ∧
    (z.toNat < 2 ^ 24 → x.toNat < 2 ^ 22 → withheld (.cbcast n f a b c) a b c) ∧
    (z.toNat % 32 = 0 → z1.toNat % 32 = 0 → withheld (.cxfm n f a b c) a b c) ∧
    (saveKeyBad z = false → y.toNat % 32 = 0 → withheld (.cstashSave n f a b c) a b c) ∧
    (bits z 48 15 = 0 → y.toNat % 32 = 0 → withheld (.cstashGet n f a b c) a b c) ∧
    (∀ i ∈ [Instr.cstashPf n f c, .cstashDrop n f c], z.toNat < 2 ^ 48 → withheld i 0 0 c) ∧
    (∀ i ∈ [Instr.cverFork n f a, .cverRetire n f a, .cverSettle n f a], x.toNat < 2 ^ 10 → flag x 7 = false → flag x 3 = false →
      withheld i a 0 0) ∧
    (∀ i ∈ [Instr.csend n f a b c, .crecv n f a b c], message → bits z 8 24 = 0 → (i = .crecv n f a b c → z.toNat < 2 ^ 8) →
      withheld i a b c) ∧
    (∀ i ∈ [Instr.cmaintClean n f a b c, .cmaintFlush n f a b c, .cmaintInval n f a b c, .cmaintTlb n f a b c],
      maintBad z = false → (2 ≤ bits z 0 3 → s.supervisor = true) → range (if bits z 0 3 = 3 then 2 ^ 16 else 128) → withheld i a b c) ∧
    (∀ i ∈ [Instr.cpin n f a b c, .cpinUnpin n f a b c], z.toNat < 2 → range (2 ^ 16) → withheld i a b c) ∧
    (s.supervisor = true → x.toNat % 64 = 0 → withheld (.cmcast n f a b) a b 0) ∧
    (s.supervisor = false → Ready (.cmcast n f a b) s → Stops (.cmcast n f a b) s (.raise .priv Info.none)) ∧
    ((nredChecks s (s.cmdRegs a b c)).all (fun p => !p.1) = true → withheld (.cnred n f a b c) a b c) ∧
    ((ringChecks s (s.cmdRegs a b c)).all (fun p => !p.1) = true →
      ∀ i ∈ [Instr.cringReduceScatter n f a b c, .cringAllGather n f a b c, .cringReduceScatterF32 n f a b c,
        .cringAllGatherF32 n f a b c], withheld i a b c)

/-- R237, R238, R240: the command at the head of its queue begins with every page of its rows pinned, and has moved nothing; one
that finds a page it cannot pin fails before it moves anything. R239, R241, R242: the next row of a copy, a gather, a scatter
or a broadcast moves its bytes, of a fill its pattern, of a reduction the sums, of a transformation the row it makes, and no
other byte changes; the last row leaves the command done. R362: a put makes an object of its bytes and a get writes an
object's bytes. R376: a send hands its bytes to its peer, or puts them in the window that waits. R260, R267: a completion
sets the flag, with its error bit if the command failed, takes the command from its queue, and waits at domain scope for the
acknowledgments of its writes; with it a put's object enters the directory, a get's or a drop's leaves it, and a version is
forked, retired or settled (R368). R365: a prefetch is taken. The model's own readings in it: log 5, 52, 63, 103, 108. -/
def Obligations.CommandWork : Prop :=
  ∀ (x : CtxId) (q : Fin 2) (n : Fin 16) (f : Fin 32) (ra rb rc : Fin 64) (s : State),
    let head (c : Command) : Prop := s.canBegin x.core q = some c ∧ c.owner.ctx = x ∧ s.walkerFull x.core = false ∧ Uncontested s
    let runs (p : State → Prop) : Prop := ∃ t : State, exec (.commandExecute x.core q) s = .next t ∧ (t.ctx x).regs = (s.ctx x).regs ∧ p t
    let ends (t : State) (c : Command) (p : Done → Prop) : Prop := ∃ d : Done, (t.core x.core).done = (s.core x.core).done ++ [d] ∧
      d.cmd = c ∧ p d
    let reads (c : Command) (y : Piece) (n : Nat) : Prop := y.len = n ∧ PlainPlace y.loc n ∧ PlainFor s c.owner c.path 0 y.loc n
    (∀ c, head c → (c.instr = .cpy n f ra rb rc ∨ c.instr = .cfill n f ra rb rc ∨ c.instr = .cred n f ra rb rc) →
      let z := c.c.toNat
      let n1 := z / 2 ^ 24 % 2 ^ 12 + 1
      let n2 := z / 2 ^ 36 % 2 ^ 12 + 1
      let len := z % 2 ^ 24 + 1
      let a : Acc := if c.instr = .cred n f ra rb rc then .atomic else .write
      let into (i j : Nat) : Nat := (c.a.toNat + j * (c.c1.toNat / 2 ^ 48) * 4096 + i * (c.c1.toNat / 2 ^ 16 % 2 ^ 16) * 16) % 2 ^ 64
      let from_ (i j : Nat) : Nat := (c.b.toNat + j * (c.c1.toNat / 2 ^ 32 % 2 ^ 16) * 4096 + i * (c.c1.toNat % 2 ^ 16) * 16) % 2 ^ 64
      (∀ i < n1, ∀ j < n2, (∃ ds, s.pinSpan c a (into i j) len = .ok ds) ∧
        (c.instr ≠ .cfill n f ra rb rc → ∃ bs, s.pinSpan c .read (from_ i j) len = .ok bs)) →
      runs fun t => t.mem = s.mem ∧ ∃ v, t.movingAt x.core q = some v ∧ v.cmd = c ∧ v.ws = [] ∧ v.xfm = none ∧
        v.rows.length = n1 * n2 ∧ ∀ i < n1, ∀ j < n2, ∃ r, v.rows[j * n1 + i]? = some r ∧ r.va = BitVec.ofNat 56 (into i j) ∧
          r.len = len ∧ s.pinSpan c a (into i j) len = .ok r.dst ∧
          (c.instr = .cfill n f ra rb rc → r.src = []) ∧ (c.instr ≠ .cfill n f ra rb rc → s.pinSpan c .read (from_ i j) len = .ok r.src)) ∧
    (∀ c p, head c → (c.instr = .cgath n f ra rb rc ∨ c.instr = .cscat n f ra rb rc) →
      let m := c.c.toNat / 2 ^ 24 % 2 ^ 12 + 1
      let len := c.c.toNat % 2 ^ 24 + 1
      let t0 := s.touchPieces c [p]
      let at_ (k : Nat) : Nat := leAt (placeBytes s p.loc p.len) (4 * k) 4
      let into (k : Nat) : Nat := (c.a.toNat + (if c.instr = .cscat n f ra rb rc then at_ k else k) * len) % 2 ^ 64
      let from_ (k : Nat) : Nat := (c.b.toNat + (if c.instr = .cscat n f ra rb rc then k else at_ k) * len) % 2 ^ 64
      s.pinSpan c .read c.c1.toNat (4 * m) = .ok [p] → reads c p (4 * m) →
      (∀ k < m, (∃ ds, t0.pinSpan c .write (into k) len = .ok ds) ∧ ∃ bs, t0.pinSpan c .read (from_ k) len = .ok bs) →
      runs fun t => t.mem = s.mem ∧ ∃ v, t.movingAt x.core q = some v ∧ v.cmd = c ∧ v.ws = [] ∧ v.xfm = none ∧
        v.rows.length = m ∧ ∀ k < m, ∃ r, v.rows[k]? = some r ∧ r.len = len ∧ t0.pinSpan c .write (into k) len = .ok r.dst ∧
          t0.pinSpan c .read (from_ k) len = .ok r.src) ∧
    (∀ c e, head c → (c.instr = .cpy n f ra rb rc ∨ c.instr = .cfill n f ra rb rc) → c.c.toNat < 2 ^ 24 →
      s.pinSpan c .write c.a.toNat (c.c.toNat + 1) = .error e → runs fun t => t.mem = s.mem ∧ ends t c fun d => d.err = some e) ∧
    (∀ (v : Moving) (r : Row) (rs : List Row) (p y : Piece), s.movingAt x.core q = some v → v.cmd.owner.ctx = x → v.rows = r :: rs →
      r.dst = [p] → Takes s v.cmd p.loc p.len → Uncontested s → Memory.wf s.mem = true →
      let writes (b : Nat → Byte) : Prop := runs fun t =>
        (∀ i < p.len, t.byteAt (s.keyOf (p.loc.add i)) = b i) ∧ (∀ k, k ∉ placeKeys s p.loc p.len → t.byteAt k = s.byteAt k) ∧
        (rs = [] → ends t v.cmd fun d => d.err = none) ∧
        (rs ≠ [] → ∃ w, t.movingAt x.core q = some w ∧ w.cmd = v.cmd ∧ w.rows = rs)
      let sourced : Prop := r.src = [y] ∧ reads v.cmd y r.len ∧ s.heldSpan [y] = r.len ∧
        ∀ k ∈ placeKeys s y.loc r.len, k ∉ placeKeys s p.loc p.len
      (∀ i ∈ [Instr.cpy n f ra rb rc, .cgath n f ra rb rc, .cscat n f ra rb rc, .cbcast n f ra rb rc], v.cmd.instr = i → v.xfm = none →
        p.len = r.len → sourced → writes fun i => s.byteAt (s.keyOf (y.loc.add i))) ∧
      (v.cmd.instr = .cfill n f ra rb rc → v.xfm = none → r.src = [] → p.len = r.len →
        writes fun i => BitVec.ofNat 8 (v.cmd.b.toNat / 2 ^ (8 * ((r.va.toNat + i) % 8)))) ∧
      (v.cmd.instr = .cred n f ra rb rc → v.xfm = none → p.len = r.len → sourced →
        let w := credBytes (v.cmd.c.toNat / 2 ^ 48 % 2 ^ 4)
        w ≠ 0 → p.len % w = 0 → p.loc.pa.toNat % w = 0 → (∀ k ∈ placeKeys s p.loc p.len, s.lostAt k = false) →
        (∀ e < p.len / w, s.homeRefuses (p.loc.add (e * w)) w = false) →
        writes fun i =>
          let old := valueAt s (p.loc.add (i / w * w)) w
          let new := valueAt s (y.loc.add (i / w * w)) w
          let sum : Nat := match v.cmd.c.toNat / 2 ^ 48 % 2 ^ 4 with
            | 0x2 | 0x4 => (old + new) % 2 ^ 32
            | 0x7 => (FFmt.f32.add .rne old new).1
            | 0xA => (FFmt.f64.add .rne old new).1
            | _ => if v.cmd.c.getLsbD 55 = false then (FFmt.bf16.add .rne old new).1
              else credValue v.cmd (r.va + BitVec.ofNat 56 (i / w * w)) old new
          (bytesOf w sum).getD (i % w) 0) ∧
      (∀ z, v.xfm = some z → z.bad = false → bits z.dst 128 31 ≠ 0 → p.len = hdrRowBytes z.dst → sourced →
        writes fun i => (xfmRow z.table z.src z.dst r.va.toNat (placeBytes s y.loc r.len)).getD i 0)) ∧
    (∀ c p y, head c →
      let h := BitVec.ofNat 256 (valueAt s p.loc 32)
      let m := hdrRows h * hdrRowBytes h
      s.pinSpan c .read c.b.toNat 32 = .ok [p] → reads c p 32 →
      (c.instr = .cstashSave n f ra rb rc → bits c.c 61 3 < 3 → saveOk (s.core x.core) (c.c.setWidth 256) h = true →
        (s.touchPieces c [p]).pinSpan c .read c.a.toNat m = .ok [y] → reads c y m →
        runs fun t => t.mem = s.mem ∧ t.stash = s.stash ∧ ends t c fun d => d.err = none ∧ ∃ o, d.obj = some o ∧
          o.data = placeBytes s y.loc m ∧ o.key = c.stashKey ∧ o.header = h ∧ o.lossy = none ∧ o.lost = []) ∧
      (∀ o, c.instr = .cstashGet n f ra rb rc → hdrValid h = true → s.findStash c.stashKey = some o → getOk (s.core x.core) o h = true →
        o.lossy = none → o.lost = [] → o.data.length = m → (s.touchPieces c [p]).pinSpan c .write c.a.toNat m = .ok [y] →
        y.len = m → Takes s c y.loc m → Memory.wf s.mem = true →
        runs fun t => t.stash = s.stash ∧ (ends t c fun d => d.err = none) ∧
          (∀ i < m, t.byteAt (s.keyOf (y.loc.add i)) = o.data.getD i 0) ∧
          ∀ k, k ∉ placeKeys s y.loc m → t.byteAt k = s.byteAt k)) ∧
    (∀ c p, head c → c.instr = .csend n f ra rb rc →
      let e := s.channelEntry (chanOf c).val
      chBound e = true → s.homeDead (chPeer e) = false → s.pinSpan c .read c.a.toNat c.b.toNat = .ok [p] → s.homeDead p.loc.home = false →
      (chPeer e ≠ s.fabric.coord → runs fun t => t.mem = s.mem ∧ ends t c fun d => d.err = none ∧ d.outside = true ∧
        d.dst = some (s.fabric.dom, chPeer e)) ∧
      (∀ w y, chPeer e = s.fabric.coord →
        let ch : Fin 256 := ⟨chPch e % 256, Nat.mod_lt _ (by decide)⟩
        chAccepts (s.channelEntry ch.val) s.fabric.coord (chanOf c).val = true → reads c p c.b.toNat → 0 < p.len →
        WindowTakes s ch w y p.len → Memory.wf s.mem = true →
        runs fun t => (∃ d ∈ (t.core x.core).done, d.cmd = c ∧ d.err = none) ∧
          (∀ i < p.len, t.byteAt (s.keyOf (y.loc.add (w.fill + i))) = s.byteAt (s.keyOf (p.loc.add i))) ∧
          ∀ k, (∀ i < p.len, k ≠ s.keyOf (y.loc.add (w.fill + i))) → t.byteAt k = s.byteAt k)) ∧
    (∀ j d, (s.core x.core).done[j]? = some d → (∀ p ∈ s.fabric.sent, p.cmd ≠ some d.cmd.id) → s.unsettled d.cmd.id = false →
      s.walksOn d = false → d.cmd.owner = { ctx := x, serial := (s.ctx x).serial } → (s.ctx x).resident = true → (s.ctx x).levels = [] →
      (4 ≤ d.cmd.scope.val → s.acksFor (fun v => v.cmd == some d.cmd.id) = true → ∀ o, exec (.commandCompletion x.core j o) s = .next s) ∧
      (d.cmd.scope.val < 4 ∨ s.acksFor (fun v => v.cmd == some d.cmd.id) = false →
        let completes (e : Option Cause) (p : State → Prop) : Prop := ∀ o, ∃ t : State,
          exec (.commandCompletion x.core j o) s = .next t ∧ (t.ctx x).regs = (s.ctx x).regs ∧
          (t.core x.core).done = (s.core x.core).done.eraseIdx j ∧
          (t.core x.core).queue.get d.cmd.queue = ((s.core x.core).queue.get d.cmd.queue).filter (fun c => c.id != d.cmd.id) ∧
          (t.ctx x).flags.set = (s.ctx x).flags.set ||| mask32 (cmdFlag d.cmd.instr) ∧
          (t.ctx x).flags.err = (s.ctx x).flags.err ||| (if e.isSome then mask32 (cmdFlag d.cmd.instr) else 0) ∧ p t
        let key := d.cmd.stashKey
        let k := teamStage d.cmd.team
        let v := verNum d.cmd.a
        let clean : Prop := d.err = none ∧ d.outside = false
        (∀ e, d.err = some e → (∀ m f a b c, d.cmd.instr ≠ .crecv m f a b c) → completes (some e) fun t => t.mem = s.mem ∧ t.stash = s.stash) ∧
        (clean → d.cmd.instr = .cpy n f ra rb rc → completes none fun t => t.mem = s.mem) ∧
        (∀ o p z, clean → d.cmd.instr = .cstashSave n f ra rb rc → d.obj = some o → s.findStash o.key = none → s.stash.length < 16384 →
          s.stashPlace o (saveTr d.cmd.c) = some (p, z) →
          completes none fun t => t.mem = s.mem ∧ t.stash = s.stash ++ [{ o with place := p, size := z }]) ∧
        (∀ o, clean → d.cmd.instr = .cstashSave n f ra rb rc → d.obj = some o →
          (s.findStash o.key).isSome = true ∨ s.stashPlace o (saveTr d.cmd.c) = none →
          completes (some .engine) fun t => t.mem = s.mem ∧ t.stash = s.stash) ∧
        (clean → (d.cmd.instr = .cstashDrop n f rc ∨ (d.cmd.instr = .cstashGet n f ra rb rc ∧ d.cmd.c.getLsbD 63 = true)) →
          completes none fun t => t.mem = s.mem ∧ t.stash = s.stash.filter fun o => o.key != key) ∧
        (clean → d.cmd.instr = .cverFork n f ra → verKind d.cmd.a = 0 → Memory.wf s.mem = true → (∀ p ∈ s.priv, p.2.2 < 2 ^ 56) →
          let src := verSrc d.cmd.a
          (flag (s.vrb.get k) 63 = true → s.versionLive k src = true → s.versionLive k v = false → completes none fun t =>
            t.versionLive k v = true ∧ t.versionLive k src = true ∧ ∀ line, (k, src, line) ∈ s.priv → (k, v, line) ∈ t.priv ∧
              ∀ i < 128, t.byteAt (privLineKey k v line + i) = s.byteAt (privLineKey k src line + i)) ∧
          (s.versionLive k v = true → completes (some .engine) fun t => t.mem = s.mem ∧ t.priv = s.priv ∧ t.vrb = s.vrb)) ∧
        (clean → d.cmd.instr = .cverRetire n f ra → verKind d.cmd.a = 1 → s.versionLive k v = true →
          completes none fun t => t.versionLive k v = false ∧ ∀ line, (k, v, line) ∉ t.priv) ∧
        (clean → d.cmd.instr = .cverSettle n f ra → verKind d.cmd.a = 2 → (∀ w, s.versionLive k w = decide (w = v)) →
          Memory.wf s.mem = true → (∀ p ∈ s.priv, p.2.2 < 2 ^ 56) → s.priv.Nodup →
          (∀ line ∈ s.privLines k v, s.elsewhere line = false) →
          (∀ w ∈ s.views, w.follows d.cmd.author = false) → completes none fun t => t.versionLive k v = true ∧
            ∀ line ∈ s.privLines k v, (k, v, line) ∉ t.priv ∧
              ∀ i < 128, t.byteAt (line * 128 + i) = s.byteAt (privLineKey k v line + i)))) ∧
    (∀ k l, s.prefetch = k :: l → ∃ t : State, exec .stashPrefetch s = .next t ∧ t.prefetch = l ∧ t.mem = s.mem ∧
      t.stash.length = s.stash.length)

/-! ## Events of the cores -/

/-- R252, R261, R262, R264, R279: a released store that may perform writes its lanes' bytes, and no other byte of memory, and leaves its
list; one that its home refuses is parked and counted; a retry sends parked stores again and a drop discards the queue; a counter's
add performs as an add that saturates; a release flush leaves no dirty line. The model's own readings in it: log 61, 76. -/
def Obligations.StoresPerform : Prop :=
  ∀ (x : CtxId) (n : Nat) (s : State),
    let keys (l : Lane) : List Nat := (List.range l.bytes.length).map fun i => s.keyOf (l.loc.add i)
    (∀ o, (s.ctx x).released[n]? = some o → s.mayPerform x n = true → o.kind = .plain → Memory.wf s.mem = true →
      (∀ l ∈ o.lanes, Held s l.loc l.bytes.length ∧ l.loc.ver = none ∧ s.homeRefuses l.loc l.bytes.length = false ∧ s.homeDead l.loc.home = false ∧
        (isWindow l.loc.pa.toNat && windowSpace l.loc.pa.toNat == 5) = false) → (o.lanes.flatMap keys).Nodup →
      ∃ t : State, exec (.releasedStorePerform x n) s = .next t ∧
        (∀ l ∈ o.lanes, ∀ i (h : i < l.bytes.length), t.byteAt (s.keyOf (l.loc.add i)) = l.bytes[i]) ∧
        (∀ k, k ∉ o.lanes.flatMap keys → t.byteAt k = s.byteAt k) ∧
        (t.ctx x).released = (s.ctx x).released.eraseIdx n ∧ (t.ctx x).regs = (s.ctx x).regs) ∧
    (∀ o prot, (s.ctx x).released[n]? = some o → s.mayPerform x n = true → o.kind = .plain →
      ∃ t : State, exec (.storeRefused x n prot) s = .next t ∧ t.mem = s.mem ∧
        (t.ctx x).released = (s.ctx x).released.take n ++ { o with parked := some (if prot then .prot else .xlate), resent := none } ::
          ((s.ctx x).released.drop (n + 1)).map o.backBehind ∧
        (t.ctx x).reg.refused = (s.ctx x).reg.refused + 1 ∧ t.waiting.length = s.waiting.length + 1) ∧
    (∃ t : State, exec (.rqctlRetry x) s = .next t ∧ t.mem = s.mem ∧ (t.ctx x).released.length = (s.ctx x).released.length ∧
      ∀ o ∈ (t.ctx x).released, o.parked = none) ∧
    (∃ t : State, exec (.rqctlDrop x) s = .next t ∧ t.mem = s.mem ∧
      (t.ctx x).released = (s.ctx x).released.filter fun o => o.parked.isNone && o.resent.isNone) ∧
    (∀ o far dom pkg num add, (s.ctx x).released[n]? = some o → s.mayPerform x n = true → o.kind = .counter far dom pkg num add →
      o.lanes = [] → far = false → (s.counters.Pairwise fun p q => p.1 < q.1) →
      ∃ t : State, exec (.counterAdd x n) s = .next t ∧ t.mem = s.mem ∧
        (t.counter num).toNat = min ((s.counter num).toNat + add.toNat) (2 ^ 64 - 1) ∧
        (∀ m, m ≠ num → t.counter m = s.counter m) ∧ (t.ctx x).released = (s.ctx x).released.eraseIdx n) ∧
    (s.flush ≠ [] → ∃ t : State, exec .releaseFlush s = .next t ∧ t.flush = [] ∧ t.mem = s.mem ∧
      ∀ c, ∀ l ∈ (t.core c).l1, l.dirty = false)

/-- R52, R75, R116, R230, R275, R282, R352, R381: awaited load data arrives for the oldest result that awaits it; an overdue reply
replaces the late value where no other result has landed; a deadline that a freeze held back passes; a fill makes its register
resident; a walk ends, with its failure for the bundle that waits or none, a speculative load's also where its leaf would
refuse the load, and leaves memory and registers; a load block completes its flag; a watch whose counter is there fires, once; and
the pending interrupt of the context to be served is delivered. The model's own readings in it: log 61, 103. -/
def Obligations.Arrivals : Prop :=
  ∀ (x : CtxId) (s : State),
    (∀ d1 e d2, (s.ctx x).delay = d1 ++ e :: d2 → (∀ f ∈ d1, f.arrived = true ∨ f.rld = true) → e.arrived = false → e.rld = false →
      (∀ f ∈ (s.ctx x).delay, f.left ≠ 0) → (s.core x.core).bank = none → ∃ t : State, exec (.loadDataArrival x) s = .next t ∧
        (t.ctx x).delay = d1 ++ { e with arrived := true } :: d2 ∧ (t.ctx x).regs = (s.ctx x).regs ∧ t.mem = s.mem) ∧
    (∀ n o, (s.ctx x).overdue[n]? = some o → ∃ t : State, exec (.rldReply x n) s = .next t ∧ t.mem = s.mem ∧
      (t.ctx x).overdue = (s.ctx x).overdue.eraseIdx n ∧
      ∀ r, (t.ctx x).regs.s.get r = if o.live = true ∧ o.shadow = false ∧ r = o.d then o.x else (s.ctx x).regs.s.get r) ∧
    (∀ e ∈ (s.ctx x).delay, e.left = 0 → (s.ctx x).frozen = false → exec (.rldDeadline x) s = .next (s.boundary x)) ∧
    (∀ v t, s.fill x v [v] = .ok t → exec (.registerFill x v) s = .next t ∧ (t.core x.core).residentV x.slot v = true ∧
      ((s.core x.core).vslots.length < s.shareSlots x.core → t.mem = s.mem)) ∧
    (∀ va, ∃ t : State, exec (.pageWalk x va) s = .next t ∧ t.mem = s.mem ∧ (∀ y, SameContext (s.ctx y) (t.ctx y)) ∧
      ∀ w, (s.ctx x).walk = some w → w.va = va → w.running = true → w.failed = none →
        (∀ e, s.walk x.core va levels (ptTable w.ptroot) = .error e → (t.ctx x).walk = some { w with failed := some e }) ∧
        (∀ r, s.walk x.core va levels (ptTable w.ptroot) = .ok r → w.spec = none → (t.ctx x).walk = none) ∧
        (∀ leaf level sup n, s.walk x.core va levels (ptTable w.ptroot) = .ok (leaf, level) → w.spec = some (sup, n) →
          (t.ctx x).walk = if s.leafRefuses x va leaf level sup n then some { w with failed := some { cause := .prot, sub := 0 } } else none)) ∧
    (∀ n b d, (s.core x.core).blocks[n]? = some b → b.due = some d → d.owner = { ctx := x, serial := (s.ctx x).serial } →
      (s.ctx x).resident = true → (s.ctx x).levels = [] → ∃ t : State, exec (.ldBlkCompletion x.core n) s = .next t ∧ t.mem = s.mem ∧
        (t.ctx x).flags.set = (s.ctx x).flags.set ||| mask32 d.flag ∧ ∀ c ∈ (t.core x.core).blocks, c.id = b.id → c.due = none) ∧
    (∀ j, (s.ctx x).resident = true → s.watchDead x j = false → s.watchMet x j = true → (s.ctx x).levels = [] →
      let f := bits ((s.ctx x).wn.get j) 57 5
      ∃ t : State, exec (.watchFire x j) s = .next t ∧ (t.ctx x).flags.set = (s.ctx x).flags.set ||| BitVec.ofNat 32 (2 ^ f) ∧
        armed ((t.ctx x).wn.get j) = false ∧ (t.ctx x).regs = (s.ctx x).regs ∧ t.mem = s.mem) ∧
    (s.firstServed x.core = some x → exec (.userInterruptDelivery x) s = .next (s.deliverInterrupt x))

/-- R324, R326: the oldest waiting record is written at the queue's head where there is room, the head and the queue's counter
rise, and the context it concerns is halted with it; the supervisor configures the queue and moves its tail. R184, R221, R228,
R271, R281, R283, R366: what the supervisor writes to a slot's registers by core control acts as an `mts` of the slot would; a
value that breaks the register's rules changes nothing, and what lands at a context's boundary waits for a context. The model's own readings in it: log 9, 10,
27, 44. -/
def Obligations.Supervision : Prop :=
  (∀ (s : State),
     (∀ w ws, s.waiting = w :: ws → s.recordRoom = true → (∀ x, w.ctx = some x → (s.ctx x).mqueue = []) → Memory.wf s.mem = true →
       (s.counters.Pairwise fun p q => p.1 < q.1) →
       let base := homeKey s.fabric.coord (bits s.frq 12 40 * 4096 + 64 * (s.frHead.toNat % frqCapacity s.frq))
       let c : Fin 4096 := ⟨bits s.frq 52 12, Nat.mod_lt _ (by decide)⟩
       ∃ t : State, exec .faultRecordWrite s = .next t ∧ t.waiting = ws ∧ t.frHead = s.frHead + 1 ∧
         (∀ k, t.byteAt k = if base ≤ k ∧ k < base + 64 then BitVec.ofNat 8 (w.record.toNat / 256 ^ (k - base)) else s.byteAt k) ∧
         (t.counter c).toNat = min ((s.counter c).toNat + 1) (2 ^ 64 - 1) ∧
         ∀ x, w.ctx = some x → (t.ctx x).status = .halted ∧ (t.ctx x).resume = some w.record) ∧
     (s.recordRoom = false → ∃ t : State, exec .faultRecordWrite s = .next t ∧ t.waiting = s.waiting ∧ t.mem = s.mem) ∧
     (∀ v : Word, bits v 0 7 = 0 → bits v 8 4 ≤ 6 → ∃ t : State, exec (.frqWrite v) s = .next t ∧ t.frq = v) ∧
     (∀ v : Word, ∃ t : State, exec (.frposWrite v) s = .next t ∧ t.frTail.toNat = v.toNat / 2 ^ 32)) ∧
  (∀ (x : CtxId) (v : Word) (s : State),
     ((s.ctx x).resident = true → (s.ctx x).frozen = false → (s.ctx x).levels = [] → (∀ j, armed ((s.ctx x).wn.get j) = false) →
       ∃ t : State, exec (.flagsWrite x v) s = .next t ∧ t.mem = s.mem ∧
       (t.ctx x).flags.set = v.setWidth 32 ∧ (t.ctx x).flags.err = (v >>> 32).setWidth 32 ∧ (t.ctx x).regs = (s.ctx x).regs) ∧
     (v.toNat < 16 → v.setWidth 4 &&& s.otherQuarters x = 0 →
       (s.mirrorBusy x = false → ∃ t : State, exec (.mquartWrite x v) s = .next t ∧ (t.quarters x).toNat = v.toNat) ∧
       (s.mirrorBusy x = true → ∃ w : CtlWrite, exec (.mquartWrite x v) s = .next { s with ctlWrites := s.ctlWrites ++ [w] } ∧ w.val = v)) ∧
     (16 ≤ v.toNat ∨ v.setWidth 4 &&& s.otherQuarters x ≠ 0 → exec (.mquartWrite x v) s = .next s) ∧
     (carveBad v = false → s.carveFits x v = true → s.coreSettled x = true → ∀ u, s.carveSpill [(x, v)] = .ok u →
       ∃ t : State, exec (.carveWrite x v) s = .next t ∧ (t.core x.core).carve.get x.slot = v) ∧
     (carveBad v = true → exec (.carveWrite x v) s = .next s) ∧
     (∀ n : Fin 16, (s.ctx x).resident = true → hgBad v = false → ∃ t : State, exec (.hgWrite x n v) s = .next t ∧ t.mem = s.mem ∧
       ∀ m, (t.ctx x).regs.hg.get m = (if m = n then v else (s.ctx x).regs.hg.get m) ∧
         (t.ctx x).regs.hs.get m = if m = n then 0 else (s.ctx x).regs.hs.get m) ∧
     (∀ n : Fin 16, (s.ctx x).resident = true → hsBad ((s.ctx x).regs.hg.get n) v = false → ∃ t : State,
       exec (.hsWrite x n v) s = .next t ∧ t.mem = s.mem ∧ (t.ctx x).regs.hs.get n = v ∧ (t.ctx x).regs.hg = (s.ctx x).regs.hg) ∧
     (∀ (n : Fin 16), (s.ctx x).resident = false → exec (.hgWrite x n v) s = .next s ∧ exec (.hsWrite x n v) s = .next s) ∧
     ((s.ctx x).resident = false → ∀ i, (i = .flagsWrite x v ∨ ∃ j b, i = .watchEntryWrite x j b v) → ∃ w : CtlWrite,
       exec i s = .next { s with ctlWrites := s.ctlWrites ++ [w] } ∧ w.val = v ∧ w.core = x.core) ∧
     (∀ j : Fin 4, (s.ctx x).resident = true → (s.ctx x).frozen = false → (s.ctx x).levels = [] →
       (∀ k, k ≠ j → armed ((s.ctx x).wn.get k) = false) →
       let w := (s.ctx x).wn.get j
       let n : Fin 4096 := ⟨nameNum w % 4096, Nat.mod_lt _ (by decide)⟩
       (s.nameDead (watchName w) = false → ∃ t : State, exec (.watchEntryWrite x j true v) s = .next t ∧ (t.ctx x).wt.get j = v ∧
         (armed w = false ∨ s.nameHere (watchName w) = false ∨ (s.counter n).toNat < v.toNat → (t.ctx x).wn = (s.ctx x).wn) ∧
         (armed w = true → s.nameHere (watchName w) = true → v.toNat ≤ (s.counter n).toNat →
           armed ((t.ctx x).wn.get j) = false ∧ (t.ctx x).flags.set = (s.ctx x).flags.set ||| BitVec.ofNat 32 (2 ^ bits w 57 5))) ∧
       (armed v = false → ∃ t : State, exec (.watchEntryWrite x j false v) s = .next t ∧ (t.ctx x).wt = (s.ctx x).wt ∧
         ∀ i < 64, ((t.ctx x).wn.get j).getLsbD i = (v.getLsbD i && !(decide (31 ≤ i ∧ i < 57))))) ∧
     (∀ k : Fin 8, s.vrbBad k v = false → ∃ t : State, exec (.vrbWrite k v) s = .next t ∧
       (∀ i < 64, ¬(52 ≤ i ∧ i < 60) → (t.vrb.get k).getLsbD i = v.getLsbD i) ∧
       bits (t.vrb.get k) 52 8 = (if v.getLsbD 63 = true ∧ bits (s.vrb.get k) 52 8 = 0 then 1 else bits (s.vrb.get k) 52 8) ∧
       ∀ m, m ≠ k → t.vrb.get m = s.vrb.get m) ∧
     (∀ (w : Writer), ∀ n ∈ plainRegisters, s.ctlBad x n v = none → (s.ctx x).resident = true → ∃ t : State,
       exec (.coreControlWrite x.core (BitVec.ofNat 22 (x.slot.val * 0x20000 + 8 * n)) v w) s = .next t ∧ t.readCtl x n = v) ∧
     (∀ (va : BitVec 56), ∀ n ∈ plainRegisters, ∀ e, s.ctlBad x n v = some e → (s.ctx x).resident = true → ∃ t : State,
       exec (.coreControlWrite x.core (BitVec.ofNat 22 (x.slot.val * 0x20000 + 8 * n)) v (.store x va)) s = .next t ∧
       t.waiting.length = s.waiting.length + 1 ∧ t.readCtl x n = s.readCtl x n))

/-- R67, R296, R303, R326: a context created in an empty slot runs with every register at its reset value; the ready task that
goes first starts at the bundle after its head, with its tag, tile, argument and node in `s1` to `s5`; a halted context
resumes at its record's address, or is killed, its tile free to start again. R309: a firing pops the entry of the matching
row's queue and adds an instance of the row's graph with the entry's tag and argument; for a graph that is not valid the entry
is discarded, the meridian disabled and the supervisor told. The model's own readings in it: log 9, 29, 88. -/
def Obligations.TaskStarts : Prop :=
  (∀ (x : CtxId) (s : State),
     (∀ pc sup, (s.ctx x).resident = false → ∃ t : State, exec (.contextCreate x pc sup) s = .next t ∧ (t.ctx x).status = .running ∧
       (t.ctx x).pc = pc ∧ (t.ctx x).sup = sup ∧ (t.ctx x).regs = Regs.reset ∧ (t.ctx x).flags = Flags.reset ∧
       (t.ctx x).delay = [] ∧ (t.ctx x).keep.regs = Regs.reset ∧ (t.ctx x).keep.pc = pc) ∧
     (∀ r i n, s.nextFor x = some r → r.saved = false → s.inst? r.key.inst = some i → i.nodes[r.key.node.val]? = some n →
       bits (s.ctx x).reg.detctl 0 2 = 0 → ∃ t : State, exec (.taskStart x) s = .next t ∧
         ((t.ctx x).status = .running ∨ (t.ctx x).status = .faulting) ∧ (t.ctx x).pc = n.head + 64 ∧ (t.ctx x).sup = n.sup ∧
         (t.ctx x).delay = [] ∧ (t.ctx x).withheld = [] ∧
         (∀ d : Fin 64, ((t.ctx x).regs.s.get d).val =
           if d = 1 then i.tag.setWidth 64 else if d = 2 then r.key.x.setWidth 64 else if d = 3 then r.key.y.setWidth 64
           else if d = 4 then i.arg else if d = 5 then BitVec.ofNat 64 r.key.node.val else ((s.ctx x).regs.s.get d).val) ∧
         (t.ctx x).regs.v = (s.ctx x).regs.v ∧
         t.insts = s.insts.map fun j => if j.id = i.id then { j with started := (r.key.node, r.key.x, r.key.y) :: j.started } else j) ∧
     (∀ r, (s.ctx x).status = .halted → (s.ctx x).resume = some r → (s.ctx x).winWrites = [] → ∃ t : State, exec (.fctlResume x) s = .next t ∧
       (t.ctx x).status = .running ∧ (t.ctx x).pc.toNat = r.toNat / 2 ^ 128 % 2 ^ 56 ∧ (t.ctx x).resume = none ∧
       (t.ctx x).regs = (s.ctx x).regs ∧ t.mem = s.mem) ∧
     (∀ k, (s.ctx x).status = .halted → (s.ctx x).task = some k → (s.ctx x).released = [] → ∃ t : State,
       exec (.fctlKill x) s = .next t ∧ (t.ctx x).status = .empty ∧ (t.ctx x).task = none ∧ t.mem = s.mem ∧
       t.insts = s.insts.map fun i => if i.id = k.key.inst then
         { i with started := i.started.erase (k.key.node, k.key.x, k.key.y),
                  killed := ((k.key.node, k.key.x, k.key.y), (s.ctx x).serial) :: i.killed } else i)) ∧
  (∀ (m : Fin 8) (s : State) (x : CtxId) (r : PolicyRow) (h : r.q < 3) (tag : BitVec 32) (arg : Word) (rest : List (BitVec 32 × Word)) (g : Graph),
     s.firingRow m = some (x, r) → (s.meridian.get m).queue.get ⟨r.q, h⟩ = (tag, arg) :: rest → s.fabric.heldEntries = [] →
     let u := s.modMeridian m fun d => ({ d with queue := d.queue.set r.q rest }).settleW
     let va : BitVec 56 := field ((s.meridian.get m).gr.get r.graph) 0 56
     u.readGraph x true .device va (s.ctx x).regs.stencil (s.ctx x).reg.seqwin = .ok g →
     (g.valid = true → va.toNat % 64 = 0 → ∃ (t : State) (i : Inst), exec (.meridianFiring m) s = .next t ∧ t.insts = s.insts ++ [i] ∧
       i.nodes = g.nodes ∧ i.tag = tag ∧ i.arg = arg ∧ i.prio = r.prio ∧ i.tokens = r.tokens ∧ i.team = (s.ctx x).reg.team ∧
       i.retired = [] ∧ i.started = [] ∧ (t.meridian.get m).queue = (u.meridian.get m).queue ∧ t.mem = s.mem) ∧
     (g.valid = false → ∃ t : State, exec (.meridianFiring m) s = .next t ∧ t.insts = s.insts ∧
       (t.meridian.get m).ctl.getLsbD 63 = false ∧ t.waiting.length = s.waiting.length + 1 ∧
       (t.meridian.get m).queue = (u.meridian.get m).queue))

/-- R311, R313, R319: a task that a ready one displaces is killed where its policy says so and left where it drains; a slice's end
makes the decision again; a victim at no checkpoint after 512 cycles has one forced, which releases what it withheld; at one
it is saved with its registers, and comes back with them where its frame stands as it was left. The model's own readings in it: log 18, 28, 33, 99. -/
def Obligations.Preemption : Prop :=
  ∀ (x : CtxId) (s : State),
    (∀ l r rs t, inOrder (s.readyOn l) = r :: rs → ((s.slotsOf l).any fun y => s.slotFree y r.quart) = false →
      s.victim l r = some (x, t) → (s.ctx x).deferTo = none → bits (s.ctx x).reg.swcost 0 32 ≤ (s.ctx x).slice →
      (t.pol = 0 → rs = [] → exec (.preemptionDecision l) s = .next s) ∧
      (t.pol = 2 → exec (.preemptionDecision l) s = .next (s.killTask x))) ∧
    (∀ l, (∀ r ∈ s.readyOn l, ((s.slotsOf l).any fun y => s.slotFree y r.quart) = true) → exec (.preemptionDecision l) s = .next s) ∧
    (∀ d, (s.ctx x).deferTo = some d → d ≤ (s.ctx x).slice → exec (.sliceFloorExpiry x) s = .next (s.preempt (s.logicalOf x))) ∧
    (∀ t, (s.ctx x).task = some t → bits (s.ctx x).reg.swcost 32 16 ≠ 0 → bits (s.ctx x).reg.swcost 32 16 ≤ (s.ctx x).slice →
      exec (.quantumExpiry x) s = .next (s.preempt (s.logicalOf x))) ∧
    (∀ l, exec (.preemptionDecision l) s = .next (s.preempt l)) ∧
    (∀ e, (s.ctx x).evict = some e → e.reached = false → e.since + 512 ≤ (s.core x.core).clock.toNat → (s.ctx x).status = .running →
      (s.ctx x).frozen = false → (s.ctx x).releasing = none → s.mayRelease x = true → ∃ t : State,
        exec (.preemptForcedCheckpoint x) s = .next t ∧ t.mem = s.mem ∧
        (t.ctx x).released = (s.ctx x).released ++ (s.ctx x).withheld ∧ (t.ctx x).withheld = [] ∧ (t.ctx x).commands = [] ∧
        (t.ctx x).regs = (s.ctx x).regs ∧ (t.ctx x).keep.regs = (s.ctx x).regs ∧ (t.ctx x).atCkpt = true ∧
        (t.ctx x).evict = some { e with reached := true } ∧
        bits (t.ctx x).reg.ckstat 16 16 = (bits (s.ctx x).reg.ckstat 16 16 + 1) % 2 ^ 16) ∧
    (∀ k f, (s.ctx x).task = some k → s.freeFrame x = some f → s.maySwitch x = true → (s.ctx x).released = [] →
      (s.ctx x).winWrites = [] → (∀ v ∈ (s.core x.core).spilled, v.slot ≠ x.slot) →
      let out (i : Instr) : Prop := ∃ (t : State) (v : Saved), exec i s = .next t ∧ (t.ctx x).status = .empty ∧
        t.saved.length = s.saved.length + 1 ∧ t.saved.getLast? = some v ∧ v.key = k.key ∧ v.frame = f ∧
        v.ctx.regs = (s.ctx x).regs ∧ v.ctx.pc = (s.ctx x).pc ∧
        ((s.ctx x).reg.trctl.getLsbD 63 = false → Memory.wf s.mem = true → ∀ a,
          a < homeKey s.fabric.coord (v.frameNo * 2 ^ 19) ∨ homeKey s.fabric.coord (v.frameNo * 2 ^ 19) + 2 ^ 19 ≤ a →
          t.byteAt a = s.byteAt a)
      (((s.ctx x).evict.any fun e => e.reached) = true → out (.checkpointSwitchOut x)) ∧
      ((s.ctx x).status = .halted → out (.fctlSwitchOut x))) ∧
    (∀ r v, s.nextFor x = some r → r.saved = true → s.saved.find? (fun w => w.key == r.key) = some v →
      s.frameImage v.frameNo = v.image → ∃ t : State, exec (.taskResume x) s = .next t ∧
        (t.ctx x).status = (if v.halted then .halted else .running) ∧ (t.ctx x).regs = v.ctx.regs ∧
        (t.ctx x).pc = v.ctx.pc ∧ (t.ctx x).delay = v.ctx.delay ∧ t.saved = s.saved.filter fun w => w.key != r.key)

/-! ## The fabric and management -/

/-- R377, R388, R392: a message that its channel accepts goes into the oldest open window with room, byte by byte, and no other
byte of memory changes; one that it does not accept is dropped. A chunk of a reduction is kept for its collective, one that
passed through a spill is marked, before the reduction begins or after, and 64 that are held pass through one at once; a ring record whose packet has been applied waits at
the port for its step, and one that does not fit its step fails it. The model's own readings in it: log 58, 59, 66, 94. -/
def Obligations.Collectives : Prop :=
  ∀ (s : State),
    (∀ (ch pch : Fin 256) (peer : Fin 2048) (tag : BitVec 32) (data : List Byte) (w : Window) (p : Piece),
      chAccepts (s.channelEntry ch.val) (BitVec.ofFin peer) pch.val = true → s.homeDead (BitVec.ofFin peer) = false →
      s.fabric.heldMsgs = [] → WindowTakes s ch w p data.length → Memory.wf s.mem = true →
      ∃ t : State, exec (.channelMessageArrival ch peer pch tag [] data) s = .next t ∧
        (∀ i (h : i < data.length), t.byteAt (s.keyOf (p.loc.add (w.fill + i))) = data[i]) ∧
        (∀ k, (∀ i < data.length, k ≠ s.keyOf (p.loc.add (w.fill + i))) → t.byteAt k = s.byteAt k) ∧ t.fabric.heldMsgs = []) ∧
    (∀ (ch pch : Fin 256) (peer : Fin 2048) tag lost data, chAccepts (s.channelEntry ch.val) (BitVec.ofFin peer) pch.val = false →
      exec (.channelMessageArrival ch peer pch tag lost data) s = .next s) ∧
    (∀ grp seq chunk rank fits lost data, (s.fabric.reductions.find? fun r => r.isFor grp seq) = none → ∃ t : State,
      exec (.nredChunkArrival grp seq chunk rank fits lost data) s = .next t ∧ t.mem = s.mem ∧
      let early := s.fabric.early ++ [(grp, seq, { chunk := chunk, rank := rank, fits := fits, lost := lost, data := data })]
      let held := (s.modFabric fun f => { f with early := early }).heldChunks
      t.fabric.early = early ∧
      (64 ≤ held.length → ∀ k ∈ held, k ∈ t.fabric.earlySpills ∨
        ∃ r ∈ t.fabric.reductions, r.isFor k.1 k.2.1 = true ∧ k.2.2 ∈ r.spilled)) ∧
    (∀ grp seq chunk, ∃ t : State, exec (.nredDeadlineSpill grp seq chunk) s = .next t ∧ t.mem = s.mem ∧
      (∀ r ∈ t.fabric.reductions, r.isFor grp seq = true → chunk ∈ r.spilled) ∧
      ((∀ r ∈ s.fabric.reductions, r.isFor grp seq = false) → (grp, seq, chunk) ∈ t.fabric.earlySpills)) ∧
    (∀ id kind step n lost data, s.ringDead (-1) = false → (s.fabric.port.get 5).isolated = false →
      let a : RingArrival := { id := id, kind := kind, step := step, n := n, lost := lost, data := data }
      (a ∉ s.fabric.inbox → exec (.ringStepArrival id kind step n lost data) s = .next s) ∧
      (a ∈ s.fabric.inbox → (s.fabric.rings.find? fun r => r.takes a) = none → ∃ t : State, exec (.ringStepArrival id kind step n lost data) s = .next t ∧
        t.fabric.arrivals = s.fabric.arrivals ++ [a] ∧ t.fabric.inbox = s.fabric.inbox.erase a ∧ t.mem = s.mem) ∧
      (∀ r, a ∈ s.fabric.inbox → (s.fabric.rings.find? fun r => r.takes a) = some r → n.toNat ≠ r.cmd.c.toNat % 2 ^ 27 → ∃ t : State,
        exec (.ringStepArrival id kind step n lost data) s = .next t ∧ t.mem = s.mem ∧
        ∃ d, (t.core r.cmd.core).done = (s.core r.cmd.core).done ++ [d] ∧ d.cmd = r.cmd ∧ d.err = some .engine ∧ d.lost = r.lost))

/-- R382, R383: a read makes its sender a sharer and an owned line shared; a request for ownership invalidates every copy and is
granted when the last acknowledgment is in; an invalidation takes this package's copies of the line, and changes the bytes of
no other line; an owner's write-back writes the line with its tags and nothing else; an eviction takes a sharer from the
entry; an owner that is asked hands the line on. A write-back that comes while another package's request for ownership is in
progress is none. The model's own readings in it: log 5, 63. -/
def Obligations.FabricDirectory : Prop :=
  ∀ (line : Nat) (who : Fin 2048) (s : State),
    let w : BitVec 11 := BitVec.ofFin who
    let e := s.dirEntry line
    (s.mayServe line w = true → ∃ t : State, exec (.fabricRead line who) s = .next t ∧ t.mem = s.mem ∧
      (t.dirEntry line).state = (match e.state with | .i => .s | .s => .s | .e => .s | .m => .o | .o => .o) ∧
      (∀ i, s.peerIndex w = some i → (t.dirEntry line).exact.getLsbD i = true) ∧
      (s.peerIndex w = none → (t.dirEntry line).coarse.getLsbD (who.val / 32) = true)) ∧
    (s.mayServe line w = true → ∃ t : State, exec (.fabricOwnership line who) s = .next t ∧ t.mem = s.mem ∧
      (∀ c, ∀ l ∈ (t.core c).l1, l.line ≠ globalLine s.fabric.coord line) ∧
      (s.invalidated e w = [] → (t.dirEntry line).state = .m ∧ (t.dirEntry line).owner = w) ∧
      (s.invalidated e w ≠ [] → (t.dirEntry line).waitAck = s.invalidated e w ∧ (t.dirEntry line).newOwner = some w)) ∧
    (∀ v, e.newOwner = some v → s.fabric.heldMsgs = [] → ∃ t : State, exec (.invalidationAck line who) s = .next t ∧ t.mem = s.mem ∧
      ((∀ p ∈ e.waitAck, p = w) → v ≠ s.fabric.coord → (t.dirEntry line).state = .m ∧ (t.dirEntry line).owner = v) ∧
      ((∀ p ∈ e.waitAck, p = w) → v = s.fabric.coord → t.dirEntry line = DirEntry.empty line) ∧
      ((∃ p ∈ e.waitAck, p ≠ w) → (t.dirEntry line).waitAck = e.waitAck.filter (fun p => p != w) ∧ (t.dirEntry line).newOwner = some v)) ∧
    (w = s.fabric.coord → exec (.fabricInvalidation line who) s = .next s) ∧
    (w ≠ s.fabric.coord → Memory.wf s.mem = true → ∃ t : State, exec (.fabricInvalidation line who) s = .next t ∧
      (∀ k, k / 128 ≠ globalLine w line → t.byteAt k = s.byteAt k) ∧
      (∀ c, ∀ l ∈ (t.core c).l1, l.line ≠ globalLine w line) ∧ ∀ c ∈ t.fabric.copies, ¬(c.home = w ∧ c.line = line)) ∧
    (∀ data, e.newOwner.isSome = true → exec (.fabricWriteBack line who data) s = .next s) ∧
    (∀ data, s.homeDead w = false → e.owned w = true → e.newOwner = none → data.length = 128 → Memory.wf s.mem = true →
      let k0 := homeKey s.fabric.coord (line * 128)
      ∃ t : State, exec (.fabricWriteBack line who data) s = .next t ∧
        (∀ k, t.byteAt k = if k0 ≤ k ∧ k < k0 + 128 then (data.getD (k - k0) (0, false)).1 else s.byteAt k) ∧
        (∀ i < 4, t.lostAt (k0 + 32 * i) = ((data.drop (32 * i)).take 32).any fun b => b.2) ∧
        (t.dirEntry line).owned w = false) ∧
    (∀ i, s.peerIndex w = some i → ∃ t : State, exec (.fabricEviction line who) s = .next t ∧ t.mem = s.mem ∧
      (t.dirEntry line).exact.getLsbD i = false ∧ ∀ j, j ≠ i → (t.dirEntry line).exact.getLsbD j = e.exact.getLsbD j) ∧
    (s.ownsRemote line = true → s.homeDead w = false → Memory.wf s.mem = true →
      (∃ t : State, exec (.forwardedRequest line who true) s = .next t ∧
        (∀ c, ∀ l ∈ (t.core c).l1, l.line ≠ line) ∧ ∀ k, k / 128 ≠ line → t.byteAt k = s.byteAt k) ∧
      ∃ t : State, exec (.forwardedRequest line who false) s = .next t ∧ t.mem = s.mem ∧
        { home := BitVec.ofNat 11 (line * 128 / 2 ^ 52), line := line * 128 % 2 ^ 52 / 128, state := .o } ∈ t.fabric.copies)

/-- R394 to R397: keys and epochs of a long-haul port, agreed where the other end's half verifies under its identity and with
a half that the identity key has signed, the frames it accepts and counts as forged, its bound and the end-to-end time that
follows, packets applied once each, acknowledgments, resends and heartbeats, and the declaration of a dead peer, which `mgevt`
tells (R461). R371: a lane that retrains runs or does not, and a disabled one does not. R345, R369: an uncorrectable error
in memory makes its sector lost, in a compressed frame its 4 KiB, and no other; refreshes and scrubs change nothing that a
program sees. The model's own readings in it: log 65, 66, 73, 95, 102. -/
def Obligations.FabricPorts : Prop :=
  (∀ (n : Fin 2) (port : Fin 6) (s : State),
     let p := s.fabric.port.get (ringPort n)
     let now (t : State) : Port := t.fabric.port.get (ringPort n)
     (∀ (h : PeerHalf) secret, p.longHaul = true →
       let ok := Config.ed448Verify (Config.peerIdentity (s.ringDom (if n = 0 then 1 else -1)) s.fabric.coord.toNat) h.half h.signature
       let signed (t : State) : Prop := (now t).halfSig = Config.ed448Sign identityKey (now t).half
       (∃ t : State, exec (.keyAgreement n h secret) s = .next t ∧ signed t ∧
         (now t).epoch = (if ok then 1 else p.epoch) ∧ (now t).counter = (if ok then 0 else p.counter) ∧
         (now t).rxEpoch = (if ok then 1 else p.rxEpoch) ∧ (now t).rxNext = (if ok then 0 else p.rxNext) ∧
         (now t).keys = (if ok then [(1, s.epochKey n secret 1)] else p.keys) ∧ (now t).lanes = (if ok then p.lanes else 0)) ∧
       ((p.epoch = p.newest ∧ 2 ^ 31 ≤ p.counter) ∨ (p.rxEpoch = p.newest ∧ 2 ^ 31 ≤ p.rxNext) →
         ∃ t : State, exec (.epochRotation n h secret) s = .next t ∧ signed t ∧
           (now t).keys = (if ok then (p.newest + 1, s.epochKey n secret (p.newest + 1)) :: p.keys else p.keys) ∧
           (now t).lanes = (if ok then p.lanes else 0) ∧ (now t).epoch = p.epoch)) ∧
     (∀ c : BitVec 32, p.longHaul = true → p.up = true → p.expected = (p.rxEpoch, c.toNat) →
       (p.keyOf p.rxEpoch).isSome = true → ∃ t : State,
       exec (.frameReceive n p.rxEpoch c true) s = .next t ∧ (now t).rxNext = c.toNat + 1 ∧ (now t).rxEpoch = p.rxEpoch ∧
       (now t).badtag = p.badtag) ∧
     (∀ e c, p.longHaul = true → p.up = true → ∃ t : State, exec (.frameReceive n e c false) s = .next t ∧
       (now t).badtag = p.badtag + 1 ∧ (now t).rxNext = p.rxNext) ∧
     (∀ us ns lanes bound, lanes = ((List.range 8).filter fun i => p.lanes.getLsbD i).length → p.longHaul = true → lanes ≠ 0 →
       ((1000 * us + ns.val) * (lanes * 400000) + 1000 * 2 ^ 32 + 1000 * (lanes * 400000) - 1) / (1000 * (lanes * 400000)) = bound →
       bound < 2 ^ 16 → ∃ t : State, exec (.roundTripMeasure n us ns) s = .next t ∧ (now t).bound.toNat = bound ∧
         2 * (now t).bound.toNat ≤ t.fabric.e2et.toNat ∧ s.fabric.e2et.toNat ≤ t.fabric.e2et.toNat) ∧
     (∀ src stream, s.deadPeer (⟨src.toNat / 2 ^ 11 % 8, Nat.mod_lt _ (by decide)⟩, field src 0 11) = false →
       (∀ data, (∀ v ∈ s.fabric.dedup, ¬(v.src = src ∧ v.stream = stream)) → (∀ m, data ≠ .read m) → (∀ q m, data ≠ .ack q m) → ∃ t : State,
         exec (.packetReceive src stream 0 data) s = .next t ∧
           (∀ id kind step k lost d, data = .ring id kind step k lost d → t.fabric.inbox = s.fabric.inbox ++
             [({ id := id, kind := kind, step := step, n := k, lost := lost, data := d } : RingArrival)]) ∧
           (∀ m a, data = .add m a → (s.counters.Pairwise fun p q => p.1 < q.1) →
             (t.counter m).toNat = min ((s.counter m).toNat + a.toNat) (2 ^ 64 - 1) ∧ ∀ k, k ≠ m → t.counter k = s.counter k) ∧
           t.fabric.dedup = { src := src, stream := stream, base := 0, above := [] } :: s.fabric.dedup ∧
         ∃ u : State, exec (.packetReceive src stream 0 data) t = .next u ∧ u.fabric.dup = t.fabric.dup + 1 ∧ u.fabric.dedup = t.fabric.dedup ∧
           u.fabric.inbox = t.fabric.inbox ∧ u.counters = t.counters) ∧
       (∀ seq q m, ∃ t : State, exec (.packetReceive src stream seq (.ack q m)) s = .next t ∧ t.fabric.dedup = s.fabric.dedup ∧
         t.fabric.sent = s.fabric.sent.filter fun p => !(p.dst == src && p.stream == q && p.seq == m))) ∧
     (∀ k q, s.fabric.sent[k]? = some q → (∀ r : Port, r ∈ s.fabric.port.toList → r.up = true ∧ r.longHaul = false) → ∃ t : State,
       exec (.e2eResend k) s = .next t ∧ t.fabric.sent = s.fabric.sent.set k { q with sends := q.sends + 1 }) ∧
     (p.up = true → p.longHaul = true → p.counter < 2 ^ 32 → (p.keyOf p.epoch).isSome = true → ∃ t : State,
       exec (.heartbeat (ringPort n)) s = .next t ∧ (now t).counter = p.counter + 1) ∧
     (p.up = true → p.longHaul = true → p.keyOf p.epoch = none → exec (.heartbeat (ringPort n)) s = .next s) ∧
     (∀ (d : Fin 8) (c : Fin 2048), (d, BitVec.ofFin c) ∉ s.fabric.dead → ¬(d = s.fabric.dom ∧ BitVec.ofFin c = s.fabric.coord) →
       (∃ t : State, exec (.deadNoticeReceive d c) s = .next t ∧ t.fabric.dead = (d, BitVec.ofFin c) :: s.fabric.dead ∧
         t.fabric.decl = s.fabric.decl + 1 ∧ t.mgmt.evt.getLsbD 1 = true) ∧
       ((s.fabric.port.get port).isolated = false → s.neighbour port = some (d, BitVec.ofFin c) → ∃ t : State,
         exec (.deadPeerDeclaration port) s = .next t ∧ t.fabric.dead = (d, BitVec.ofFin c) :: s.fabric.dead ∧
         (t.fabric.port.get port).isolated = true)) ∧
     (∀ (lane : Fin 8) ok, ∃ t : State, exec (.linkRetrain port lane ok) s = .next t ∧
       ∀ i < 8, (t.fabric.port.get port).lanes.getLsbD i =
         if i = lane.val then ok && !(s.mgmt.disabled.contains (.lane port lane)) else (s.fabric.port.get port).lanes.getLsbD i)) ∧
  (∀ (s : State),
     (∀ pa unit, ∃ t : State, exec (.uncorrectableError (.memory pa) unit) s = .next t ∧ t.mem = s.mem ∧
       let k0 := homeKey s.fabric.coord pa.toNat
       let whole : Bool := (s.compressed pa.toNat).getD unit
       (∀ k, t.lostAt k = ((if whole then decide (k / 4096 = k0 / 4096) else decide (k / 32 = k0 / 32)) || s.lostAt k))) ∧
     (∀ m, s.mgmt.open_ = true → s.mgmt.owner = some m →
       (∀ n on, ∃ t : State, exec (.guardedWrite m (.longHaul n on)) s = .next t ∧ (t.fabric.port.get (ringPort n)).longHaul = on ∧
         t.mem = s.mem) ∧
       ∀ dom c, ∃ t : State, exec (.guardedWrite m (.readmit dom c)) s = .next t ∧ (dom, c) ∉ t.fabric.dead ∧ t.mem = s.mem) ∧
     (∀ stack bank, exec (.hbmRefresh stack bank) s = .next s) ∧ (∀ bank, exec (.lpddrRefresh bank) s = .next s) ∧
     (∀ line, exec (.scrub line) s = .next s))

/-- R458 to R460: what the semaphore makes of a request, of a lease that ends, and of a guarded write: a master that is not the
owner changes nothing and is counted, and the owner's write is applied: the power limit, clamped (R469), with the limit in
force (R470), the clock, an error window (R465), the remap and relabel tables (R288, R372), sparing (R400), a reserve, a
counter. R457, R461: the management port's requests: unsigned ones read two registers and no more, stale ones are counted,
fresh ones act once; a read of `mgevt` clears it. The lease that a read of `mgsem` answers has not grown. The model's own
readings in it: log 53, 70, 72, 78, 96, 106. -/
def Obligations.Management : Prop :=
  (∀ (m : Master) (s : State),
     (∀ l, s.mgmt.open_ = true → s.mgmt.owner = none → l ≠ 0 → ∃ t : State, exec (.semaphoreAcquire m l) s = .next t ∧ t.mgmt.owner = some m ∧
       t.mgmt.epoch = s.mgmt.epoch + 1 ∧ t.mgmt.lease = l ∧ t.mgmt.refused = s.mgmt.refused ∧ t.mem = s.mem ∧ t.cores = s.cores) ∧
     (∀ l, s.mgmt.open_ = false ∨ s.mgmt.owner.isSome = true ∨ l = 0 → exec (.semaphoreAcquire m l) s = .next s) ∧
     (∀ l, s.mgmt.open_ = true → s.mgmt.owner = some m → l ≠ 0 → ∃ t : State, exec (.semaphoreRenew m l s.mgmt.epoch) s = .next t ∧ t.mgmt.lease = l ∧
       t.mgmt.owner = some m ∧ t.mgmt.epoch = s.mgmt.epoch) ∧
     (∀ l e, s.mgmt.open_ = false ∨ s.mgmt.owner ≠ some m ∨ e ≠ s.mgmt.epoch ∨ l = 0 → exec (.semaphoreRenew m l e) s = .next s) ∧
     (s.mgmt.open_ = true → s.mgmt.owner = some m → ∃ t : State, exec (.semaphoreRelease m s.mgmt.epoch) s = .next t ∧ t.mgmt.owner = none ∧
       t.mgmt.epoch = s.mgmt.epoch) ∧
     (∀ e, s.mgmt.open_ = false ∨ s.mgmt.owner ≠ some m ∨ e ≠ s.mgmt.epoch → exec (.semaphoreRelease m e) s = .next s) ∧
     (s.mgmt.owner.isSome = true → ∃ t : State, exec .leaseExpiry s = .next t ∧ t.mgmt.owner = none ∧ t.mgmt.epoch = s.mgmt.epoch ∧
       t.mgmt.evt.getLsbD 2 = true) ∧
     (s.mgmt.open_ = true → s.mgmt.owner ≠ some m → ∀ i,
       ((∃ w, i = .guardedWrite m w) ∨ (∃ n v, i = .counterWrite m n v) ∨ (∃ v, i = .mgclkWrite m v) ∨ (∃ v, i = .shutterArm m v) ∨
         i = .shutterRelease m) →
       exec i s = .next { s with mgmt := { s.mgmt with refused := s.mgmt.refused + 1 } }) ∧
     (s.mgmt.open_ = true → s.mgmt.owner = some m →
       (∀ n v, (s.counters.Pairwise fun p q => p.1 < q.1) → ∃ t : State, exec (.counterWrite m n v) s = .next t ∧ t.counter n = v ∧
         (∀ k, k ≠ n → t.counter k = s.counter k) ∧ t.mem = s.mem) ∧
       (∀ v : Word, (v.toNat ≤ 12 → ∃ t : State, exec (.mgclkWrite m v) s = .next t ∧ t.mgmt.clk = v ∧ t.mgmt.step = v.toNat ∧
           t.cores = s.cores) ∧ (12 < v.toNat → exec (.mgclkWrite m v) s = .next s)) ∧
       (∀ v : Word, ∃ t : State, exec (.guardedWrite m (.plim v)) s = .next t ∧
         t.mgmt.plim.toNat = max 800 (min 2400 (v.toNat % 2 ^ 16)) ∧
         t.mgmt.limit = (if s.mgmt.coolant then min t.mgmt.plim.toNat 1800 else t.mgmt.plim.toNat)) ∧
       (∀ base size, ∃ t : State, exec (.guardedWrite m (.reserve base size)) s = .next t ∧
         t.mgmt.reserve = (base, size) :: s.mgmt.reserve ∧ t.mem = s.mem) ∧
       (∀ k w th, ∃ t : State, exec (.guardedWrite m (.eccWindow k w th)) s = .next t ∧
         ∀ p ∈ t.mgmt.windows, (p.1 = k → p.2 = { window := w, threshold := th }) ∧ (p.1 ≠ k → p ∈ s.mgmt.windows)) ∧
       (∀ cl l e, ∃ t : State, exec (.guardedWrite m (.remap cl l e)) s = .next t ∧
         ((t.remap.find? fun p => p.1.val == 64 * cl.val + l.val).map (·.2)) = some e) ∧
       (∀ row y py, ∃ t : State, exec (.guardedWrite m (.relabel row y py)) s = .next t ∧ t.fabric.physY row y = py ∧
         ∀ r z, (r, z) ≠ (row, y) → t.fabric.physY r z = s.fabric.physY r z) ∧
       (∀ row y, ∃ t : State, exec (.guardedWrite m (.spare row y)) s = .next t ∧ t.fabric.physY row y = 32 ∧
         (s.fabric.dom, BitVec.ofNat 11 (32 * row.val + y.val)) ∉ t.fabric.dead ∧
         (s.fabric.px.toNat = row.val → s.fabric.py.toNat = 32 → (∀ z, z ≠ y → s.fabric.physY row z ≠ 32) →
           t.fabric.coord.toNat = 32 * row.val + y.val ∧ t.fabric.lv = true) ∧
         ∀ k < 2 ^ 63, k % 2 ^ 52 < 0xF * 2 ^ 48 → k / 2 ^ 52 = 32 * row.val + y.val →
           t.lostAt k = true))) ∧
  (∀ (r : MgRequest) (s : State),
     (s.signedBy r = false → r.write = none → (r.offset = 0 → ∃ t : State, exec (.managementRequest r) s = .next t ∧
         t.mgmt.replies = s.mgmt.boot :: s.mgmt.replies ∧ t.mgmt.opSeq = s.mgmt.opSeq) ∧
       (r.offset = 8 → ∃ t : State, exec (.managementRequest r) s = .next t ∧ t.mgmt.replies = s.mgmt.nonce :: s.mgmt.replies)) ∧
     (s.signedBy r = false → (r.write.isSome = true ∨ (r.offset ≠ 0 ∧ r.offset ≠ 8)) → exec (.managementRequest r) s = .next s) ∧
     (s.signedBy r = true → (r.nonce ≠ s.mgmt.nonce ∨ ∃ n, s.mgmt.opSeq = some n ∧ r.seq.toNat ≤ n.toNat) →
       exec (.managementRequest r) s = .next { s with mgmt := { s.mgmt with mgErrors := s.mgmt.mgErrors + 1 } }) ∧
     (s.signedBy r = true → r.nonce = s.mgmt.nonce → (∀ n, s.mgmt.opSeq = some n → n.toNat < r.seq.toNat) →
       ∃ t : State, exec (.managementRequest r) s = .next t ∧ t.mgmt.opSeq = some r.seq ∧ t.mgmt.mgErrors = s.mgmt.mgErrors ∧
         (∀ v, r.write = none → r.offset ≠ 0x10 → s.mgReg r.offset.toNat = some v → t.mgmt.replies = v :: s.mgmt.replies ∧
           t.mgmt.evt = if r.offset = 0x60 then 0 else s.mgmt.evt) ∧
         (∀ w, r.write = none → r.offset = 0x10 → s.mgReg 0x10 = some w → ∃ v : Word, t.mgmt.replies = v :: s.mgmt.replies ∧
           v.toNat % 2 ^ 32 = w.toNat % 2 ^ 32 ∧ v.toNat / 2 ^ 32 ≤ s.mgmt.lease.toNat ∧ t.mgmt.owner = s.mgmt.owner) ∧
         (∀ v, r.write = some v → r.offset = 0x30 → s.mgmt.open_ = true → s.mgmt.owner = some .managementPort →
           t.mgmt.plim.toNat = max 800 (min 2400 (v.toNat % 2 ^ 16))) ∧
         (∀ v, r.write = some v → r.offset = 0x30 → s.mgmt.open_ = true → s.mgmt.owner ≠ some .managementPort →
           t.mgmt.plim = s.mgmt.plim ∧ t.mgmt.refused = s.mgmt.refused + 1) ∧
         (∀ v, r.write = some v → r.offset = 0x18 → (bits v 2 14 ≠ 0 ∨ bits v 32 32 = 0 ∨ bits v 0 2 = 3 ∨ s.mgmt.open_ = false) →
           t.mgmt.owner = s.mgmt.owner ∧ t.mgmt.epoch = s.mgmt.epoch ∧ t.mgmt.lease = s.mgmt.lease) ∧
         (∀ v, r.write = some v → r.offset = 0x18 → bits v 2 14 = 0 → bits v 32 32 ≠ 0 → s.mgmt.open_ = true →
           (bits v 0 2 = 0 → s.mgmt.owner = none → t.mgmt.owner = some .managementPort ∧ t.mgmt.epoch = s.mgmt.epoch + 1 ∧
             t.mgmt.lease.toNat = bits v 32 32) ∧
           (bits v 0 2 = 2 → s.mgmt.owner = some .managementPort → bits v 16 16 = s.mgmt.epoch.toNat → t.mgmt.owner = none))) ∧
     (∃ t : State, exec .mgevtRead s = .next t ∧ t.mgmt.replies = s.mgmt.evt :: s.mgmt.replies ∧ t.mgmt.evt = 0))

/-- R466, R467: the owner arms the shutter, unless a reserved bit is set, and may release a halt; an armed shutter fires on the
first source it enables and on no other, once; 64 core cycles later, and not before, the latch takes every core's slots at its
clock, and the halt begins where the arming that fired asked for it. The model's own readings in it: log 68. -/
def Obligations.Shutters : Prop :=
  ∀ (m : Master) (s : State),
    (s.mgmt.open_ = true → s.mgmt.owner = some m →
      (∀ v : Word, v.toNat / 2 ^ 40 % 2 ^ 16 = 0 → v.toNat / 2 ^ 12 % 2 ^ 20 = 0 → ∃ t : State, exec (.shutterArm m v) s = .next t ∧
        (∀ j < 61, t.mgmt.shutter.word.getLsbD j = v.getLsbD j) ∧ t.mgmt.shutter.word.getLsbD 61 = false ∧
        t.mgmt.shutter.word.getLsbD 62 = v.getLsbD 62 ∧
        (¬(v.getLsbD 63 = true ∧ v.getLsbD 56 = true) → t.mgmt.shutter.armed = v.getLsbD 63 ∧ t.mgmt.shutter.fired = s.mgmt.shutter.fired) ∧
        (v.getLsbD 63 = true → v.getLsbD 56 = true → t.mgmt.shutter.armed = false ∧
          t.mgmt.shutter.fired = s.mgmt.shutter.fired ++ [{ core := s.cur.core, due := (s.core s.cur.core).clock.toNat + 64, halt := v.getLsbD 62 }]) ∧
        t.mgmt.shutter.halt = (s.mgmt.shutter.halt && !v.getLsbD 61)) ∧
      (∀ v : Word, v.toNat / 2 ^ 40 % 2 ^ 16 ≠ 0 ∨ v.toNat / 2 ^ 12 % 2 ^ 20 ≠ 0 → exec (.shutterArm m v) s = .next s) ∧
      ∃ t : State, exec (.shutterRelease m) s = .next t ∧ t.mgmt.shutter.halt = false ∧ t.mgmt.shutter.armed = false ∧
        t.mgmt.shutter.fired = s.mgmt.shutter.fired) ∧
    (∀ src, let w := s.mgmt.shutter.word
      let on : Prop := match src with
        | .record c => w.getLsbD 60 = true ∧ w.toNat / 2 ^ 32 % 2 ^ 8 = causeCode c
        | .mark a => w.getLsbD 59 = true ∧ w.toNat % 2 ^ 12 = a.toNat
        | .dead => w.getLsbD 58 = true
        | .trip => w.getLsbD 57 = true
        | .now => w.getLsbD 56 = true
      (s.mgmt.shutter.armed = true → on → ∃ t : State, exec (.shutterFire src) s = .next t ∧ t.mgmt.shutter.armed = false ∧
        t.mgmt.shutter.fired = s.mgmt.shutter.fired ++ [{ core := s.cur.core, due := (s.core s.cur.core).clock.toNat + 64, halt := w.getLsbD 62 }] ∧
        t.mgmt.shutter.word.getLsbD 63 = false ∧
        t.mgmt.evt.getLsbD 6 = true ∧ t.mem = s.mem ∧ t.cores = s.cores) ∧
      ((s.mgmt.shutter.armed = false ∨ ¬on) → exec (.shutterFire src) s = .next s)) ∧
    let due (f : Firing) : Prop := f.due ≤ (s.core f.core).clock.toNat
    ((∀ f ∈ s.mgmt.shutter.fired, ¬due f) → exec .shutterLatch s = .next s) ∧
    ((∃ f ∈ s.mgmt.shutter.fired, due f) → ∃ t : State, exec .shutterLatch s = .next t ∧ t.mem = s.mem ∧
      (t.mgmt.shutter.halt = true ↔ s.mgmt.shutter.halt = true ∨ ∃ f ∈ s.mgmt.shutter.fired, due f ∧ f.halt = true) ∧
      (∀ f, f ∈ t.mgmt.shutter.fired ↔ f ∈ s.mgmt.shutter.fired ∧ ¬due f) ∧
      (∀ c, (t.core c).snapClock = if s.cores.any (fun p => p.1 == c) then (s.core c).clock else (s.core c).snapClock) ∧
      ∀ c, s.cores.any (fun p => p.1 == c) = true → ∃ z, (t.core c).snap = some z ∧ ∀ j : Fin 2,
        let d := s.ctx { core := c, slot := j }
        (z.get j).pc = d.pc ∧ (z.get j).pos = d.pos ∧ (z.get j).cycles = d.cycles ∧ (z.get j).s = d.regs.s ∧
        (z.get j).transfer = d.transfer ∧ t.ctx { core := c, slot := j } = d)

/-- R469, R470: an interval above the limit lowers the duty by the mirror's share; one well below restores first the clock step,
then the duty; the coolant's alarm lowers the limit in force and its return restores it; a trip halts every context and the
rails may follow, and so does an interval whose junction is at 115 °C or more. R465, R461: a corrected error is counted for its
unit and changes no word of memory, and below its threshold it lists nothing and raises no event. The model's own readings in
it: log 67, 68. -/
def Obligations.PowerBudget : Prop :=
  ∀ (s : State),
    (∀ w pm amps j, j < 100 → amps ≤ 3600 → s.mgmt.limit < w → 16 < s.mgmt.duty.toNat → 0 < pm → ∃ t : State,
      exec (.governorInterval w pm amps j) s = .next t ∧
      t.mgmt.duty.toNat = max 16 (min 64 (s.mgmt.duty.toNat * (pm - min pm (w - s.mgmt.limit)) / pm)) ∧ t.mgmt.step = s.mgmt.step ∧
      t.cores = s.cores ∧ t.mem = s.mem) ∧
    (∀ w pm amps j, j < 100 → amps ≤ 3600 → s.mgmt.limit < w → s.mgmt.duty.toNat = 16 → 0 < s.mgmt.step → ∃ t : State,
      exec (.governorInterval w pm amps j) s = .next t ∧ t.mgmt.step + 1 = s.mgmt.step ∧ t.mgmt.duty = s.mgmt.duty ∧
      t.mgmt.evt.getLsbD 4 = true) ∧
    (∀ w pm amps j, j < 100 → amps ≤ 3600 → w + 50 < s.mgmt.limit → s.mgmt.duty.toNat ≤ 64 → ∃ t : State,
      exec (.governorInterval w pm amps j) s = .next t ∧
      (s.mgmt.step < s.mgmt.clk.toNat → t.mgmt.step = s.mgmt.step + 1 ∧ t.mgmt.duty = s.mgmt.duty) ∧
      (s.mgmt.clk.toNat ≤ s.mgmt.step → t.mgmt.step = s.mgmt.step ∧ t.mgmt.duty.toNat = min 64 (s.mgmt.duty.toNat + 4))) ∧
    (∀ w pm amps j, 3600 < amps → s.mgmt.duty.toNat ≤ 64 → ∃ t : State, exec (.governorInterval w pm amps j) s = .next t ∧
      t.mgmt.duty.toNat ≤ 32) ∧
    (∀ inlet flow, (inlet < 15 ∨ 45 < inlet ∨ flow < 20) → ∃ t : State, exec (.coolantAlarm inlet flow) s = .next t ∧
      t.mgmt.evt.getLsbD 5 = true ∧ t.mgmt.limit = min (s.mgmt.plim.toNat % 2 ^ 16) 1800) ∧
    (∀ inlet flow, 15 ≤ inlet → inlet ≤ 45 → 20 ≤ flow → ∃ t : State, exec (.coolantRestored inlet flow) s = .next t ∧
      t.mgmt.limit = s.mgmt.plim.toNat % 2 ^ 16 ∧ t.mgmt.evt = s.mgmt.evt) ∧
    (∃ t : State, exec .thermalTrip s = .next t ∧ t.mgmt.evt.getLsbD 5 = true ∧ t.halted = true ∧ 115 ≤ t.mgmt.junction ∧
      t.mem = s.mem) ∧
    (∀ w pm amps j, 100 ≤ j → ∃ t : State, exec (.governorInterval w pm amps j) s = .next t ∧ t.mgmt.junction = j ∧ t.mem = s.mem ∧
      (s.mgmt.junction < 100 → t.mgmt.evt.getLsbD 5 = true) ∧ (115 ≤ j → t.mgmt.evt.getLsbD 5 = true ∧ t.halted = true) ∧
      (amps ≤ 3600 → 16 < s.mgmt.duty.toNat → 0 < pm →
        t.mgmt.duty.toNat = max 16 (min 64 (s.mgmt.duty.toNat * (pm - min pm 100) / pm)))) ∧
    (s.mgmt.trip = true → ∃ t : State, exec .railShutoff s = .next t ∧ t.mgmt.railsOff = true ∧ t.mem = s.mem) ∧
    (∀ u, ∃ t : State, exec (.correctedError u) s = .next t ∧ t.mem = s.mem ∧ t.lost = s.lost ∧
      (∀ c g, u = .granule c g → (t.core c).corrected = (s.core c).corrected + 1) ∧
      ((s.mgmt.counts.all fun p => p.1 != u) = true → (∀ p ∈ s.mgmt.windows, 1 < p.2.threshold) →
        ((s.mgmt.windows.find? fun p => p.1 == kindOfUnit u).isSome = true) →
        t.mgmt.disabled = s.mgmt.disabled ∧ t.mgmt.evt = s.mgmt.evt))

/-! ## Reset, landing, decoding, the step -/

/-- R65, R66, R72 and R173: after package reset no context is resident, every register of R65 has its reset value, memory lists
nothing, every counter and plain control register is 0, no flag is set and nothing is in flight. R462 to R464: a boot whose
ROM fails its test stops with status 1, one with no stage-1 image that verifies with 2, one whose training or whose system
fails with 3 or 4 and the slot in use; one whose images verify runs, opens the management space to writes, certifies the
attestation key and clears the measurements it does not extend; a quote holds its nonce, the measurements and a signature in 666
bytes. The model's own readings in it: log 1, 2, 71, 78. -/
def Obligations.ResetAndBoot : Prop :=
  (State.reset.mem = [] ∧ Memory.wf State.reset.mem = true ∧ State.reset.lost = [] ∧ (∀ n, State.reset.counter n = 0) ∧
   State.reset.insts = [] ∧ State.reset.waiting = [] ∧ State.reset.mgmt.owner = none ∧
   ∀ x : CtxId,
     let c := State.reset.ctx x
     c.status = .empty ∧ c.task = none ∧ c.delay = [] ∧ c.transfer = none ∧ c.withheld = [] ∧ c.commands = [] ∧ c.released = [] ∧
     c.flags.set = 0 ∧ c.flags.err = 0 ∧ c.reg = SlotRegs.reset ∧
     (∀ d, c.regs.s.get d = { val := 0, tag := .clean }) ∧ (∀ d, (c.regs.v.get d).val = 0 ∧ (c.regs.v.get d).tags = Tags.clean) ∧
     (∀ d, c.regs.m.get d = { val := if d = 0 then BitVec.allOnes 128 else 0, tags := Tags.clean }) ∧
     (∀ d, c.regs.z.get d = { val := 0, tag := .clean }) ∧ (∀ d, c.regs.q.get d = { val := 0, tag := .clean }) ∧
     (∀ d, c.regs.hg.get d = 0 ∧ c.regs.hs.get d = 0) ∧ (∀ p, (c.regs.hold.get p).val = 0) ∧ (∀ d, c.regs.dims.get d = 0) ∧
     c.regs.round = 0 ∧ c.regs.fpflags = 0 ∧ c.regs.vcls = 0 ∧ (∀ d, c.regs.stencil.get d = 0) ∧ c.regs.lvec = 0 ∧
     c.regs.phase = none ∧ (State.reset.core x.core).bank = none ∧ (State.reset.core x.core).clock = 0 ∧
     (∀ q, (State.reset.core x.core).queue.get q = []) ∧ (State.reset.core x.core).tblId = 0xFFFF) ∧
  (∀ (b : BootInput) (s : State), ∃ t : State, exec (.packageReset b) s = .next t ∧
     t.cores = [] ∧ t.mem = [] ∧ t.counters = [] ∧ t.insts = [] ∧ t.saved = [] ∧ t.waiting = [] ∧
     t.fabric = Fabric.reset.withoutLanes s.mgmt.disabled ∧
     t.mgmt.owner = none ∧ t.mgmt.nonce = b.nonce ∧ t.mgmt.opSeq = none ∧ t.absent = s.absent ∧ s.mgmt.rollback ≤ t.mgmt.rollback ∧
     (∀ i : Fin 8, 2 < i.val → t.mgmt.meas.get i = 0) ∧
     let chosen : Option (Nat × Image) := if b.romOk = false then none else if s.mgmt.verifies b.primary then some (0, b.primary)
       else if s.mgmt.verifies b.alternate then some (1, b.alternate) else none
     let digest (i : Image) : BitVec 512 := BitVec.ofNat 512 (ofBytes (Config.shake256 i.body 64))
     match chosen with
     | none => t.mgmt.boot = (if b.romOk then 2 else 1) ∧ t.mgmt.open_ = false ∧ ∀ i : Fin 8, t.mgmt.meas.get i = 0
     | some (slot, i) =>
       let ok := (s.mgmt.blow i.version.toNat).verifies b.os
       t.mgmt.boot.toNat = 256 * slot + (if b.trainOk then (if ok then 5 else 4) else 3) ∧ t.mgmt.open_ = (b.trainOk && ok) ∧
       t.mgmt.meas.get 0 = extendMeas 0 (digest i) ∧ t.mgmt.meas.get 1 = (if b.trainOk then extendMeas 0 b.manifest else 0) ∧
       t.mgmt.meas.get 2 = (if b.trainOk && ok then extendMeas 0 (digest b.os) else 0) ∧
       t.mgmt.opKey = (if b.trainOk then b.operatorKey else 0) ∧ t.mgmt.reserve = (if b.trainOk then b.reserves else []) ∧
       t.mgmt.cert = (if b.trainOk && ok then Config.ed448Sign identityKey (Config.ed448Public t.mgmt.attestKey) else [])) ∧
  (∀ (m : Mgmt) (i : Image), m.verifies i = true ↔
     m.rootKey.toNat = ofBytes (Config.shake256 i.key 64) % 2 ^ 512 ∧ m.rollback ≤ i.version.toNat ∧
     Config.ed448Verify i.key (Config.shake256 i.body 64 ++ bytesOf 4 i.version.toNat) i.signature = true) ∧
  (∀ (nonce : BitVec 256) (s : State), ∃ (t : State) (q : List Byte), exec (.attestationQuote nonce) s = .next t ∧
     t.mgmt.quotes = q :: s.mgmt.quotes ∧ q.length = 666 ∧ q.take 32 = bytesOf 32 nonce.toNat ∧
     ∀ i : Fin 8, (q.drop (40 + 64 * i.val)).take 64 = bytesOf 64 (s.mgmt.meas.get i).toNat)

/-- R48, R66 and R83: what a result changes when it lands: its register, of which a masked result changes only the lanes or bits
it writes, and no other register, flag, word of memory or context; and a result aimed at `s0` or `m0` never starts. -/
def Obligations.ResultsLand : Prop :=
  ∀ (s : State) (x : CtxId) (l : Landing),
    ((∃ d v, l = .s d v) ∨ (∃ d v b, l = .v d v b) ∨ (∃ d v b, l = .m d v b) ∨ (∃ d v, l = .z d v) ∨
      (∃ d v, l = .q d v) ∨ (∃ p v, l = .hold p v) ∨ (∃ f, l = .fp f) ∨ (∃ d v, l = .dim d v) ∨ (∃ d v, l = .seed d v) ∨
      ∃ h v, l = .ring h v) →
    let t := s.landOne x false l
    let r := (s.ctx x).regs
    let r' := (t.ctx x).regs
    t.mem = s.mem ∧ (∀ y, y ≠ x → t.ctx y = s.ctx y) ∧
    t.counters = s.counters ∧ (t.ctx x).flags = (s.ctx x).flags ∧ (t.ctx x).pc = (s.ctx x).pc ∧ (t.ctx x).delay = (s.ctx x).delay ∧
    (t.ctx x).transfer = (s.ctx x).transfer ∧ (t.ctx x).withheld = (s.ctx x).withheld ∧
    (∀ d, l.place ≠ .s d → r'.s.get d = r.s.get d) ∧ (∀ d, l.place ≠ .v d → r'.v.get d = r.v.get d) ∧
    (∀ d, l.place ≠ .m d → r'.m.get d = r.m.get d) ∧ (∀ d, l.place ≠ .z d → r'.z.get d = r.z.get d) ∧
    (∀ d, l.place ≠ .q d → r'.q.get d = r.q.get d) ∧ (∀ p, l.place ≠ .hold p → r'.hold.get p = r.hold.get p) ∧
    (∀ h, l.place ≠ .ring h → r'.hs.get h = r.hs.get h) ∧ (∀ d, l.place ≠ .dim d → r'.dims.get d = r.dims.get d) ∧
    (l.place ≠ .fpflags → r'.fpflags = r.fpflags) ∧ r'.hg = r.hg ∧ r'.round = r.round ∧ r'.vcls = r.vcls ∧
    r'.stencil = r.stencil ∧ r'.lvec = r.lvec ∧ r'.phase = r.phase ∧
    (∀ d v, l = .s d v → r'.s.get d = v) ∧ (∀ d v, l = .z d v → r'.z.get d = v) ∧ (∀ d v, l = .q d v → r'.q.get d = v) ∧
    (∀ p v, l = .hold p v → r'.hold.get p = v) ∧
    (∀ d v b, l = .v d v b → ∀ n < 128, (r'.v.get d).lane n = if b.getLsbD n then v.lane n else (r.v.get d).lane n) ∧
    (∀ d v b, l = .m d v b → ∀ n < 128, (r'.m.get d).val.getLsbD n = if b.getLsbD n then v.val.getLsbD n else (r.m.get d).val.getLsbD n) ∧
    (∀ f, l = .fp f → ∀ i < 64, r'.fpflags.getLsbD i = (r.fpflags.getLsbD i || f.getLsbD i)) ∧
    s.readS 0 = { val := 0, tag := .clean } ∧ s.readM 0 = { val := BitVec.allOnes 128, tags := Tags.clean } ∧
    (∀ n v g, s.pushS n 0 v g = s) ∧ (∀ n v g p, s.pushLoad n 0 v g p = s) ∧ ∀ n v b, s.pushM n 0 v b = s

/-- The encodings of R28, R30, R33 to R38 and R40 to R42: words that the spec's examples give for instructions of each slot decode
to those instructions. The model's own readings in it: log 8. -/
def Obligations.DecodeWords : Prop :=
  ∀ p ∈ ([(.s, 0x04720901, .sub 7 8 9), (.s, 0x0C517FFF, .addi 5 5 0x3FFF), (.s, 0x40500001, .li 5 1),
      (.s, 0x243101CC, .bfxN 3 4 7 12), (.s, 0x4C00C001, .mts 3 1), (.s, 0x6045FFFB, .brNz 5 0xFFFB), (.s, 0x7004001A, .chk 4 26),
      (.s, 0xB0520001, .st64 5 8 0 1), (.s, 0xBC41870F, .amo64 4 6 7 0 15), (.s, 0xCC114001, .clrfErr 5),
      (.s, 0xD5910600, .seqwatch 25 4 6), (.s, 0xDC418700, .launch 4 6 7), (.s, 0xE4518000, .carve 5 6), (.s, 0xEC000000, .retu),
      (.v0, 0x27209188, .vfma .f32 8 9 6 0 true), (.v1, 0x570C1082, .vcmpLt .f32 3 1 2 0 false),
      (.v0, 0x87515000, .vredAdd .f32 20 21 0), (.v1, 0xD6105181, .vamoAddSr 4 5 6 0), (.v0, 0xE728B300, .vqpt .f32 10 11 12 0),
      (.m, 0x10C029CC, .mcall 3 0xA7 6), (.m, 0x52A78000, .mdrain 5 2 7 true), (.m, 0xB9410860, .mephw 4 5 16 true 3),
      (.m, 0xC2400000, .mstat 9 false), (.c0, 0x0994A2CC, .cpy 3 5 10 11 12), (.c1, 0x491D454D, .cstashGet 2 7 20 21 13),
      (.c0, 0x6014A2CC, .csend 0 5 10 11 12), (.c1, 0x90244140, .cmcast 0 9 4 5), (.x, 0x0BC14200, .xcvt 7 8 20 8),
      (.x, 0x11D1E203, .xq false 7 4 30 8 3), (.x, 0x21C820C5, .xsld false 7 false 2 2 3 5),
      (.g, 0x00001007, .pause Gate.absent 7)] : List (SlotPos × SlotWord × Instr)), decodeSlot p.1 p.2.1 = some p.2.2

/-- A step runs the decoded instruction (R44 to R48, R55, R56). Where the core whose turn it is has one running context, nothing
is due before its bundle, and the bytes at its address are a bundle of one slot without a gate that decodes to an instruction
ready to act, the step is `exec` of that instruction, in the state at the start of its bundle, and then the bundle's commit: a
stop of the instruction is taken at the bundle, one that ends the context's run or its handler ends the step, and after any
other the context's cycle passes; at the end of the core cycle the writes of core control that have performed take effect. The
line of the bundle is here (R379, R383). A bundle that the instruction holds before issue is no part of it: that is asked of the
bundle as it is presented, `o`, and as it issues, `u`. The model's own readings in it: log 3. -/
def Obligations.StepRunsDecoded : Prop :=
  ∀ (s : State) (line : List Byte) (b : Bundle) (p : SlotPos) (i : Instr),
    let c := s.cur.core
    let x : CtxId := { core := c, slot := 0 }
    let v : State := ({ s with cur := { s.cur with slot := 0, pos := .g, scope := 0 }, raised := none } : State).modCore c Core.tickClock
    let a := (v.ctx x).pc
    let h := v.obtainCode x (v.ctx x).reg.ptroot (v.ctx x).sup a
    let w := h.touch x (h.ctx x).reg.ptroot (lineOf a)
    let named (w : State) : State := w.modCore c fun k => (namesV i).foldl (fun k r => k.name (liveSlot 0 r)) k
    let begin_ (w : State) : State := named { w with cur := { core := c, slot := 0, pos := p, scope := 0, addr := a }, raised := none }
    let o := begin_ w
    let u := begin_ ((named w).modCore c fun k => { k with streak := 0 })
    s.agenda = [] → s.turns = [] → s.absent.contains c = false → s.mgmt.shutter.fired = [] →
    v.halted = false → v.firstServed c = none → (v.ctx { core := c, slot := 1 }).status = .empty → (v.core c).bank = none →
    (v.ctx x).status = .running → (∀ e ∈ (v.ctx x).delay, e.left ≠ 0) → (v.ctx x).releasing = none → (v.ctx x).evict = none →
    (v.ctx x).reloadErr = none → (v.ctx x).pause = 0 → (v.ctx x).carveWord = none → v.carveHolds x = false →
    (∀ k, (v.ctx x).task = some k → k.det = 0) → (v.ctx x).rephase = false →
    (v.ctx x).reg.trctl.getLsbD 63 = false → (v.ctx x).trace.stall = 0 → (v.ctx x).high = 0 → (v.ctx x).checked = true →
    (∀ l, v.translate c (v.ctx x).reg.ptroot (v.ctx x).sup .fetch (lineOf a) = .ok l → Held v l 64) →
    h.fetchLine x (h.ctx x).reg.ptroot (h.ctx x).sup .bundle a = .ok line → (a.toNat % 64 = 0 → isHead line = false) →
    line.getD (a.toNat % 64) 0 ≠ 0 → w.decodeFault (a.toNat % 64) (line.drop (a.toNat % 64)) = none →
    decodeBundle (a.toNat % 64) (line.drop (a.toNat % 64)) = .ok b → b.gate = Gate.absent → b.ops = [(p, i)] →
    (∀ r ∈ namesV i, (w.core c).residentV 0 r = true) → Ready i o → Ready i u →
    (∀ t e, exec i o = .next t → t.raised = some e → o.holdFor e = none) →
    Unmoved { s with cur := u.cur, raised := none } u ∧
    (∀ t, exec i u = .next t → t.raised = none →
      step s = .next (if endsRun i then t else t.commit x (commitsAsCheckpoint i || writesCarve i)).settleCtl) ∧
    (∀ t e, exec i u = .next t → t.raised = some e → u.holdFor e = none →
      step s = .next ((u.drawn t).stopBundle (u.drawn t) t.cur.pos e).settleCtl)

/-- Decoding and encoding agree (R28, R33 to R42): the word of every well-formed instruction decodes, in its slot, to the
instruction, with every operand at every value it can have (rows that one encoding shares and a register tells apart, to the
first of them); every instruction of a slot has a word, and an event has none; and every word that decodes to a well-formed instruction is the word of that instruction, so that each has one
word and no reserved bit is passed over. The model's own readings in it: log 8. -/
def Obligations.EncodingsRoundTrip : Prop :=
  (∀ i, Laws.Coded.Statement i) ∧ (∀ p w i, decodeSlot p w = some i → i.wf = true → encode i = some w) ∧
  ∀ i, (encode i).isSome = !(Laws.Coded.isEvent i)

/-- Memory keeps its one canonical form, addresses rising and nothing listed that reads the same unlisted, through every step from
every state that has it. The model's own readings in it: log 1. -/
def Obligations.MemoryStaysCanonical : Prop :=
  ∀ s t : State, Memory.wf s.mem = true → step s = .next t → Memory.wf t.mem = true
end

