-- ==== Sys2Proof/Laws/Dispatch.lean ====
section
/-! SUPPORT. Each arm of `exec` is its meaning. -/

namespace Sys2Proof.Machine

theorem exec_add d a b (s : State) : exec (.add d a b) s = execAdd d a b s := rfl
theorem exec_sub d a b (s : State) : exec (.sub d a b) s = execSub d a b s := rfl
theorem exec_and d a b (s : State) : exec (.and d a b) s = execAnd d a b s := rfl
theorem exec_or d a b (s : State) : exec (.or d a b) s = execOr d a b s := rfl
theorem exec_xor d a b (s : State) : exec (.xor d a b) s = execXor d a b s := rfl
theorem exec_andn d a b (s : State) : exec (.andn d a b) s = execAndn d a b s := rfl
theorem exec_shl d a b (s : State) : exec (.shl d a b) s = execShl d a b s := rfl
theorem exec_shr d a b (s : State) : exec (.shr d a b) s = execShr d a b s := rfl
theorem exec_sar d a b (s : State) : exec (.sar d a b) s = execSar d a b s := rfl
theorem exec_rol d a b (s : State) : exec (.rol d a b) s = execRol d a b s := rfl
theorem exec_min d a b (s : State) : exec (.min d a b) s = execMin d a b s := rfl
theorem exec_max d a b (s : State) : exec (.max d a b) s = execMax d a b s := rfl
theorem exec_minn d a b (s : State) : exec (.minn d a b) s = execMinn d a b s := rfl
theorem exec_maxn d a b (s : State) : exec (.maxn d a b) s = execMaxn d a b s := rfl
theorem exec_cmpEq d a b (s : State) : exec (.cmpEq d a b) s = execCmpEq d a b s := rfl
theorem exec_cmpNe d a b (s : State) : exec (.cmpNe d a b) s = execCmpNe d a b s := rfl
theorem exec_cmpLt d a b (s : State) : exec (.cmpLt d a b) s = execCmpLt d a b s := rfl
theorem exec_cmpLe d a b (s : State) : exec (.cmpLe d a b) s = execCmpLe d a b s := rfl
theorem exec_cmpLtn d a b (s : State) : exec (.cmpLtn d a b) s = execCmpLtn d a b s := rfl
theorem exec_cmpLen d a b (s : State) : exec (.cmpLen d a b) s = execCmpLen d a b s := rfl
theorem exec_clz d a (s : State) : exec (.clz d a) s = execClz d a s := rfl
theorem exec_ctz d a (s : State) : exec (.ctz d a) s = execCtz d a s := rfl
theorem exec_ffs d a (s : State) : exec (.ffs d a) s = execFfs d a s := rfl
theorem exec_popc d a (s : State) : exec (.popc d a) s = execPopc d a s := rfl
theorem exec_brev d a (s : State) : exec (.brev d a) s = execBrev d a s := rfl
theorem exec_mul d a b (s : State) : exec (.mul d a b) s = execMul d a b s := rfl
theorem exec_mulh d a b (s : State) : exec (.mulh d a b) s = execMulh d a b s := rfl
theorem exec_mulhn d a b (s : State) : exec (.mulhn d a b) s = execMulhn d a b s := rfl
theorem exec_div d a b (s : State) : exec (.div d a b) s = execDiv d a b s := rfl
theorem exec_divn d a b (s : State) : exec (.divn d a b) s = execDivn d a b s := rfl
theorem exec_rem d a b (s : State) : exec (.rem d a b) s = execRem d a b s := rfl
theorem exec_remn d a b (s : State) : exec (.remn d a b) s = execRemn d a b s := rfl
theorem exec_addi d a imm (s : State) : exec (.addi d a imm) s = execAddi d a imm s := rfl
theorem exec_andi d a imm (s : State) : exec (.andi d a imm) s = execAndi d a imm s := rfl
theorem exec_ori d a imm (s : State) : exec (.ori d a imm) s = execOri d a imm s := rfl
theorem exec_xori d a imm (s : State) : exec (.xori d a imm) s = execXori d a imm s := rfl
theorem exec_shli d a n (s : State) : exec (.shli d a n) s = execShli d a n s := rfl
theorem exec_shri d a n (s : State) : exec (.shri d a n) s = execShri d a n s := rfl
theorem exec_sari d a n (s : State) : exec (.sari d a n) s = execSari d a n s := rfl
theorem exec_roli d a n (s : State) : exec (.roli d a n) s = execRoli d a n s := rfl
theorem exec_cmpiEq d a imm (s : State) : exec (.cmpiEq d a imm) s = execCmpiEq d a imm s := rfl
theorem exec_cmpiNe d a imm (s : State) : exec (.cmpiNe d a imm) s = execCmpiNe d a imm s := rfl
theorem exec_cmpiLt d a imm (s : State) : exec (.cmpiLt d a imm) s = execCmpiLt d a imm s := rfl
theorem exec_cmpiLe d a imm (s : State) : exec (.cmpiLe d a imm) s = execCmpiLe d a imm s := rfl
theorem exec_cmpiLtn d a imm (s : State) : exec (.cmpiLtn d a imm) s = execCmpiLtn d a imm s := rfl
theorem exec_cmpiLen d a imm (s : State) : exec (.cmpiLen d a imm) s = execCmpiLen d a imm s := rfl
theorem exec_bfxN d a l p (s : State) : exec (.bfxN d a l p) s = execBfxN d a l p s := rfl
theorem exec_bfxI d a l p (s : State) : exec (.bfxI d a l p) s = execBfxI d a l p s := rfl
theorem exec_bfi d a l p (s : State) : exec (.bfi d a l p) s = execBfi d a l p s := rfl
theorem exec_fshl d a b n (s : State) : exec (.fshl d a b n) s = execFshl d a b n s := rfl
theorem exec_fshr d a b n (s : State) : exec (.fshr d a b n) s = execFshr d a b n s := rfl
theorem exec_fshlv d a b c (s : State) : exec (.fshlv d a b c) s = execFshlv d a b c s := rfl
theorem exec_fshrv d a b c (s : State) : exec (.fshrv d a b c) s = execFshrv d a b c s := rfl
theorem exec_sel d a b c (s : State) : exec (.sel d a b c) s = execSel d a b c s := rfl
theorem exec_li d imm (s : State) : exec (.li d imm) s = execLi d imm s := rfl
theorem exec_liu d imm (s : State) : exec (.liu d imm) s = execLiu d imm s := rfl
theorem exec_mfs d n (s : State) : exec (.mfs d n) s = execMfs d n s := rfl
theorem exec_mts a n (s : State) : exec (.mts a n) s = execMts a n s := rfl
theorem exec_clk d (s : State) : exec (.clk d) s = execClk d s := rfl
theorem exec_coreidLog d (s : State) : exec (.coreidLog d) s = execCoreidLog d s := rfl
theorem exec_coreidPhys d (s : State) : exec (.coreidPhys d) s = execCoreidPhys d s := rfl
theorem exec_brZ a imm (s : State) : exec (.brZ a imm) s = execBrZ a imm s := rfl
theorem exec_brNz a imm (s : State) : exec (.brNz a imm) s = execBrNz a imm s := rfl
theorem exec_brNeg a imm (s : State) : exec (.brNeg a imm) s = execBrNeg a imm s := rfl
theorem exec_brNneg a imm (s : State) : exec (.brNneg a imm) s = execBrNneg a imm s := rfl
theorem exec_brPos a imm (s : State) : exec (.brPos a imm) s = execBrPos a imm s := rfl
theorem exec_brNpos a imm (s : State) : exec (.brNpos a imm) s = execBrNpos a imm s := rfl
theorem exec_br imm (s : State) : exec (.br imm) s = execBr imm s := rfl
theorem exec_jmp a (s : State) : exec (.jmp a) s = execJmp a s := rfl
theorem exec_call imm (s : State) : exec (.call imm) s = execCall imm s := rfl
theorem exec_callr a (s : State) : exec (.callr a) s = execCallr a s := rfl
theorem exec_chk a imm (s : State) : exec (.chk a imm) s = execChk a imm s := rfl
theorem exec_ldI8 d b c o (s : State) : exec (.ldI8 d b c o) s = execLdI8 d b c o s := rfl
theorem exec_ldN8 d b c o (s : State) : exec (.ldN8 d b c o) s = execLdN8 d b c o s := rfl
theorem exec_ldI16 d b c o (s : State) : exec (.ldI16 d b c o) s = execLdI16 d b c o s := rfl
theorem exec_ldN16 d b c o (s : State) : exec (.ldN16 d b c o) s = execLdN16 d b c o s := rfl
theorem exec_ldI32 d b c o (s : State) : exec (.ldI32 d b c o) s = execLdI32 d b c o s := rfl
theorem exec_ldN32 d b c o (s : State) : exec (.ldN32 d b c o) s = execLdN32 d b c o s := rfl
theorem exec_ldI64 d b c o (s : State) : exec (.ldI64 d b c o) s = execLdI64 d b c o s := rfl
theorem exec_ldSN32 d b c o (s : State) : exec (.ldSN32 d b c o) s = execLdSN32 d b c o s := rfl
theorem exec_ldSI64 d b c o (s : State) : exec (.ldSI64 d b c o) s = execLdSI64 d b c o s := rfl
theorem exec_st8 d b c o (s : State) : exec (.st8 d b c o) s = execSt8 d b c o s := rfl
theorem exec_st16 d b c o (s : State) : exec (.st16 d b c o) s = execSt16 d b c o s := rfl
theorem exec_st32 d b c o (s : State) : exec (.st32 d b c o) s = execSt32 d b c o s := rfl
theorem exec_st64 d b c o (s : State) : exec (.st64 d b c o) s = execSt64 d b c o s := rfl
theorem exec_ldBlk f a b r c (s : State) : exec (.ldBlk f a b r c) s = execLdBlk f a b r c s := rfl
theorem exec_amo32 d a b p c (s : State) : exec (.amo32 d a b p c) s = execAmo32 d a b p c s := rfl
theorem exec_amo64 d a b p c (s : State) : exec (.amo64 d a b p c) s = execAmo64 d a b p c s := rfl
theorem exec_rld d a l (s : State) : exec (.rld d a l) s = execRld d a l s := rfl
theorem exec_fenceC m (s : State) : exec (.fenceC m) s = execFenceC m s := rfl
theorem exec_fenceP p q (s : State) : exec (.fenceP p q) s = execFenceP p q s := rfl
theorem exec_sig a (s : State) : exec (.sig a) s = execSig a s := rfl
theorem exec_clrf a (s : State) : exec (.clrf a) s = execClrf a s := rfl
theorem exec_clrfErr a (s : State) : exec (.clrfErr a) s = execClrfErr a s := rfl
theorem exec_advP h b (s : State) : exec (.advP h b) s = execAdvP h b s := rfl
theorem exec_advC h b (s : State) : exec (.advC h b) s = execAdvC h b s := rfl
theorem exec_rfill f h b (s : State) : exec (.rfill f h b) s = execRfill f h b s := rfl
theorem exec_rfree f h b (s : State) : exec (.rfree f h b) s = execRfree f h b s := rfl
theorem exec_seqadd a b (s : State) : exec (.seqadd a b) s = execSeqadd a b s := rfl
theorem exec_seqwatch f a b (s : State) : exec (.seqwatch f a b) s = execSeqwatch f a b s := rfl
theorem exec_seqwatchTag f a b (s : State) : exec (.seqwatchTag f a b) s = execSeqwatchTag f a b s := rfl
theorem exec_seqrd d a (s : State) : exec (.seqrd d a) s = execSeqrd d a s := rfl
theorem exec_launch d a b (s : State) : exec (.launch d a b) s = execLaunch d a b s := rfl
theorem exec_launchQF d b (s : State) : exec (.launchQF d b) s = execLaunchQF d b s := rfl
theorem exec_launchQB d b (s : State) : exec (.launchQB d b) s = execLaunchQB d b s := rfl
theorem exec_launchQW d b (s : State) : exec (.launchQW d b) s = execLaunchQW d b s := rfl
theorem exec_carve d a (s : State) : exec (.carve d a) s = execCarve d a s := rfl
theorem exec_trap n (s : State) : exec (.trap n) s = execTrap n s := rfl
theorem exec_qseed a b (s : State) : exec (.qseed a b) s = execQseed a b s := rfl
theorem exec_qldt c a b (s : State) : exec (.qldt c a b) s = execQldt c a b s := rfl
theorem exec_qpt d a b (s : State) : exec (.qpt d a b) s = execQpt d a b s := rfl
theorem exec_qsave c a b (s : State) : exec (.qsave c a b) s = execQsave c a b s := rfl
theorem exec_pause g n (s : State) : exec (.pause g n) s = execPause g n s := rfl
theorem exec_phase g n (s : State) : exec (.phase g n) s = execPhase g n s := rfl
theorem exec_mark g n (s : State) : exec (.mark g n) s = execMark g n s := rfl
theorem exec_vadd t d a b k h (s : State) : exec (.vadd t d a b k h) s = execVadd t d a b k h s := rfl
theorem exec_vaddSat t d a b k h (s : State) : exec (.vaddSat t d a b k h) s = execVaddSat t d a b k h s := rfl
theorem exec_vsub t d a b k h (s : State) : exec (.vsub t d a b k h) s = execVsub t d a b k h s := rfl
theorem exec_vsubSat t d a b k h (s : State) : exec (.vsubSat t d a b k h) s = execVsubSat t d a b k h s := rfl
theorem exec_vmul t d a b k h (s : State) : exec (.vmul t d a b k h) s = execVmul t d a b k h s := rfl
theorem exec_vmulHi t d a b k h (s : State) : exec (.vmulHi t d a b k h) s = execVmulHi t d a b k h s := rfl
theorem exec_vmulWide t d a b k h (s : State) : exec (.vmulWide t d a b k h) s = execVmulWide t d a b k h s := rfl
theorem exec_vfma t d a b k h (s : State) : exec (.vfma t d a b k h) s = execVfma t d a b k h s := rfl
theorem exec_vfmaFms t d a b k h (s : State) : exec (.vfmaFms t d a b k h) s = execVfmaFms t d a b k h s := rfl
theorem exec_vfmaFnma t d a b k h (s : State) : exec (.vfmaFnma t d a b k h) s = execVfmaFnma t d a b k h s := rfl
theorem exec_vmin t d a b k h (s : State) : exec (.vmin t d a b k h) s = execVmin t d a b k h s := rfl
theorem exec_vmax t d a b k h (s : State) : exec (.vmax t d a b k h) s = execVmax t d a b k h s := rfl
theorem exec_vabs t d a k (s : State) : exec (.vabs t d a k) s = execVabs t d a k s := rfl
theorem exec_vneg t d a k (s : State) : exec (.vneg t d a k) s = execVneg t d a k s := rfl
theorem exec_vlogAnd t d a b k h (s : State) : exec (.vlogAnd t d a b k h) s = execVlogAnd t d a b k h s := rfl
theorem exec_vlogOr t d a b k h (s : State) : exec (.vlogOr t d a b k h) s = execVlogOr t d a b k h s := rfl
theorem exec_vlogXor t d a b k h (s : State) : exec (.vlogXor t d a b k h) s = execVlogXor t d a b k h s := rfl
theorem exec_vlogAndn t d a b k h (s : State) : exec (.vlogAndn t d a b k h) s = execVlogAndn t d a b k h s := rfl
theorem exec_vlogNot t d a k (s : State) : exec (.vlogNot t d a k) s = execVlogNot t d a k s := rfl
theorem exec_vshShl t d a b k h (s : State) : exec (.vshShl t d a b k h) s = execVshShl t d a b k h s := rfl
theorem exec_vshShr t d a b k h (s : State) : exec (.vshShr t d a b k h) s = execVshShr t d a b k h s := rfl
theorem exec_vshSar t d a b k h (s : State) : exec (.vshSar t d a b k h) s = execVshSar t d a b k h s := rfl
theorem exec_vcmpEq t m a b k h (s : State) : exec (.vcmpEq t m a b k h) s = execVcmpEq t m a b k h s := rfl
theorem exec_vcmpNe t m a b k h (s : State) : exec (.vcmpNe t m a b k h) s = execVcmpNe t m a b k h s := rfl
theorem exec_vcmpLt t m a b k h (s : State) : exec (.vcmpLt t m a b k h) s = execVcmpLt t m a b k h s := rfl
theorem exec_vcmpLe t m a b k h (s : State) : exec (.vcmpLe t m a b k h) s = execVcmpLe t m a b k h s := rfl
theorem exec_vcmpGt t m a b k h (s : State) : exec (.vcmpGt t m a b k h) s = execVcmpGt t m a b k h s := rfl
theorem exec_vcmpGe t m a b k h (s : State) : exec (.vcmpGe t m a b k h) s = execVcmpGe t m a b k h s := rfl
theorem exec_vcmpUo t m a b k h (s : State) : exec (.vcmpUo t m a b k h) s = execVcmpUo t m a b k h s := rfl
theorem exec_vsel t d a b k h sel (s : State) : exec (.vsel t d a b k h sel) s = execVsel t d a b k h sel s := rfl
theorem exec_vbitClz t d a k (s : State) : exec (.vbitClz t d a k) s = execVbitClz t d a k s := rfl
theorem exec_vbitCtz t d a k (s : State) : exec (.vbitCtz t d a k) s = execVbitCtz t d a k s := rfl
theorem exec_vbitFfs t d a k (s : State) : exec (.vbitFfs t d a k) s = execVbitFfs t d a k s := rfl
theorem exec_vbitPopc t d a k (s : State) : exec (.vbitPopc t d a k) s = execVbitPopc t d a k s := rfl
theorem exec_vbfxN32 d a b k h (s : State) : exec (.vbfxN32 d a b k h) s = execVbfxN32 d a b k h s := rfl
theorem exec_vbfxI32 d a b k h (s : State) : exec (.vbfxI32 d a b k h) s = execVbfxI32 d a b k h s := rfl
theorem exec_vfshLeft t d a b k h (s : State) : exec (.vfshLeft t d a b k h) s = execVfshLeft t d a b k h s := rfl
theorem exec_vfshRight t d a b k h (s : State) : exec (.vfshRight t d a b k h) s = execVfshRight t d a b k h s := rfl
theorem exec_vspecExp2 d a k (s : State) : exec (.vspecExp2 d a k) s = execVspecExp2 d a k s := rfl
theorem exec_vspecLog2 d a k (s : State) : exec (.vspecLog2 d a k) s = execVspecLog2 d a k s := rfl
theorem exec_vspecRcp d a k (s : State) : exec (.vspecRcp d a k) s = execVspecRcp d a k s := rfl
theorem exec_vspecRsqrt d a k (s : State) : exec (.vspecRsqrt d a k) s = execVspecRsqrt d a k s := rfl
theorem exec_vspecSqrt d a k (s : State) : exec (.vspecSqrt d a k) s = execVspecSqrt d a k s := rfl
theorem exec_vredAdd t d a k (s : State) : exec (.vredAdd t d a k) s = execVredAdd t d a k s := rfl
theorem exec_vredMax t d a k (s : State) : exec (.vredMax t d a k) s = execVredMax t d a k s := rfl
theorem exec_vredMin t d a k (s : State) : exec (.vredMin t d a k) s = execVredMin t d a k s := rfl
theorem exec_vshuf t d a b k h (s : State) : exec (.vshuf t d a b k h) s = execVshuf t d a b k h s := rfl
theorem exec_vrot t d a b k h (s : State) : exec (.vrot t d a b k h) s = execVrot t d a b k h s := rfl
theorem exec_vxg t d a b k h (s : State) : exec (.vxg t d a b k h) s = execVxg t d a b k h s := rfl
theorem exec_vbcast t d a k (s : State) : exec (.vbcast t d a k) s = execVbcast t d a k s := rfl
theorem exec_vext t d a b (s : State) : exec (.vext t d a b) s = execVext t d a b s := rfl
theorem exec_vld t d a b k (s : State) : exec (.vld t d a b k) s = execVld t d a b k s := rfl
theorem exec_vst t d a b k (s : State) : exec (.vst t d a b k) s = execVst t d a b k s := rfl
theorem exec_vgath t d a b k (s : State) : exec (.vgath t d a b k) s = execVgath t d a b k s := rfl
theorem exec_vscat t d a b k (s : State) : exec (.vscat t d a b k) s = execVscat t d a b k s := rfl
theorem exec_vamoAdd t d a b k (s : State) : exec (.vamoAdd t d a b k) s = execVamoAdd t d a b k s := rfl
theorem exec_vamoAddSr d a b k (s : State) : exec (.vamoAddSr d a b k) s = execVamoAddSr d a b k s := rfl
theorem exec_vamoMin t d a b k (s : State) : exec (.vamoMin t d a b k) s = execVamoMin t d a b k s := rfl
theorem exec_vamoMax t d a b k (s : State) : exec (.vamoMax t d a b k) s = execVamoMax t d a b k s := rfl
theorem exec_vamoFmax t d a b k (s : State) : exec (.vamoFmax t d a b k) s = execVamoFmax t d a b k s := rfl
theorem exec_vqpt t d a b k (s : State) : exec (.vqpt t d a b k) s = execVqpt t d a b k s := rfl
theorem exec_vmaskAnd d a b k (s : State) : exec (.vmaskAnd d a b k) s = execVmaskAnd d a b k s := rfl
theorem exec_vmaskOr d a b k (s : State) : exec (.vmaskOr d a b k) s = execVmaskOr d a b k s := rfl
theorem exec_vmaskXor d a b k (s : State) : exec (.vmaskXor d a b k) s = execVmaskXor d a b k s := rfl
theorem exec_vmaskAndn d a b k (s : State) : exec (.vmaskAndn d a b k) s = execVmaskAndn d a b k s := rfl
theorem exec_vmaskNot d a k (s : State) : exec (.vmaskNot d a k) s = execVmaskNot d a k s := rfl
theorem exec_vmaskMov d a k (s : State) : exec (.vmaskMov d a k) s = execVmaskMov d a k s := rfl
theorem exec_vmov t d a k (s : State) : exec (.vmov t d a k) s = execVmov t d a k s := rfl
theorem exec_mcall e imm f (s : State) : exec (.mcall e imm f) s = execMcall e imm f s := rfl
theorem exec_mlds a f p q (s : State) : exec (.mlds a f p q) s = execMlds a f p q s := rfl
theorem exec_mswap a (s : State) : exec (.mswap a) s = execMswap a s := rfl
theorem exec_mstream a t imm (s : State) : exec (.mstream a t imm) s = execMstream a t imm s := rfl
theorem exec_mstreamEyepiece a e t imm (s : State) : exec (.mstreamEyepiece a e t imm) s = execMstreamEyepiece a e t imm s := rfl
theorem exec_mdrain f t m c (s : State) : exec (.mdrain f t m c) s = execMdrain f t m c s := rfl
theorem exec_mzero q (s : State) : exec (.mzero q) s = execMzero q s := rfl
theorem exec_mepl e q (s : State) : exec (.mepl e q) s = execMepl e q s := rfl
theorem exec_mmode m o b w a (s : State) : exec (.mmode m o b w a) s = execMmode m o b w a s := rfl
theorem exec_mseg f r c (s : State) : exec (.mseg f r c) s = execMseg f r c s := rfl
theorem exec_mqset q a (s : State) : exec (.mqset q a) s = execMqset q a s := rfl
theorem exec_mephw a b f sel e (s : State) : exec (.mephw a b f sel e) s = execMephw a b f sel e s := rfl
theorem exec_mstat d c (s : State) : exec (.mstat d c) s = execMstat d c s := rfl
theorem exec_cpy n f a b c (s : State) : exec (.cpy n f a b c) s = execCpy n f a b c s := rfl
theorem exec_cgath n f a b c (s : State) : exec (.cgath n f a b c) s = execCgath n f a b c s := rfl
theorem exec_cscat n f a b c (s : State) : exec (.cscat n f a b c) s = execCscat n f a b c s := rfl
theorem exec_cfill n f a b c (s : State) : exec (.cfill n f a b c) s = execCfill n f a b c s := rfl
theorem exec_cred n f a b c (s : State) : exec (.cred n f a b c) s = execCred n f a b c s := rfl
theorem exec_cbcast n f a b c (s : State) : exec (.cbcast n f a b c) s = execCbcast n f a b c s := rfl
theorem exec_cxfm n f a b c (s : State) : exec (.cxfm n f a b c) s = execCxfm n f a b c s := rfl
theorem exec_cstashSave n f a b c (s : State) : exec (.cstashSave n f a b c) s = execCstashSave n f a b c s := rfl
theorem exec_cstashGet n f a b c (s : State) : exec (.cstashGet n f a b c) s = execCstashGet n f a b c s := rfl
theorem exec_cstashPf n f c (s : State) : exec (.cstashPf n f c) s = execCstashPf n f c s := rfl
theorem exec_cstashDrop n f c (s : State) : exec (.cstashDrop n f c) s = execCstashDrop n f c s := rfl
theorem exec_cverFork n f a (s : State) : exec (.cverFork n f a) s = execCverFork n f a s := rfl
theorem exec_cverRetire n f a (s : State) : exec (.cverRetire n f a) s = execCverRetire n f a s := rfl
theorem exec_cverSettle n f a (s : State) : exec (.cverSettle n f a) s = execCverSettle n f a s := rfl
theorem exec_csend n f a b c (s : State) : exec (.csend n f a b c) s = execCsend n f a b c s := rfl
theorem exec_crecv n f a b c (s : State) : exec (.crecv n f a b c) s = execCrecv n f a b c s := rfl
theorem exec_cringReduceScatter n f a b c (s : State) : exec (.cringReduceScatter n f a b c) s = execCringReduceScatter n f a b c s := rfl
theorem exec_cringAllGather n f a b c (s : State) : exec (.cringAllGather n f a b c) s = execCringAllGather n f a b c s := rfl
theorem exec_cringReduceScatterF32 n f a b c (s : State) : exec (.cringReduceScatterF32 n f a b c) s = execCringReduceScatterF32 n f a b c s := rfl
theorem exec_cringAllGatherF32 n f a b c (s : State) : exec (.cringAllGatherF32 n f a b c) s = execCringAllGatherF32 n f a b c s := rfl
theorem exec_cnred n f a b c (s : State) : exec (.cnred n f a b c) s = execCnred n f a b c s := rfl
theorem exec_cmaintClean n f a b c (s : State) : exec (.cmaintClean n f a b c) s = execCmaintClean n f a b c s := rfl
theorem exec_cmaintFlush n f a b c (s : State) : exec (.cmaintFlush n f a b c) s = execCmaintFlush n f a b c s := rfl
theorem exec_cmaintInval n f a b c (s : State) : exec (.cmaintInval n f a b c) s = execCmaintInval n f a b c s := rfl
theorem exec_cmaintTlb n f a b c (s : State) : exec (.cmaintTlb n f a b c) s = execCmaintTlb n f a b c s := rfl
theorem exec_cpin n f a b c (s : State) : exec (.cpin n f a b c) s = execCpin n f a b c s := rfl
theorem exec_cpinUnpin n f a b c (s : State) : exec (.cpinUnpin n f a b c) s = execCpinUnpin n f a b c s := rfl
theorem exec_cmcast n f a b (s : State) : exec (.cmcast n f a b) s = execCmcast n f a b s := rfl
theorem exec_xcvt f g d a (s : State) : exec (.xcvt f g d a) s = execXcvt f g d a s := rfl
theorem exec_xcvtSr f g d a b (s : State) : exec (.xcvtSr f g d a b) s = execXcvtSr f g d a b s := rfl
theorem exec_xq k sel m d a z (s : State) : exec (.xq k sel m d a z) s = execXq k sel m d a z s := rfl
theorem exec_xdq k sel m d a z (s : State) : exec (.xdq k sel m d a z) s = execXdq k sel m d a z s := rfl
theorem exec_xsld v c k o z h b (s : State) : exec (.xsld v c k o z h b) s = execXsld v c k o z h b s := rfl
theorem exec_xsst v c k o z h b (s : State) : exec (.xsst v c k o z h b) s = execXsst v c k o z h b s := rfl
theorem exec_xtr w d a (s : State) : exec (.xtr w d a) s = execXtr w d a s := rfl
theorem exec_xperm w d a b (s : State) : exec (.xperm w d a b) s = execXperm w d a b s := rfl
theorem exec_xhad n imm d a b (s : State) : exec (.xhad n imm d a b) s = execXhad n imm d a b s := rfl
theorem exec_xamax f d a b (s : State) : exec (.xamax f d a b) s = execXamax f d a b s := rfl
theorem exec_xpack m w sel g d a (s : State) : exec (.xpack m w sel g d a) s = execXpack m w sel g d a s := rfl
theorem exec_xunpk m w g d a (s : State) : exec (.xunpk m w g d a) s = execXunpk m w g d a s := rfl
theorem exec_xexp w d a m (s : State) : exec (.xexp w d a m) s = execXexp w d a m s := rfl
theorem exec_xtblPerm a b (s : State) : exec (.xtblPerm a b) s = execXtblPerm a b s := rfl
theorem exec_xtblKey a (s : State) : exec (.xtblKey a) s = execXtblKey a s := rfl
theorem exec_retire (s : State) : exec (.retire) s = execRetire s := rfl
theorem exec_retu (s : State) : exec (.retu) s = execRetu s := rfl
theorem exec_retl (s : State) : exec (.retl) s = execRetl s := rfl
theorem exec_mOperationExecute x (s : State) : exec (.mOperationExecute x) s = execMOperationExecute x s := rfl
theorem exec_mldsCompletion x (s : State) : exec (.mldsCompletion x) s = execMldsCompletion x s := rfl
theorem exec_mdrainCompletion x (s : State) : exec (.mdrainCompletion x) s = execMdrainCompletion x s := rfl
theorem exec_routineCompletion x (s : State) : exec (.routineCompletion x) s = execRoutineCompletion x s := rfl
theorem exec_packageReset b (s : State) : exec (.packageReset b) s = execPackageReset b s := rfl
theorem exec_loadDataArrival x (s : State) : exec (.loadDataArrival x) s = execLoadDataArrival x s := rfl
theorem exec_registerFill x v (s : State) : exec (.registerFill x v) s = execRegisterFill x v s := rfl
theorem exec_pageWalk x va (s : State) : exec (.pageWalk x va) s = execPageWalk x va s := rfl
theorem exec_releasedStorePerform x n (s : State) : exec (.releasedStorePerform x n) s = execReleasedStorePerform x n s := rfl
theorem exec_storeRefused x n prot (s : State) : exec (.storeRefused x n prot) s = execStoreRefused x n prot s := rfl
theorem exec_rqctlRetry x (s : State) : exec (.rqctlRetry x) s = execRqctlRetry x s := rfl
theorem exec_rqctlDrop x (s : State) : exec (.rqctlDrop x) s = execRqctlDrop x s := rfl
theorem exec_commandExecute core queue (s : State) : exec (.commandExecute core queue) s = execCommandExecute core queue s := rfl
theorem exec_commandCompletion core n outcome (s : State) : exec (.commandCompletion core n outcome) s = execCommandCompletion core n outcome s := rfl
theorem exec_ldBlkCompletion core n (s : State) : exec (.ldBlkCompletion core n) s = execLdBlkCompletion core n s := rfl
theorem exec_watchFire x j (s : State) : exec (.watchFire x j) s = execWatchFire x j s := rfl
theorem exec_userInterruptDelivery x (s : State) : exec (.userInterruptDelivery x) s = execUserInterruptDelivery x s := rfl
theorem exec_rldDeadline x (s : State) : exec (.rldDeadline x) s = execRldDeadline x s := rfl
theorem exec_rldReply x n (s : State) : exec (.rldReply x n) s = execRldReply x n s := rfl
theorem exec_faultRecordWrite (s : State) : exec (.faultRecordWrite) s = execFaultRecordWrite s := rfl
theorem exec_frqWrite v (s : State) : exec (.frqWrite v) s = execFrqWrite v s := rfl
theorem exec_taskStart x (s : State) : exec (.taskStart x) s = execTaskStart x s := rfl
theorem exec_preemptionDecision l (s : State) : exec (.preemptionDecision l) s = execPreemptionDecision l s := rfl
theorem exec_sliceFloorExpiry x (s : State) : exec (.sliceFloorExpiry x) s = execSliceFloorExpiry x s := rfl
theorem exec_quantumExpiry x (s : State) : exec (.quantumExpiry x) s = execQuantumExpiry x s := rfl
theorem exec_preemptForcedCheckpoint x (s : State) : exec (.preemptForcedCheckpoint x) s = execPreemptForcedCheckpoint x s := rfl
theorem exec_checkpointSwitchOut x (s : State) : exec (.checkpointSwitchOut x) s = execCheckpointSwitchOut x s := rfl
theorem exec_taskResume x (s : State) : exec (.taskResume x) s = execTaskResume x s := rfl
theorem exec_meridianFiring m (s : State) : exec (.meridianFiring m) s = execMeridianFiring m s := rfl
theorem exec_channelMessageArrival ch peer pch tag lost data (s : State) : exec (.channelMessageArrival ch peer pch tag lost data) s = execChannelMessageArrival ch peer pch tag lost data s := rfl
theorem exec_stashPrefetch (s : State) : exec (.stashPrefetch) s = execStashPrefetch s := rfl
theorem exec_releaseFlush (s : State) : exec (.releaseFlush) s = execReleaseFlush s := rfl
theorem exec_nredChunkArrival grp seq chunk rank fits lost data (s : State) : exec (.nredChunkArrival grp seq chunk rank fits lost data) s = execNredChunkArrival grp seq chunk rank fits lost data s := rfl
theorem exec_nredDeadlineSpill grp seq chunk (s : State) : exec (.nredDeadlineSpill grp seq chunk) s = execNredDeadlineSpill grp seq chunk s := rfl
theorem exec_ringStepArrival id kind step n lost data (s : State) : exec (.ringStepArrival id kind step n lost data) s = execRingStepArrival id kind step n lost data s := rfl
theorem exec_keyAgreement port peer secret (s : State) : exec (.keyAgreement port peer secret) s = execKeyAgreement port peer secret s := rfl
theorem exec_epochRotation port peer secret (s : State) : exec (.epochRotation port peer secret) s = execEpochRotation port peer secret s := rfl
theorem exec_frameReceive port epoch counter tagOk (s : State) : exec (.frameReceive port epoch counter tagOk) s = execFrameReceive port epoch counter tagOk s := rfl
theorem exec_roundTripMeasure port us ns (s : State) : exec (.roundTripMeasure port us ns) s = execRoundTripMeasure port us ns s := rfl
theorem exec_packetReceive src stream seq data (s : State) : exec (.packetReceive src stream seq data) s = execPacketReceive src stream seq data s := rfl
theorem exec_e2eResend n (s : State) : exec (.e2eResend n) s = execE2eResend n s := rfl
theorem exec_heartbeat port (s : State) : exec (.heartbeat port) s = execHeartbeat port s := rfl
theorem exec_deadPeerDeclaration port (s : State) : exec (.deadPeerDeclaration port) s = execDeadPeerDeclaration port s := rfl
theorem exec_deadNoticeReceive dom coord (s : State) : exec (.deadNoticeReceive dom coord) s = execDeadNoticeReceive dom coord s := rfl
theorem exec_fabricRead line who (s : State) : exec (.fabricRead line who) s = execFabricRead line who s := rfl
theorem exec_fabricOwnership line who (s : State) : exec (.fabricOwnership line who) s = execFabricOwnership line who s := rfl
theorem exec_fabricInvalidation line home (s : State) : exec (.fabricInvalidation line home) s = execFabricInvalidation line home s := rfl
theorem exec_invalidationAck line who (s : State) : exec (.invalidationAck line who) s = execInvalidationAck line who s := rfl
theorem exec_fabricWriteBack line who data (s : State) : exec (.fabricWriteBack line who data) s = execFabricWriteBack line who data s := rfl
theorem exec_fabricEviction line who (s : State) : exec (.fabricEviction line who) s = execFabricEviction line who s := rfl
theorem exec_hbmRefresh stack bank (s : State) : exec (.hbmRefresh stack bank) s = execHbmRefresh stack bank s := rfl
theorem exec_lpddrRefresh bank (s : State) : exec (.lpddrRefresh bank) s = execLpddrRefresh bank s := rfl
theorem exec_linkRetrain port lane ok (s : State) : exec (.linkRetrain port lane ok) s = execLinkRetrain port lane ok s := rfl
theorem exec_scrub line (s : State) : exec (.scrub line) s = execScrub line s := rfl
theorem exec_uncorrectableError at_ unit (s : State) : exec (.uncorrectableError at_ unit) s = execUncorrectableError at_ unit s := rfl
theorem exec_correctedError u (s : State) : exec (.correctedError u) s = execCorrectedError u s := rfl
theorem exec_shutterArm m v (s : State) : exec (.shutterArm m v) s = execShutterArm m v s := rfl
theorem exec_shutterRelease m (s : State) : exec (.shutterRelease m) s = execShutterRelease m s := rfl
theorem exec_shutterFire src (s : State) : exec (.shutterFire src) s = execShutterFire src s := rfl
theorem exec_shutterLatch (s : State) : exec (.shutterLatch) s = execShutterLatch s := rfl
theorem exec_semaphoreAcquire m lease (s : State) : exec (.semaphoreAcquire m lease) s = execSemaphoreAcquire m lease s := rfl
theorem exec_semaphoreRenew m lease epoch (s : State) : exec (.semaphoreRenew m lease epoch) s = execSemaphoreRenew m lease epoch s := rfl
theorem exec_semaphoreRelease m epoch (s : State) : exec (.semaphoreRelease m epoch) s = execSemaphoreRelease m epoch s := rfl
theorem exec_leaseExpiry (s : State) : exec (.leaseExpiry) s = execLeaseExpiry s := rfl
theorem exec_guardedWrite m w (s : State) : exec (.guardedWrite m w) s = execGuardedWrite m w s := rfl
theorem exec_managementRequest r (s : State) : exec (.managementRequest r) s = execManagementRequest r s := rfl
theorem exec_mgevtRead (s : State) : exec (.mgevtRead) s = execMgevtRead s := rfl
theorem exec_attestationQuote nonce (s : State) : exec (.attestationQuote nonce) s = execAttestationQuote nonce s := rfl
theorem exec_counterWrite m n v (s : State) : exec (.counterWrite m n v) s = execCounterWrite m n v s := rfl
theorem exec_mgclkWrite m v (s : State) : exec (.mgclkWrite m v) s = execMgclkWrite m v s := rfl
theorem exec_governorInterval watts mirrorWatts amps junction (s : State) : exec (.governorInterval watts mirrorWatts amps junction) s = execGovernorInterval watts mirrorWatts amps junction s := rfl
theorem exec_coolantAlarm inlet flow (s : State) : exec (.coolantAlarm inlet flow) s = execCoolantAlarm inlet flow s := rfl
theorem exec_thermalTrip (s : State) : exec (.thermalTrip) s = execThermalTrip s := rfl
theorem exec_railShutoff (s : State) : exec (.railShutoff) s = execRailShutoff s := rfl
theorem exec_fctlResume x (s : State) : exec (.fctlResume x) s = execFctlResume x s := rfl
theorem exec_fctlKill x (s : State) : exec (.fctlKill x) s = execFctlKill x s := rfl
theorem exec_fctlSwitchOut x (s : State) : exec (.fctlSwitchOut x) s = execFctlSwitchOut x s := rfl
theorem exec_flagsWrite x v (s : State) : exec (.flagsWrite x v) s = execFlagsWrite x v s := rfl
theorem exec_mquartWrite x v (s : State) : exec (.mquartWrite x v) s = execMquartWrite x v s := rfl
theorem exec_carveWrite x v (s : State) : exec (.carveWrite x v) s = execCarveWrite x v s := rfl
theorem exec_hgWrite x n v (s : State) : exec (.hgWrite x n v) s = execHgWrite x n v s := rfl
theorem exec_hsWrite x n v (s : State) : exec (.hsWrite x n v) s = execHsWrite x n v s := rfl
theorem exec_watchEntryWrite x j threshold v (s : State) : exec (.watchEntryWrite x j threshold v) s = execWatchEntryWrite x j threshold v s := rfl
theorem exec_coreControlWrite core off v w (s : State) : exec (.coreControlWrite core off v w) s = execCoreControlWrite core off v w s := rfl
theorem exec_frposWrite v (s : State) : exec (.frposWrite v) s = execFrposWrite v s := rfl
theorem exec_vrbWrite k v (s : State) : exec (.vrbWrite k v) s = execVrbWrite k v s := rfl
theorem exec_contextCreate x pc sup (s : State) : exec (.contextCreate x pc sup) s = execContextCreate x pc sup s := rfl
theorem exec_counterAdd x n (s : State) : exec (.counterAdd x n) s = execCounterAdd x n s := rfl
theorem exec_forwardedRequest line who own (s : State) : exec (.forwardedRequest line who own) s = execForwardedRequest line who own s := rfl
theorem exec_coolantRestored inlet flow (s : State) : exec (.coolantRestored inlet flow) s = execCoolantRestored inlet flow s := rfl

end Sys2Proof.Machine
end

