-- ==== Sys2Proof/Laws/State.lean ====
section
/-! SUPPORT. What each named update of the machine leaves alone, field by field, and what reads after it give. -/

namespace Sys2Proof.Machine

/-! ## Cores and contexts read after a write -/

theorem getCore_putCore_same (l : List (Fin 1792 × Core)) (c : Fin 1792) (k : Core) : getCore (putCore l c k) c = k := by
  induction l with
  | nil => simp [putCore, getCore]
  | cons p l ih =>
    obtain ⟨d, x⟩ := p
    by_cases h : d = c
    · simp [putCore, getCore, h]
    · by_cases h' : c < d
      · simp [putCore, getCore, h, h']
      · simp [putCore, getCore, h, h', ih]

theorem getCore_putCore_ne (l : List (Fin 1792 × Core)) {c d : Fin 1792} (k : Core) (h : d ≠ c) :
    getCore (putCore l c k) d = getCore l d := by
  induction l with
  | nil => simp [putCore, getCore, Ne.symm h]
  | cons p l ih =>
    obtain ⟨e, x⟩ := p
    by_cases h1 : e = c
    · subst h1; simp [putCore, getCore, Ne.symm h]
    · by_cases h2 : c < e
      · simp [putCore, getCore, h1, h2, Ne.symm h]
      · by_cases h3 : e = d
        · subst h3; simp [putCore, getCore, h1, h2]
        · simp [putCore, getCore, h1, h2, h3, ih]

@[simp] theorem core_setCore_same (s : State) (c : Fin 1792) (k : Core) : (s.setCore c k).core c = k :=
  getCore_putCore_same s.cores c k

theorem core_setCore (s : State) (c d : Fin 1792) (k : Core) :
    (s.setCore c k).core d = if d = c then k else s.core d := by
  by_cases h : d = c
  · subst h; simp
  · simpa [h, State.core, State.setCore] using getCore_putCore_ne s.cores k h

theorem core_modCore (s : State) (c d : Fin 1792) (f : Core → Core) :
    (s.modCore c f).core d = if d = c then f (s.core c) else s.core d := core_setCore s c d (f (s.core c))

@[simp] theorem core_modCore_same (s : State) (c : Fin 1792) (f : Core → Core) : (s.modCore c f).core c = f (s.core c) := by
  simp [core_modCore]

theorem ctx_modCore (s : State) (c : Fin 1792) (x : CtxId) (f : Core → Core) :
    (s.modCore c f).ctx x = if x.core = c then (f (s.core c)).ctx.get x.slot else s.ctx x := by
  by_cases h : x.core = c <;> simp [State.ctx, core_modCore, h]

theorem get_set_slot {α : Type} (v : Vector α 2) (i j : Fin 2) (x : α) :
    (v.set i x).get j = if j = i then x else v.get j := by
  show (v.set i x)[j.val] = if j = i then x else v[j.val]
  by_cases h : j = i
  · subst h; simp
  · have h' : i.val ≠ j.val := fun e => h (Fin.ext e.symm)
    simp [h, h']

theorem ctxId_ext {x y : CtxId} (h : x.core = y.core) (h' : x.slot = y.slot) : x = y := by
  cases x; cases y; simp_all

/-- The context read after a write of one context. -/
theorem ctx_setCtx (s : State) (x y : CtxId) (c : Ctx) : (s.setCtx x c).ctx y = if y = x then c else s.ctx y := by
  unfold State.setCtx
  rw [ctx_modCore]
  by_cases h : y.core = x.core
  · by_cases h' : y.slot = x.slot
    · have e := ctxId_ext h h'
      subst e; simp [get_set_slot]
    · have ne : y ≠ x := fun e => h' (e ▸ rfl)
      simp [h, h', ne, get_set_slot, State.ctx]
  · have ne : y ≠ x := fun e => h (e ▸ rfl)
    simp [h, ne]

@[simp] theorem ctx_setCtx_same (s : State) (x : CtxId) (c : Ctx) : (s.setCtx x c).ctx x = c := by simp [ctx_setCtx]

theorem ctx_modCtx (s : State) (x y : CtxId) (f : Ctx → Ctx) :
    (s.modCtx x f).ctx y = if y = x then f (s.ctx x) else s.ctx y := ctx_setCtx s x y (f (s.ctx x))

@[simp] theorem ctx_modCtx_same (s : State) (x : CtxId) (f : Ctx → Ctx) : (s.modCtx x f).ctx x = f (s.ctx x) := by
  simp [ctx_modCtx]

@[simp] theorem cx_modCx (s : State) (f : Ctx → Ctx) : (s.modCx f).cx = f s.cx := ctx_modCtx_same s s.cur.ctx f

/-- A write of a context leaves the other things its core holds. -/
theorem core_modCtx (s : State) (x : CtxId) (c : Fin 1792) (f : Ctx → Ctx) :
    (s.modCtx x f).core c = if c = x.core then { s.core c with ctx := (s.core c).ctx.set x.slot (f (s.ctx x)) } else s.core c := by
  unfold State.modCtx State.setCtx
  rw [core_modCore]
  by_cases h : c = x.core <;> simp [h]

theorem bank_modCtx (s : State) (x : CtxId) (c : Fin 1792) (f : Ctx → Ctx) :
    ((s.modCtx x f).core c).bank = (s.core c).bank := by
  rw [core_modCtx]; split <;> rfl

/-! ## Sequence counters -/

theorem counter_putCounter_same (l : List (Fin 4096 × Word)) (n : Fin 4096) (v : Word)
    (h : l.Pairwise fun p q => p.1 < q.1) :
    (((putCounter l n v).find? (·.1 == n)).map (·.2)).getD 0 = v := by
  induction l with
  | nil =>
    unfold putCounter
    split
    · simp_all
    · simp
  | cons p l ih =>
    obtain ⟨m, x⟩ := p
    rw [List.pairwise_cons] at h
    obtain ⟨h1, h2⟩ := h
    unfold putCounter
    by_cases e : m = n
    · subst e
      have none : l.find? (fun q => q.1 == m) = none := by
        rw [List.find?_eq_none]
        intro q hq
        have h3 : m < q.1 := h1 q hq
        simp only [beq_iff_eq]
        intro e; omega
      rw [if_pos rfl]
      split
      · next z => rw [none, z]; rfl
      · simp
    · have none (lt : n < m) : l.find? (fun q => q.1 == n) = none := by
        rw [List.find?_eq_none]
        intro q hq
        have h3 : m < q.1 := h1 q hq
        simp only [beq_iff_eq]
        intro e; omega
      rw [if_neg e]
      split
      · next lt =>
        split
        · next z => simp [e, none lt, z]
        · simp
      · simpa [e] using ih h2


/-! ## Updates of cores and contexts leave the package -/

@[simp] theorem setCore_absent (s : State) (c : Fin 1792) (k : Core) : (s.setCore c k).absent = s.absent := rfl
@[simp] theorem setCore_leftOut (s : State) (c : Fin 1792) (k : Core) : (s.setCore c k).leftOut = s.leftOut := rfl
@[simp] theorem setCore_remap (s : State) (c : Fin 1792) (k : Core) : (s.setCore c k).remap = s.remap := rfl
@[simp] theorem setCore_mem (s : State) (c : Fin 1792) (k : Core) : (s.setCore c k).mem = s.mem := rfl
@[simp] theorem setCore_lost (s : State) (c : Fin 1792) (k : Core) : (s.setCore c k).lost = s.lost := rfl
@[simp] theorem setCore_damaged (s : State) (c : Fin 1792) (k : Core) : (s.setCore c k).damaged = s.damaged := rfl
@[simp] theorem setCore_views (s : State) (c : Fin 1792) (k : Core) : (s.setCore c k).views = s.views := rfl
@[simp] theorem setCore_l2 (s : State) (c : Fin 1792) (k : Core) : (s.setCore c k).l2 = s.l2 := rfl
@[simp] theorem setCore_ctlb (s : State) (c : Fin 1792) (k : Core) : (s.setCore c k).ctlb = s.ctlb := rfl
@[simp] theorem setCore_phases (s : State) (c : Fin 1792) (k : Core) : (s.setCore c k).phases = s.phases := rfl
@[simp] theorem setCore_counters (s : State) (c : Fin 1792) (k : Core) : (s.setCore c k).counters = s.counters := rfl
@[simp] theorem setCore_frq (s : State) (c : Fin 1792) (k : Core) : (s.setCore c k).frq = s.frq := rfl
@[simp] theorem setCore_frTail (s : State) (c : Fin 1792) (k : Core) : (s.setCore c k).frTail = s.frTail := rfl
@[simp] theorem setCore_frHead (s : State) (c : Fin 1792) (k : Core) : (s.setCore c k).frHead = s.frHead := rfl
@[simp] theorem setCore_waiting (s : State) (c : Fin 1792) (k : Core) : (s.setCore c k).waiting = s.waiting := rfl
@[simp] theorem setCore_insts (s : State) (c : Fin 1792) (k : Core) : (s.setCore c k).insts = s.insts := rfl
@[simp] theorem setCore_saved (s : State) (c : Fin 1792) (k : Core) : (s.setCore c k).saved = s.saved := rfl
@[simp] theorem setCore_meridian (s : State) (c : Fin 1792) (k : Core) : (s.setCore c k).meridian = s.meridian := rfl
@[simp] theorem setCore_stbud (s : State) (c : Fin 1792) (k : Core) : (s.setCore c k).stbud = s.stbud := rfl
@[simp] theorem setCore_stpf (s : State) (c : Fin 1792) (k : Core) : (s.setCore c k).stpf = s.stpf := rfl
@[simp] theorem setCore_stash (s : State) (c : Fin 1792) (k : Core) : (s.setCore c k).stash = s.stash := rfl
@[simp] theorem setCore_prefetch (s : State) (c : Fin 1792) (k : Core) : (s.setCore c k).prefetch = s.prefetch := rfl
@[simp] theorem setCore_vrb (s : State) (c : Fin 1792) (k : Core) : (s.setCore c k).vrb = s.vrb := rfl
@[simp] theorem setCore_vpool (s : State) (c : Fin 1792) (k : Core) : (s.setCore c k).vpool = s.vpool := rfl
@[simp] theorem setCore_priv (s : State) (c : Fin 1792) (k : Core) : (s.setCore c k).priv = s.priv := rfl
@[simp] theorem setCore_finished (s : State) (c : Fin 1792) (k : Core) : (s.setCore c k).finished = s.finished := rfl
@[simp] theorem setCore_ctlWrites (s : State) (c : Fin 1792) (k : Core) : (s.setCore c k).ctlWrites = s.ctlWrites := rfl
@[simp] theorem setCore_flush (s : State) (c : Fin 1792) (k : Core) : (s.setCore c k).flush = s.flush := rfl
@[simp] theorem setCore_fabric (s : State) (c : Fin 1792) (k : Core) : (s.setCore c k).fabric = s.fabric := rfl
@[simp] theorem setCore_mgmt (s : State) (c : Fin 1792) (k : Core) : (s.setCore c k).mgmt = s.mgmt := rfl
@[simp] theorem setCore_nextId (s : State) (c : Fin 1792) (k : Core) : (s.setCore c k).nextId = s.nextId := rfl
@[simp] theorem setCore_cur (s : State) (c : Fin 1792) (k : Core) : (s.setCore c k).cur = s.cur := rfl
@[simp] theorem setCore_agenda (s : State) (c : Fin 1792) (k : Core) : (s.setCore c k).agenda = s.agenda := rfl
@[simp] theorem setCore_turns (s : State) (c : Fin 1792) (k : Core) : (s.setCore c k).turns = s.turns := rfl
@[simp] theorem setCore_free (s : State) (c : Fin 1792) (k : Core) : (s.setCore c k).free = s.free := rfl
@[simp] theorem setCore_raised (s : State) (c : Fin 1792) (k : Core) : (s.setCore c k).raised = s.raised := rfl
@[simp] theorem modCore_absent (s : State) (c : Fin 1792) (f : Core → Core) : (s.modCore c f).absent = s.absent := rfl
@[simp] theorem modCore_leftOut (s : State) (c : Fin 1792) (f : Core → Core) : (s.modCore c f).leftOut = s.leftOut := rfl
@[simp] theorem modCore_remap (s : State) (c : Fin 1792) (f : Core → Core) : (s.modCore c f).remap = s.remap := rfl
@[simp] theorem modCore_mem (s : State) (c : Fin 1792) (f : Core → Core) : (s.modCore c f).mem = s.mem := rfl
@[simp] theorem modCore_lost (s : State) (c : Fin 1792) (f : Core → Core) : (s.modCore c f).lost = s.lost := rfl
@[simp] theorem modCore_damaged (s : State) (c : Fin 1792) (f : Core → Core) : (s.modCore c f).damaged = s.damaged := rfl
@[simp] theorem modCore_views (s : State) (c : Fin 1792) (f : Core → Core) : (s.modCore c f).views = s.views := rfl
@[simp] theorem modCore_l2 (s : State) (c : Fin 1792) (f : Core → Core) : (s.modCore c f).l2 = s.l2 := rfl
@[simp] theorem modCore_ctlb (s : State) (c : Fin 1792) (f : Core → Core) : (s.modCore c f).ctlb = s.ctlb := rfl
@[simp] theorem modCore_phases (s : State) (c : Fin 1792) (f : Core → Core) : (s.modCore c f).phases = s.phases := rfl
@[simp] theorem modCore_counters (s : State) (c : Fin 1792) (f : Core → Core) : (s.modCore c f).counters = s.counters := rfl
@[simp] theorem modCore_frq (s : State) (c : Fin 1792) (f : Core → Core) : (s.modCore c f).frq = s.frq := rfl
@[simp] theorem modCore_frTail (s : State) (c : Fin 1792) (f : Core → Core) : (s.modCore c f).frTail = s.frTail := rfl
@[simp] theorem modCore_frHead (s : State) (c : Fin 1792) (f : Core → Core) : (s.modCore c f).frHead = s.frHead := rfl
@[simp] theorem modCore_waiting (s : State) (c : Fin 1792) (f : Core → Core) : (s.modCore c f).waiting = s.waiting := rfl
@[simp] theorem modCore_insts (s : State) (c : Fin 1792) (f : Core → Core) : (s.modCore c f).insts = s.insts := rfl
@[simp] theorem modCore_saved (s : State) (c : Fin 1792) (f : Core → Core) : (s.modCore c f).saved = s.saved := rfl
@[simp] theorem modCore_meridian (s : State) (c : Fin 1792) (f : Core → Core) : (s.modCore c f).meridian = s.meridian := rfl
@[simp] theorem modCore_stbud (s : State) (c : Fin 1792) (f : Core → Core) : (s.modCore c f).stbud = s.stbud := rfl
@[simp] theorem modCore_stpf (s : State) (c : Fin 1792) (f : Core → Core) : (s.modCore c f).stpf = s.stpf := rfl
@[simp] theorem modCore_stash (s : State) (c : Fin 1792) (f : Core → Core) : (s.modCore c f).stash = s.stash := rfl
@[simp] theorem modCore_prefetch (s : State) (c : Fin 1792) (f : Core → Core) : (s.modCore c f).prefetch = s.prefetch := rfl
@[simp] theorem modCore_vrb (s : State) (c : Fin 1792) (f : Core → Core) : (s.modCore c f).vrb = s.vrb := rfl
@[simp] theorem modCore_vpool (s : State) (c : Fin 1792) (f : Core → Core) : (s.modCore c f).vpool = s.vpool := rfl
@[simp] theorem modCore_priv (s : State) (c : Fin 1792) (f : Core → Core) : (s.modCore c f).priv = s.priv := rfl
@[simp] theorem modCore_finished (s : State) (c : Fin 1792) (f : Core → Core) : (s.modCore c f).finished = s.finished := rfl
@[simp] theorem modCore_ctlWrites (s : State) (c : Fin 1792) (f : Core → Core) : (s.modCore c f).ctlWrites = s.ctlWrites := rfl
@[simp] theorem modCore_flush (s : State) (c : Fin 1792) (f : Core → Core) : (s.modCore c f).flush = s.flush := rfl
@[simp] theorem modCore_fabric (s : State) (c : Fin 1792) (f : Core → Core) : (s.modCore c f).fabric = s.fabric := rfl
@[simp] theorem modCore_mgmt (s : State) (c : Fin 1792) (f : Core → Core) : (s.modCore c f).mgmt = s.mgmt := rfl
@[simp] theorem modCore_nextId (s : State) (c : Fin 1792) (f : Core → Core) : (s.modCore c f).nextId = s.nextId := rfl
@[simp] theorem modCore_cur (s : State) (c : Fin 1792) (f : Core → Core) : (s.modCore c f).cur = s.cur := rfl
@[simp] theorem modCore_agenda (s : State) (c : Fin 1792) (f : Core → Core) : (s.modCore c f).agenda = s.agenda := rfl
@[simp] theorem modCore_turns (s : State) (c : Fin 1792) (f : Core → Core) : (s.modCore c f).turns = s.turns := rfl
@[simp] theorem modCore_free (s : State) (c : Fin 1792) (f : Core → Core) : (s.modCore c f).free = s.free := rfl
@[simp] theorem modCore_raised (s : State) (c : Fin 1792) (f : Core → Core) : (s.modCore c f).raised = s.raised := rfl
@[simp] theorem setCtx_absent (s : State) (x : CtxId) (c : Ctx) : (s.setCtx x c).absent = s.absent := rfl
@[simp] theorem setCtx_leftOut (s : State) (x : CtxId) (c : Ctx) : (s.setCtx x c).leftOut = s.leftOut := rfl
@[simp] theorem setCtx_remap (s : State) (x : CtxId) (c : Ctx) : (s.setCtx x c).remap = s.remap := rfl
@[simp] theorem setCtx_mem (s : State) (x : CtxId) (c : Ctx) : (s.setCtx x c).mem = s.mem := rfl
@[simp] theorem setCtx_lost (s : State) (x : CtxId) (c : Ctx) : (s.setCtx x c).lost = s.lost := rfl
@[simp] theorem setCtx_damaged (s : State) (x : CtxId) (c : Ctx) : (s.setCtx x c).damaged = s.damaged := rfl
@[simp] theorem setCtx_views (s : State) (x : CtxId) (c : Ctx) : (s.setCtx x c).views = s.views := rfl
@[simp] theorem setCtx_l2 (s : State) (x : CtxId) (c : Ctx) : (s.setCtx x c).l2 = s.l2 := rfl
@[simp] theorem setCtx_ctlb (s : State) (x : CtxId) (c : Ctx) : (s.setCtx x c).ctlb = s.ctlb := rfl
@[simp] theorem setCtx_phases (s : State) (x : CtxId) (c : Ctx) : (s.setCtx x c).phases = s.phases := rfl
@[simp] theorem setCtx_counters (s : State) (x : CtxId) (c : Ctx) : (s.setCtx x c).counters = s.counters := rfl
@[simp] theorem setCtx_frq (s : State) (x : CtxId) (c : Ctx) : (s.setCtx x c).frq = s.frq := rfl
@[simp] theorem setCtx_frTail (s : State) (x : CtxId) (c : Ctx) : (s.setCtx x c).frTail = s.frTail := rfl
@[simp] theorem setCtx_frHead (s : State) (x : CtxId) (c : Ctx) : (s.setCtx x c).frHead = s.frHead := rfl
@[simp] theorem setCtx_waiting (s : State) (x : CtxId) (c : Ctx) : (s.setCtx x c).waiting = s.waiting := rfl
@[simp] theorem setCtx_insts (s : State) (x : CtxId) (c : Ctx) : (s.setCtx x c).insts = s.insts := rfl
@[simp] theorem setCtx_saved (s : State) (x : CtxId) (c : Ctx) : (s.setCtx x c).saved = s.saved := rfl
@[simp] theorem setCtx_meridian (s : State) (x : CtxId) (c : Ctx) : (s.setCtx x c).meridian = s.meridian := rfl
@[simp] theorem setCtx_stbud (s : State) (x : CtxId) (c : Ctx) : (s.setCtx x c).stbud = s.stbud := rfl
@[simp] theorem setCtx_stpf (s : State) (x : CtxId) (c : Ctx) : (s.setCtx x c).stpf = s.stpf := rfl
@[simp] theorem setCtx_stash (s : State) (x : CtxId) (c : Ctx) : (s.setCtx x c).stash = s.stash := rfl
@[simp] theorem setCtx_prefetch (s : State) (x : CtxId) (c : Ctx) : (s.setCtx x c).prefetch = s.prefetch := rfl
@[simp] theorem setCtx_vrb (s : State) (x : CtxId) (c : Ctx) : (s.setCtx x c).vrb = s.vrb := rfl
@[simp] theorem setCtx_vpool (s : State) (x : CtxId) (c : Ctx) : (s.setCtx x c).vpool = s.vpool := rfl
@[simp] theorem setCtx_priv (s : State) (x : CtxId) (c : Ctx) : (s.setCtx x c).priv = s.priv := rfl
@[simp] theorem setCtx_finished (s : State) (x : CtxId) (c : Ctx) : (s.setCtx x c).finished = s.finished := rfl
@[simp] theorem setCtx_ctlWrites (s : State) (x : CtxId) (c : Ctx) : (s.setCtx x c).ctlWrites = s.ctlWrites := rfl
@[simp] theorem setCtx_flush (s : State) (x : CtxId) (c : Ctx) : (s.setCtx x c).flush = s.flush := rfl
@[simp] theorem setCtx_fabric (s : State) (x : CtxId) (c : Ctx) : (s.setCtx x c).fabric = s.fabric := rfl
@[simp] theorem setCtx_mgmt (s : State) (x : CtxId) (c : Ctx) : (s.setCtx x c).mgmt = s.mgmt := rfl
@[simp] theorem setCtx_nextId (s : State) (x : CtxId) (c : Ctx) : (s.setCtx x c).nextId = s.nextId := rfl
@[simp] theorem setCtx_cur (s : State) (x : CtxId) (c : Ctx) : (s.setCtx x c).cur = s.cur := rfl
@[simp] theorem setCtx_agenda (s : State) (x : CtxId) (c : Ctx) : (s.setCtx x c).agenda = s.agenda := rfl
@[simp] theorem setCtx_turns (s : State) (x : CtxId) (c : Ctx) : (s.setCtx x c).turns = s.turns := rfl
@[simp] theorem setCtx_free (s : State) (x : CtxId) (c : Ctx) : (s.setCtx x c).free = s.free := rfl
@[simp] theorem setCtx_raised (s : State) (x : CtxId) (c : Ctx) : (s.setCtx x c).raised = s.raised := rfl
@[simp] theorem modCtx_absent (s : State) (x : CtxId) (f : Ctx → Ctx) : (s.modCtx x f).absent = s.absent := rfl
@[simp] theorem modCtx_leftOut (s : State) (x : CtxId) (f : Ctx → Ctx) : (s.modCtx x f).leftOut = s.leftOut := rfl
@[simp] theorem modCtx_remap (s : State) (x : CtxId) (f : Ctx → Ctx) : (s.modCtx x f).remap = s.remap := rfl
@[simp] theorem modCtx_mem (s : State) (x : CtxId) (f : Ctx → Ctx) : (s.modCtx x f).mem = s.mem := rfl
@[simp] theorem modCtx_lost (s : State) (x : CtxId) (f : Ctx → Ctx) : (s.modCtx x f).lost = s.lost := rfl
@[simp] theorem modCtx_damaged (s : State) (x : CtxId) (f : Ctx → Ctx) : (s.modCtx x f).damaged = s.damaged := rfl
@[simp] theorem modCtx_views (s : State) (x : CtxId) (f : Ctx → Ctx) : (s.modCtx x f).views = s.views := rfl
@[simp] theorem modCtx_l2 (s : State) (x : CtxId) (f : Ctx → Ctx) : (s.modCtx x f).l2 = s.l2 := rfl
@[simp] theorem modCtx_ctlb (s : State) (x : CtxId) (f : Ctx → Ctx) : (s.modCtx x f).ctlb = s.ctlb := rfl
@[simp] theorem modCtx_phases (s : State) (x : CtxId) (f : Ctx → Ctx) : (s.modCtx x f).phases = s.phases := rfl
@[simp] theorem modCtx_counters (s : State) (x : CtxId) (f : Ctx → Ctx) : (s.modCtx x f).counters = s.counters := rfl
@[simp] theorem modCtx_frq (s : State) (x : CtxId) (f : Ctx → Ctx) : (s.modCtx x f).frq = s.frq := rfl
@[simp] theorem modCtx_frTail (s : State) (x : CtxId) (f : Ctx → Ctx) : (s.modCtx x f).frTail = s.frTail := rfl
@[simp] theorem modCtx_frHead (s : State) (x : CtxId) (f : Ctx → Ctx) : (s.modCtx x f).frHead = s.frHead := rfl
@[simp] theorem modCtx_waiting (s : State) (x : CtxId) (f : Ctx → Ctx) : (s.modCtx x f).waiting = s.waiting := rfl
@[simp] theorem modCtx_insts (s : State) (x : CtxId) (f : Ctx → Ctx) : (s.modCtx x f).insts = s.insts := rfl
@[simp] theorem modCtx_saved (s : State) (x : CtxId) (f : Ctx → Ctx) : (s.modCtx x f).saved = s.saved := rfl
@[simp] theorem modCtx_meridian (s : State) (x : CtxId) (f : Ctx → Ctx) : (s.modCtx x f).meridian = s.meridian := rfl
@[simp] theorem modCtx_stbud (s : State) (x : CtxId) (f : Ctx → Ctx) : (s.modCtx x f).stbud = s.stbud := rfl
@[simp] theorem modCtx_stpf (s : State) (x : CtxId) (f : Ctx → Ctx) : (s.modCtx x f).stpf = s.stpf := rfl
@[simp] theorem modCtx_stash (s : State) (x : CtxId) (f : Ctx → Ctx) : (s.modCtx x f).stash = s.stash := rfl
@[simp] theorem modCtx_prefetch (s : State) (x : CtxId) (f : Ctx → Ctx) : (s.modCtx x f).prefetch = s.prefetch := rfl
@[simp] theorem modCtx_vrb (s : State) (x : CtxId) (f : Ctx → Ctx) : (s.modCtx x f).vrb = s.vrb := rfl
@[simp] theorem modCtx_vpool (s : State) (x : CtxId) (f : Ctx → Ctx) : (s.modCtx x f).vpool = s.vpool := rfl
@[simp] theorem modCtx_priv (s : State) (x : CtxId) (f : Ctx → Ctx) : (s.modCtx x f).priv = s.priv := rfl
@[simp] theorem modCtx_finished (s : State) (x : CtxId) (f : Ctx → Ctx) : (s.modCtx x f).finished = s.finished := rfl
@[simp] theorem modCtx_ctlWrites (s : State) (x : CtxId) (f : Ctx → Ctx) : (s.modCtx x f).ctlWrites = s.ctlWrites := rfl
@[simp] theorem modCtx_flush (s : State) (x : CtxId) (f : Ctx → Ctx) : (s.modCtx x f).flush = s.flush := rfl
@[simp] theorem modCtx_fabric (s : State) (x : CtxId) (f : Ctx → Ctx) : (s.modCtx x f).fabric = s.fabric := rfl
@[simp] theorem modCtx_mgmt (s : State) (x : CtxId) (f : Ctx → Ctx) : (s.modCtx x f).mgmt = s.mgmt := rfl
@[simp] theorem modCtx_nextId (s : State) (x : CtxId) (f : Ctx → Ctx) : (s.modCtx x f).nextId = s.nextId := rfl
@[simp] theorem modCtx_cur (s : State) (x : CtxId) (f : Ctx → Ctx) : (s.modCtx x f).cur = s.cur := rfl
@[simp] theorem modCtx_agenda (s : State) (x : CtxId) (f : Ctx → Ctx) : (s.modCtx x f).agenda = s.agenda := rfl
@[simp] theorem modCtx_turns (s : State) (x : CtxId) (f : Ctx → Ctx) : (s.modCtx x f).turns = s.turns := rfl
@[simp] theorem modCtx_free (s : State) (x : CtxId) (f : Ctx → Ctx) : (s.modCtx x f).free = s.free := rfl
@[simp] theorem modCtx_raised (s : State) (x : CtxId) (f : Ctx → Ctx) : (s.modCtx x f).raised = s.raised := rfl
@[simp] theorem modCx_absent (s : State) (f : Ctx → Ctx) : (s.modCx f).absent = s.absent := rfl
@[simp] theorem modCx_leftOut (s : State) (f : Ctx → Ctx) : (s.modCx f).leftOut = s.leftOut := rfl
@[simp] theorem modCx_remap (s : State) (f : Ctx → Ctx) : (s.modCx f).remap = s.remap := rfl
@[simp] theorem modCx_mem (s : State) (f : Ctx → Ctx) : (s.modCx f).mem = s.mem := rfl
@[simp] theorem modCx_lost (s : State) (f : Ctx → Ctx) : (s.modCx f).lost = s.lost := rfl
@[simp] theorem modCx_damaged (s : State) (f : Ctx → Ctx) : (s.modCx f).damaged = s.damaged := rfl
@[simp] theorem modCx_views (s : State) (f : Ctx → Ctx) : (s.modCx f).views = s.views := rfl
@[simp] theorem modCx_l2 (s : State) (f : Ctx → Ctx) : (s.modCx f).l2 = s.l2 := rfl
@[simp] theorem modCx_ctlb (s : State) (f : Ctx → Ctx) : (s.modCx f).ctlb = s.ctlb := rfl
@[simp] theorem modCx_phases (s : State) (f : Ctx → Ctx) : (s.modCx f).phases = s.phases := rfl
@[simp] theorem modCx_counters (s : State) (f : Ctx → Ctx) : (s.modCx f).counters = s.counters := rfl
@[simp] theorem modCx_frq (s : State) (f : Ctx → Ctx) : (s.modCx f).frq = s.frq := rfl
@[simp] theorem modCx_frTail (s : State) (f : Ctx → Ctx) : (s.modCx f).frTail = s.frTail := rfl
@[simp] theorem modCx_frHead (s : State) (f : Ctx → Ctx) : (s.modCx f).frHead = s.frHead := rfl
@[simp] theorem modCx_waiting (s : State) (f : Ctx → Ctx) : (s.modCx f).waiting = s.waiting := rfl
@[simp] theorem modCx_insts (s : State) (f : Ctx → Ctx) : (s.modCx f).insts = s.insts := rfl
@[simp] theorem modCx_saved (s : State) (f : Ctx → Ctx) : (s.modCx f).saved = s.saved := rfl
@[simp] theorem modCx_meridian (s : State) (f : Ctx → Ctx) : (s.modCx f).meridian = s.meridian := rfl
@[simp] theorem modCx_stbud (s : State) (f : Ctx → Ctx) : (s.modCx f).stbud = s.stbud := rfl
@[simp] theorem modCx_stpf (s : State) (f : Ctx → Ctx) : (s.modCx f).stpf = s.stpf := rfl
@[simp] theorem modCx_stash (s : State) (f : Ctx → Ctx) : (s.modCx f).stash = s.stash := rfl
@[simp] theorem modCx_prefetch (s : State) (f : Ctx → Ctx) : (s.modCx f).prefetch = s.prefetch := rfl
@[simp] theorem modCx_vrb (s : State) (f : Ctx → Ctx) : (s.modCx f).vrb = s.vrb := rfl
@[simp] theorem modCx_vpool (s : State) (f : Ctx → Ctx) : (s.modCx f).vpool = s.vpool := rfl
@[simp] theorem modCx_priv (s : State) (f : Ctx → Ctx) : (s.modCx f).priv = s.priv := rfl
@[simp] theorem modCx_finished (s : State) (f : Ctx → Ctx) : (s.modCx f).finished = s.finished := rfl
@[simp] theorem modCx_ctlWrites (s : State) (f : Ctx → Ctx) : (s.modCx f).ctlWrites = s.ctlWrites := rfl
@[simp] theorem modCx_flush (s : State) (f : Ctx → Ctx) : (s.modCx f).flush = s.flush := rfl
@[simp] theorem modCx_fabric (s : State) (f : Ctx → Ctx) : (s.modCx f).fabric = s.fabric := rfl
@[simp] theorem modCx_mgmt (s : State) (f : Ctx → Ctx) : (s.modCx f).mgmt = s.mgmt := rfl
@[simp] theorem modCx_nextId (s : State) (f : Ctx → Ctx) : (s.modCx f).nextId = s.nextId := rfl
@[simp] theorem modCx_cur (s : State) (f : Ctx → Ctx) : (s.modCx f).cur = s.cur := rfl
@[simp] theorem modCx_agenda (s : State) (f : Ctx → Ctx) : (s.modCx f).agenda = s.agenda := rfl
@[simp] theorem modCx_turns (s : State) (f : Ctx → Ctx) : (s.modCx f).turns = s.turns := rfl
@[simp] theorem modCx_free (s : State) (f : Ctx → Ctx) : (s.modCx f).free = s.free := rfl
@[simp] theorem modCx_raised (s : State) (f : Ctx → Ctx) : (s.modCx f).raised = s.raised := rfl
@[simp] theorem modKr_absent (s : State) (f : Core → Core) : (s.modKr f).absent = s.absent := rfl
@[simp] theorem modKr_leftOut (s : State) (f : Core → Core) : (s.modKr f).leftOut = s.leftOut := rfl
@[simp] theorem modKr_remap (s : State) (f : Core → Core) : (s.modKr f).remap = s.remap := rfl
@[simp] theorem modKr_mem (s : State) (f : Core → Core) : (s.modKr f).mem = s.mem := rfl
@[simp] theorem modKr_lost (s : State) (f : Core → Core) : (s.modKr f).lost = s.lost := rfl
@[simp] theorem modKr_damaged (s : State) (f : Core → Core) : (s.modKr f).damaged = s.damaged := rfl
@[simp] theorem modKr_views (s : State) (f : Core → Core) : (s.modKr f).views = s.views := rfl
@[simp] theorem modKr_l2 (s : State) (f : Core → Core) : (s.modKr f).l2 = s.l2 := rfl
@[simp] theorem modKr_ctlb (s : State) (f : Core → Core) : (s.modKr f).ctlb = s.ctlb := rfl
@[simp] theorem modKr_phases (s : State) (f : Core → Core) : (s.modKr f).phases = s.phases := rfl
@[simp] theorem modKr_counters (s : State) (f : Core → Core) : (s.modKr f).counters = s.counters := rfl
@[simp] theorem modKr_frq (s : State) (f : Core → Core) : (s.modKr f).frq = s.frq := rfl
@[simp] theorem modKr_frTail (s : State) (f : Core → Core) : (s.modKr f).frTail = s.frTail := rfl
@[simp] theorem modKr_frHead (s : State) (f : Core → Core) : (s.modKr f).frHead = s.frHead := rfl
@[simp] theorem modKr_waiting (s : State) (f : Core → Core) : (s.modKr f).waiting = s.waiting := rfl
@[simp] theorem modKr_insts (s : State) (f : Core → Core) : (s.modKr f).insts = s.insts := rfl
@[simp] theorem modKr_saved (s : State) (f : Core → Core) : (s.modKr f).saved = s.saved := rfl
@[simp] theorem modKr_meridian (s : State) (f : Core → Core) : (s.modKr f).meridian = s.meridian := rfl
@[simp] theorem modKr_stbud (s : State) (f : Core → Core) : (s.modKr f).stbud = s.stbud := rfl
@[simp] theorem modKr_stpf (s : State) (f : Core → Core) : (s.modKr f).stpf = s.stpf := rfl
@[simp] theorem modKr_stash (s : State) (f : Core → Core) : (s.modKr f).stash = s.stash := rfl
@[simp] theorem modKr_prefetch (s : State) (f : Core → Core) : (s.modKr f).prefetch = s.prefetch := rfl
@[simp] theorem modKr_vrb (s : State) (f : Core → Core) : (s.modKr f).vrb = s.vrb := rfl
@[simp] theorem modKr_vpool (s : State) (f : Core → Core) : (s.modKr f).vpool = s.vpool := rfl
@[simp] theorem modKr_priv (s : State) (f : Core → Core) : (s.modKr f).priv = s.priv := rfl
@[simp] theorem modKr_finished (s : State) (f : Core → Core) : (s.modKr f).finished = s.finished := rfl
@[simp] theorem modKr_ctlWrites (s : State) (f : Core → Core) : (s.modKr f).ctlWrites = s.ctlWrites := rfl
@[simp] theorem modKr_flush (s : State) (f : Core → Core) : (s.modKr f).flush = s.flush := rfl
@[simp] theorem modKr_fabric (s : State) (f : Core → Core) : (s.modKr f).fabric = s.fabric := rfl
@[simp] theorem modKr_mgmt (s : State) (f : Core → Core) : (s.modKr f).mgmt = s.mgmt := rfl
@[simp] theorem modKr_nextId (s : State) (f : Core → Core) : (s.modKr f).nextId = s.nextId := rfl
@[simp] theorem modKr_cur (s : State) (f : Core → Core) : (s.modKr f).cur = s.cur := rfl
@[simp] theorem modKr_agenda (s : State) (f : Core → Core) : (s.modKr f).agenda = s.agenda := rfl
@[simp] theorem modKr_turns (s : State) (f : Core → Core) : (s.modKr f).turns = s.turns := rfl
@[simp] theorem modKr_free (s : State) (f : Core → Core) : (s.modKr f).free = s.free := rfl
@[simp] theorem modKr_raised (s : State) (f : Core → Core) : (s.modKr f).raised = s.raised := rfl
@[simp] theorem modBank_absent (s : State) (f : Bank → Bank) : (s.modBank f).absent = s.absent := rfl
@[simp] theorem modBank_leftOut (s : State) (f : Bank → Bank) : (s.modBank f).leftOut = s.leftOut := rfl
@[simp] theorem modBank_remap (s : State) (f : Bank → Bank) : (s.modBank f).remap = s.remap := rfl
@[simp] theorem modBank_mem (s : State) (f : Bank → Bank) : (s.modBank f).mem = s.mem := rfl
@[simp] theorem modBank_lost (s : State) (f : Bank → Bank) : (s.modBank f).lost = s.lost := rfl
@[simp] theorem modBank_damaged (s : State) (f : Bank → Bank) : (s.modBank f).damaged = s.damaged := rfl
@[simp] theorem modBank_views (s : State) (f : Bank → Bank) : (s.modBank f).views = s.views := rfl
@[simp] theorem modBank_l2 (s : State) (f : Bank → Bank) : (s.modBank f).l2 = s.l2 := rfl
@[simp] theorem modBank_ctlb (s : State) (f : Bank → Bank) : (s.modBank f).ctlb = s.ctlb := rfl
@[simp] theorem modBank_phases (s : State) (f : Bank → Bank) : (s.modBank f).phases = s.phases := rfl
@[simp] theorem modBank_counters (s : State) (f : Bank → Bank) : (s.modBank f).counters = s.counters := rfl
@[simp] theorem modBank_frq (s : State) (f : Bank → Bank) : (s.modBank f).frq = s.frq := rfl
@[simp] theorem modBank_frTail (s : State) (f : Bank → Bank) : (s.modBank f).frTail = s.frTail := rfl
@[simp] theorem modBank_frHead (s : State) (f : Bank → Bank) : (s.modBank f).frHead = s.frHead := rfl
@[simp] theorem modBank_waiting (s : State) (f : Bank → Bank) : (s.modBank f).waiting = s.waiting := rfl
@[simp] theorem modBank_insts (s : State) (f : Bank → Bank) : (s.modBank f).insts = s.insts := rfl
@[simp] theorem modBank_saved (s : State) (f : Bank → Bank) : (s.modBank f).saved = s.saved := rfl
@[simp] theorem modBank_meridian (s : State) (f : Bank → Bank) : (s.modBank f).meridian = s.meridian := rfl
@[simp] theorem modBank_stbud (s : State) (f : Bank → Bank) : (s.modBank f).stbud = s.stbud := rfl
@[simp] theorem modBank_stpf (s : State) (f : Bank → Bank) : (s.modBank f).stpf = s.stpf := rfl
@[simp] theorem modBank_stash (s : State) (f : Bank → Bank) : (s.modBank f).stash = s.stash := rfl
@[simp] theorem modBank_prefetch (s : State) (f : Bank → Bank) : (s.modBank f).prefetch = s.prefetch := rfl
@[simp] theorem modBank_vrb (s : State) (f : Bank → Bank) : (s.modBank f).vrb = s.vrb := rfl
@[simp] theorem modBank_vpool (s : State) (f : Bank → Bank) : (s.modBank f).vpool = s.vpool := rfl
@[simp] theorem modBank_priv (s : State) (f : Bank → Bank) : (s.modBank f).priv = s.priv := rfl
@[simp] theorem modBank_finished (s : State) (f : Bank → Bank) : (s.modBank f).finished = s.finished := rfl
@[simp] theorem modBank_ctlWrites (s : State) (f : Bank → Bank) : (s.modBank f).ctlWrites = s.ctlWrites := rfl
@[simp] theorem modBank_flush (s : State) (f : Bank → Bank) : (s.modBank f).flush = s.flush := rfl
@[simp] theorem modBank_fabric (s : State) (f : Bank → Bank) : (s.modBank f).fabric = s.fabric := rfl
@[simp] theorem modBank_mgmt (s : State) (f : Bank → Bank) : (s.modBank f).mgmt = s.mgmt := rfl
@[simp] theorem modBank_nextId (s : State) (f : Bank → Bank) : (s.modBank f).nextId = s.nextId := rfl
@[simp] theorem modBank_cur (s : State) (f : Bank → Bank) : (s.modBank f).cur = s.cur := rfl
@[simp] theorem modBank_agenda (s : State) (f : Bank → Bank) : (s.modBank f).agenda = s.agenda := rfl
@[simp] theorem modBank_turns (s : State) (f : Bank → Bank) : (s.modBank f).turns = s.turns := rfl
@[simp] theorem modBank_free (s : State) (f : Bank → Bank) : (s.modBank f).free = s.free := rfl
@[simp] theorem modBank_raised (s : State) (f : Bank → Bank) : (s.modBank f).raised = s.raised := rfl

/-! ## Writes of memory and counters leave the rest -/

@[simp] theorem putByte_cores (s : State) (k : Nat) (b : Byte) : (s.putByte k b).cores = s.cores := rfl
@[simp] theorem putByte_absent (s : State) (k : Nat) (b : Byte) : (s.putByte k b).absent = s.absent := rfl
@[simp] theorem putByte_leftOut (s : State) (k : Nat) (b : Byte) : (s.putByte k b).leftOut = s.leftOut := rfl
@[simp] theorem putByte_remap (s : State) (k : Nat) (b : Byte) : (s.putByte k b).remap = s.remap := rfl
@[simp] theorem putByte_lost (s : State) (k : Nat) (b : Byte) : (s.putByte k b).lost = s.lost := rfl
@[simp] theorem putByte_damaged (s : State) (k : Nat) (b : Byte) : (s.putByte k b).damaged = s.damaged := rfl
@[simp] theorem putByte_views (s : State) (k : Nat) (b : Byte) : (s.putByte k b).views = s.views := rfl
@[simp] theorem putByte_l2 (s : State) (k : Nat) (b : Byte) : (s.putByte k b).l2 = s.l2 := rfl
@[simp] theorem putByte_ctlb (s : State) (k : Nat) (b : Byte) : (s.putByte k b).ctlb = s.ctlb := rfl
@[simp] theorem putByte_phases (s : State) (k : Nat) (b : Byte) : (s.putByte k b).phases = s.phases := rfl
@[simp] theorem putByte_counters (s : State) (k : Nat) (b : Byte) : (s.putByte k b).counters = s.counters := rfl
@[simp] theorem putByte_frq (s : State) (k : Nat) (b : Byte) : (s.putByte k b).frq = s.frq := rfl
@[simp] theorem putByte_frTail (s : State) (k : Nat) (b : Byte) : (s.putByte k b).frTail = s.frTail := rfl
@[simp] theorem putByte_frHead (s : State) (k : Nat) (b : Byte) : (s.putByte k b).frHead = s.frHead := rfl
@[simp] theorem putByte_waiting (s : State) (k : Nat) (b : Byte) : (s.putByte k b).waiting = s.waiting := rfl
@[simp] theorem putByte_insts (s : State) (k : Nat) (b : Byte) : (s.putByte k b).insts = s.insts := rfl
@[simp] theorem putByte_saved (s : State) (k : Nat) (b : Byte) : (s.putByte k b).saved = s.saved := rfl
@[simp] theorem putByte_meridian (s : State) (k : Nat) (b : Byte) : (s.putByte k b).meridian = s.meridian := rfl
@[simp] theorem putByte_stbud (s : State) (k : Nat) (b : Byte) : (s.putByte k b).stbud = s.stbud := rfl
@[simp] theorem putByte_stpf (s : State) (k : Nat) (b : Byte) : (s.putByte k b).stpf = s.stpf := rfl
@[simp] theorem putByte_stash (s : State) (k : Nat) (b : Byte) : (s.putByte k b).stash = s.stash := rfl
@[simp] theorem putByte_prefetch (s : State) (k : Nat) (b : Byte) : (s.putByte k b).prefetch = s.prefetch := rfl
@[simp] theorem putByte_vrb (s : State) (k : Nat) (b : Byte) : (s.putByte k b).vrb = s.vrb := rfl
@[simp] theorem putByte_vpool (s : State) (k : Nat) (b : Byte) : (s.putByte k b).vpool = s.vpool := rfl
@[simp] theorem putByte_priv (s : State) (k : Nat) (b : Byte) : (s.putByte k b).priv = s.priv := rfl
@[simp] theorem putByte_finished (s : State) (k : Nat) (b : Byte) : (s.putByte k b).finished = s.finished := rfl
@[simp] theorem putByte_ctlWrites (s : State) (k : Nat) (b : Byte) : (s.putByte k b).ctlWrites = s.ctlWrites := rfl
@[simp] theorem putByte_flush (s : State) (k : Nat) (b : Byte) : (s.putByte k b).flush = s.flush := rfl
@[simp] theorem putByte_fabric (s : State) (k : Nat) (b : Byte) : (s.putByte k b).fabric = s.fabric := rfl
@[simp] theorem putByte_mgmt (s : State) (k : Nat) (b : Byte) : (s.putByte k b).mgmt = s.mgmt := rfl
@[simp] theorem putByte_nextId (s : State) (k : Nat) (b : Byte) : (s.putByte k b).nextId = s.nextId := rfl
@[simp] theorem putByte_cur (s : State) (k : Nat) (b : Byte) : (s.putByte k b).cur = s.cur := rfl
@[simp] theorem putByte_agenda (s : State) (k : Nat) (b : Byte) : (s.putByte k b).agenda = s.agenda := rfl
@[simp] theorem putByte_turns (s : State) (k : Nat) (b : Byte) : (s.putByte k b).turns = s.turns := rfl
@[simp] theorem putByte_free (s : State) (k : Nat) (b : Byte) : (s.putByte k b).free = s.free := rfl
@[simp] theorem putByte_raised (s : State) (k : Nat) (b : Byte) : (s.putByte k b).raised = s.raised := rfl
@[simp] theorem setCounter_cores (s : State) (n : Fin 4096) (v : Word) : (s.setCounter n v).cores = s.cores := rfl
@[simp] theorem setCounter_absent (s : State) (n : Fin 4096) (v : Word) : (s.setCounter n v).absent = s.absent := rfl
@[simp] theorem setCounter_leftOut (s : State) (n : Fin 4096) (v : Word) : (s.setCounter n v).leftOut = s.leftOut := rfl
@[simp] theorem setCounter_remap (s : State) (n : Fin 4096) (v : Word) : (s.setCounter n v).remap = s.remap := rfl
@[simp] theorem setCounter_mem (s : State) (n : Fin 4096) (v : Word) : (s.setCounter n v).mem = s.mem := rfl
@[simp] theorem setCounter_lost (s : State) (n : Fin 4096) (v : Word) : (s.setCounter n v).lost = s.lost := rfl
@[simp] theorem setCounter_damaged (s : State) (n : Fin 4096) (v : Word) : (s.setCounter n v).damaged = s.damaged := rfl
@[simp] theorem setCounter_views (s : State) (n : Fin 4096) (v : Word) : (s.setCounter n v).views = s.views := rfl
@[simp] theorem setCounter_l2 (s : State) (n : Fin 4096) (v : Word) : (s.setCounter n v).l2 = s.l2 := rfl
@[simp] theorem setCounter_ctlb (s : State) (n : Fin 4096) (v : Word) : (s.setCounter n v).ctlb = s.ctlb := rfl
@[simp] theorem setCounter_phases (s : State) (n : Fin 4096) (v : Word) : (s.setCounter n v).phases = s.phases := rfl
@[simp] theorem setCounter_frq (s : State) (n : Fin 4096) (v : Word) : (s.setCounter n v).frq = s.frq := rfl
@[simp] theorem setCounter_frTail (s : State) (n : Fin 4096) (v : Word) : (s.setCounter n v).frTail = s.frTail := rfl
@[simp] theorem setCounter_frHead (s : State) (n : Fin 4096) (v : Word) : (s.setCounter n v).frHead = s.frHead := rfl
@[simp] theorem setCounter_waiting (s : State) (n : Fin 4096) (v : Word) : (s.setCounter n v).waiting = s.waiting := rfl
@[simp] theorem setCounter_insts (s : State) (n : Fin 4096) (v : Word) : (s.setCounter n v).insts = s.insts := rfl
@[simp] theorem setCounter_saved (s : State) (n : Fin 4096) (v : Word) : (s.setCounter n v).saved = s.saved := rfl
@[simp] theorem setCounter_meridian (s : State) (n : Fin 4096) (v : Word) : (s.setCounter n v).meridian = s.meridian := rfl
@[simp] theorem setCounter_stbud (s : State) (n : Fin 4096) (v : Word) : (s.setCounter n v).stbud = s.stbud := rfl
@[simp] theorem setCounter_stpf (s : State) (n : Fin 4096) (v : Word) : (s.setCounter n v).stpf = s.stpf := rfl
@[simp] theorem setCounter_stash (s : State) (n : Fin 4096) (v : Word) : (s.setCounter n v).stash = s.stash := rfl
@[simp] theorem setCounter_prefetch (s : State) (n : Fin 4096) (v : Word) : (s.setCounter n v).prefetch = s.prefetch := rfl
@[simp] theorem setCounter_vrb (s : State) (n : Fin 4096) (v : Word) : (s.setCounter n v).vrb = s.vrb := rfl
@[simp] theorem setCounter_vpool (s : State) (n : Fin 4096) (v : Word) : (s.setCounter n v).vpool = s.vpool := rfl
@[simp] theorem setCounter_priv (s : State) (n : Fin 4096) (v : Word) : (s.setCounter n v).priv = s.priv := rfl
@[simp] theorem setCounter_finished (s : State) (n : Fin 4096) (v : Word) : (s.setCounter n v).finished = s.finished := rfl
@[simp] theorem setCounter_ctlWrites (s : State) (n : Fin 4096) (v : Word) : (s.setCounter n v).ctlWrites = s.ctlWrites := rfl
@[simp] theorem setCounter_flush (s : State) (n : Fin 4096) (v : Word) : (s.setCounter n v).flush = s.flush := rfl
@[simp] theorem setCounter_fabric (s : State) (n : Fin 4096) (v : Word) : (s.setCounter n v).fabric = s.fabric := rfl
@[simp] theorem setCounter_mgmt (s : State) (n : Fin 4096) (v : Word) : (s.setCounter n v).mgmt = s.mgmt := rfl
@[simp] theorem setCounter_nextId (s : State) (n : Fin 4096) (v : Word) : (s.setCounter n v).nextId = s.nextId := rfl
@[simp] theorem setCounter_cur (s : State) (n : Fin 4096) (v : Word) : (s.setCounter n v).cur = s.cur := rfl
@[simp] theorem setCounter_agenda (s : State) (n : Fin 4096) (v : Word) : (s.setCounter n v).agenda = s.agenda := rfl
@[simp] theorem setCounter_turns (s : State) (n : Fin 4096) (v : Word) : (s.setCounter n v).turns = s.turns := rfl
@[simp] theorem setCounter_free (s : State) (n : Fin 4096) (v : Word) : (s.setCounter n v).free = s.free := rfl
@[simp] theorem setCounter_raised (s : State) (n : Fin 4096) (v : Word) : (s.setCounter n v).raised = s.raised := rfl
@[simp] theorem writeByte_cores (s : State) (a : Author) (n : Nat) (w : ByteWrite) : (s.writeByte a n w).cores = s.cores := by unfold State.writeByte; dsimp only; split <;> rfl
@[simp] theorem writeByte_absent (s : State) (a : Author) (n : Nat) (w : ByteWrite) : (s.writeByte a n w).absent = s.absent := by unfold State.writeByte; dsimp only; split <;> rfl
@[simp] theorem writeByte_leftOut (s : State) (a : Author) (n : Nat) (w : ByteWrite) : (s.writeByte a n w).leftOut = s.leftOut := by unfold State.writeByte; dsimp only; split <;> rfl
@[simp] theorem writeByte_remap (s : State) (a : Author) (n : Nat) (w : ByteWrite) : (s.writeByte a n w).remap = s.remap := by unfold State.writeByte; dsimp only; split <;> rfl
@[simp] theorem writeByte_lost (s : State) (a : Author) (n : Nat) (w : ByteWrite) : (s.writeByte a n w).lost = s.lost := by unfold State.writeByte; dsimp only; split <;> rfl
@[simp] theorem writeByte_damaged (s : State) (a : Author) (n : Nat) (w : ByteWrite) : (s.writeByte a n w).damaged = s.damaged := by unfold State.writeByte; dsimp only; split <;> rfl
@[simp] theorem writeByte_l2 (s : State) (a : Author) (n : Nat) (w : ByteWrite) : (s.writeByte a n w).l2 = s.l2 := by unfold State.writeByte; dsimp only; split <;> rfl
@[simp] theorem writeByte_ctlb (s : State) (a : Author) (n : Nat) (w : ByteWrite) : (s.writeByte a n w).ctlb = s.ctlb := by unfold State.writeByte; dsimp only; split <;> rfl
@[simp] theorem writeByte_phases (s : State) (a : Author) (n : Nat) (w : ByteWrite) : (s.writeByte a n w).phases = s.phases := by unfold State.writeByte; dsimp only; split <;> rfl
@[simp] theorem writeByte_counters (s : State) (a : Author) (n : Nat) (w : ByteWrite) : (s.writeByte a n w).counters = s.counters := by unfold State.writeByte; dsimp only; split <;> rfl
@[simp] theorem writeByte_frq (s : State) (a : Author) (n : Nat) (w : ByteWrite) : (s.writeByte a n w).frq = s.frq := by unfold State.writeByte; dsimp only; split <;> rfl
@[simp] theorem writeByte_frTail (s : State) (a : Author) (n : Nat) (w : ByteWrite) : (s.writeByte a n w).frTail = s.frTail := by unfold State.writeByte; dsimp only; split <;> rfl
@[simp] theorem writeByte_frHead (s : State) (a : Author) (n : Nat) (w : ByteWrite) : (s.writeByte a n w).frHead = s.frHead := by unfold State.writeByte; dsimp only; split <;> rfl
@[simp] theorem writeByte_waiting (s : State) (a : Author) (n : Nat) (w : ByteWrite) : (s.writeByte a n w).waiting = s.waiting := by unfold State.writeByte; dsimp only; split <;> rfl
@[simp] theorem writeByte_insts (s : State) (a : Author) (n : Nat) (w : ByteWrite) : (s.writeByte a n w).insts = s.insts := by unfold State.writeByte; dsimp only; split <;> rfl
@[simp] theorem writeByte_saved (s : State) (a : Author) (n : Nat) (w : ByteWrite) : (s.writeByte a n w).saved = s.saved := by unfold State.writeByte; dsimp only; split <;> rfl
@[simp] theorem writeByte_meridian (s : State) (a : Author) (n : Nat) (w : ByteWrite) : (s.writeByte a n w).meridian = s.meridian := by unfold State.writeByte; dsimp only; split <;> rfl
@[simp] theorem writeByte_stbud (s : State) (a : Author) (n : Nat) (w : ByteWrite) : (s.writeByte a n w).stbud = s.stbud := by unfold State.writeByte; dsimp only; split <;> rfl
@[simp] theorem writeByte_stpf (s : State) (a : Author) (n : Nat) (w : ByteWrite) : (s.writeByte a n w).stpf = s.stpf := by unfold State.writeByte; dsimp only; split <;> rfl
@[simp] theorem writeByte_stash (s : State) (a : Author) (n : Nat) (w : ByteWrite) : (s.writeByte a n w).stash = s.stash := by unfold State.writeByte; dsimp only; split <;> rfl
@[simp] theorem writeByte_prefetch (s : State) (a : Author) (n : Nat) (w : ByteWrite) : (s.writeByte a n w).prefetch = s.prefetch := by unfold State.writeByte; dsimp only; split <;> rfl
@[simp] theorem writeByte_vrb (s : State) (a : Author) (n : Nat) (w : ByteWrite) : (s.writeByte a n w).vrb = s.vrb := by unfold State.writeByte; dsimp only; split <;> rfl
@[simp] theorem writeByte_vpool (s : State) (a : Author) (n : Nat) (w : ByteWrite) : (s.writeByte a n w).vpool = s.vpool := by unfold State.writeByte; dsimp only; split <;> rfl
@[simp] theorem writeByte_priv (s : State) (a : Author) (n : Nat) (w : ByteWrite) : (s.writeByte a n w).priv = s.priv := by unfold State.writeByte; dsimp only; split <;> rfl
@[simp] theorem writeByte_finished (s : State) (a : Author) (n : Nat) (w : ByteWrite) : (s.writeByte a n w).finished = s.finished := by unfold State.writeByte; dsimp only; split <;> rfl
@[simp] theorem writeByte_ctlWrites (s : State) (a : Author) (n : Nat) (w : ByteWrite) : (s.writeByte a n w).ctlWrites = s.ctlWrites := by unfold State.writeByte; dsimp only; split <;> rfl
@[simp] theorem writeByte_flush (s : State) (a : Author) (n : Nat) (w : ByteWrite) : (s.writeByte a n w).flush = s.flush := by unfold State.writeByte; dsimp only; split <;> rfl
@[simp] theorem writeByte_fabric (s : State) (a : Author) (n : Nat) (w : ByteWrite) : (s.writeByte a n w).fabric = s.fabric := by unfold State.writeByte; dsimp only; split <;> rfl
@[simp] theorem writeByte_mgmt (s : State) (a : Author) (n : Nat) (w : ByteWrite) : (s.writeByte a n w).mgmt = s.mgmt := by unfold State.writeByte; dsimp only; split <;> rfl
@[simp] theorem writeByte_nextId (s : State) (a : Author) (n : Nat) (w : ByteWrite) : (s.writeByte a n w).nextId = s.nextId := by unfold State.writeByte; dsimp only; split <;> rfl
@[simp] theorem writeByte_cur (s : State) (a : Author) (n : Nat) (w : ByteWrite) : (s.writeByte a n w).cur = s.cur := by unfold State.writeByte; dsimp only; split <;> rfl
@[simp] theorem writeByte_agenda (s : State) (a : Author) (n : Nat) (w : ByteWrite) : (s.writeByte a n w).agenda = s.agenda := by unfold State.writeByte; dsimp only; split <;> rfl
@[simp] theorem writeByte_turns (s : State) (a : Author) (n : Nat) (w : ByteWrite) : (s.writeByte a n w).turns = s.turns := by unfold State.writeByte; dsimp only; split <;> rfl
@[simp] theorem writeByte_free (s : State) (a : Author) (n : Nat) (w : ByteWrite) : (s.writeByte a n w).free = s.free := by unfold State.writeByte; dsimp only; split <;> rfl
@[simp] theorem writeByte_raised (s : State) (a : Author) (n : Nat) (w : ByteWrite) : (s.writeByte a n w).raised = s.raised := by unfold State.writeByte; dsimp only; split <;> rfl
@[simp] theorem writeBytes_cores (a : Author) (n : Nat) (ws : List ByteWrite) (s : State) : (s.writeBytes a n ws).cores = s.cores := by
  induction ws generalizing s with
  | nil => rfl
  | cons w ws ih => exact (ih (s.writeByte a n w)).trans (writeByte_cores s a n w)
@[simp] theorem writeBytes_absent (a : Author) (n : Nat) (ws : List ByteWrite) (s : State) : (s.writeBytes a n ws).absent = s.absent := by
  induction ws generalizing s with
  | nil => rfl
  | cons w ws ih => exact (ih (s.writeByte a n w)).trans (writeByte_absent s a n w)
@[simp] theorem writeBytes_leftOut (a : Author) (n : Nat) (ws : List ByteWrite) (s : State) : (s.writeBytes a n ws).leftOut = s.leftOut := by
  induction ws generalizing s with
  | nil => rfl
  | cons w ws ih => exact (ih (s.writeByte a n w)).trans (writeByte_leftOut s a n w)
@[simp] theorem writeBytes_remap (a : Author) (n : Nat) (ws : List ByteWrite) (s : State) : (s.writeBytes a n ws).remap = s.remap := by
  induction ws generalizing s with
  | nil => rfl
  | cons w ws ih => exact (ih (s.writeByte a n w)).trans (writeByte_remap s a n w)
@[simp] theorem writeBytes_lost (a : Author) (n : Nat) (ws : List ByteWrite) (s : State) : (s.writeBytes a n ws).lost = s.lost := by
  induction ws generalizing s with
  | nil => rfl
  | cons w ws ih => exact (ih (s.writeByte a n w)).trans (writeByte_lost s a n w)
@[simp] theorem writeBytes_damaged (a : Author) (n : Nat) (ws : List ByteWrite) (s : State) : (s.writeBytes a n ws).damaged = s.damaged := by
  induction ws generalizing s with
  | nil => rfl
  | cons w ws ih => exact (ih (s.writeByte a n w)).trans (writeByte_damaged s a n w)
@[simp] theorem writeBytes_l2 (a : Author) (n : Nat) (ws : List ByteWrite) (s : State) : (s.writeBytes a n ws).l2 = s.l2 := by
  induction ws generalizing s with
  | nil => rfl
  | cons w ws ih => exact (ih (s.writeByte a n w)).trans (writeByte_l2 s a n w)
@[simp] theorem writeBytes_ctlb (a : Author) (n : Nat) (ws : List ByteWrite) (s : State) : (s.writeBytes a n ws).ctlb = s.ctlb := by
  induction ws generalizing s with
  | nil => rfl
  | cons w ws ih => exact (ih (s.writeByte a n w)).trans (writeByte_ctlb s a n w)
@[simp] theorem writeBytes_phases (a : Author) (n : Nat) (ws : List ByteWrite) (s : State) : (s.writeBytes a n ws).phases = s.phases := by
  induction ws generalizing s with
  | nil => rfl
  | cons w ws ih => exact (ih (s.writeByte a n w)).trans (writeByte_phases s a n w)
@[simp] theorem writeBytes_counters (a : Author) (n : Nat) (ws : List ByteWrite) (s : State) : (s.writeBytes a n ws).counters = s.counters := by
  induction ws generalizing s with
  | nil => rfl
  | cons w ws ih => exact (ih (s.writeByte a n w)).trans (writeByte_counters s a n w)
@[simp] theorem writeBytes_frq (a : Author) (n : Nat) (ws : List ByteWrite) (s : State) : (s.writeBytes a n ws).frq = s.frq := by
  induction ws generalizing s with
  | nil => rfl
  | cons w ws ih => exact (ih (s.writeByte a n w)).trans (writeByte_frq s a n w)
@[simp] theorem writeBytes_frTail (a : Author) (n : Nat) (ws : List ByteWrite) (s : State) : (s.writeBytes a n ws).frTail = s.frTail := by
  induction ws generalizing s with
  | nil => rfl
  | cons w ws ih => exact (ih (s.writeByte a n w)).trans (writeByte_frTail s a n w)
@[simp] theorem writeBytes_frHead (a : Author) (n : Nat) (ws : List ByteWrite) (s : State) : (s.writeBytes a n ws).frHead = s.frHead := by
  induction ws generalizing s with
  | nil => rfl
  | cons w ws ih => exact (ih (s.writeByte a n w)).trans (writeByte_frHead s a n w)
@[simp] theorem writeBytes_waiting (a : Author) (n : Nat) (ws : List ByteWrite) (s : State) : (s.writeBytes a n ws).waiting = s.waiting := by
  induction ws generalizing s with
  | nil => rfl
  | cons w ws ih => exact (ih (s.writeByte a n w)).trans (writeByte_waiting s a n w)
@[simp] theorem writeBytes_insts (a : Author) (n : Nat) (ws : List ByteWrite) (s : State) : (s.writeBytes a n ws).insts = s.insts := by
  induction ws generalizing s with
  | nil => rfl
  | cons w ws ih => exact (ih (s.writeByte a n w)).trans (writeByte_insts s a n w)
@[simp] theorem writeBytes_saved (a : Author) (n : Nat) (ws : List ByteWrite) (s : State) : (s.writeBytes a n ws).saved = s.saved := by
  induction ws generalizing s with
  | nil => rfl
  | cons w ws ih => exact (ih (s.writeByte a n w)).trans (writeByte_saved s a n w)
@[simp] theorem writeBytes_meridian (a : Author) (n : Nat) (ws : List ByteWrite) (s : State) : (s.writeBytes a n ws).meridian = s.meridian := by
  induction ws generalizing s with
  | nil => rfl
  | cons w ws ih => exact (ih (s.writeByte a n w)).trans (writeByte_meridian s a n w)
@[simp] theorem writeBytes_stbud (a : Author) (n : Nat) (ws : List ByteWrite) (s : State) : (s.writeBytes a n ws).stbud = s.stbud := by
  induction ws generalizing s with
  | nil => rfl
  | cons w ws ih => exact (ih (s.writeByte a n w)).trans (writeByte_stbud s a n w)
@[simp] theorem writeBytes_stpf (a : Author) (n : Nat) (ws : List ByteWrite) (s : State) : (s.writeBytes a n ws).stpf = s.stpf := by
  induction ws generalizing s with
  | nil => rfl
  | cons w ws ih => exact (ih (s.writeByte a n w)).trans (writeByte_stpf s a n w)
@[simp] theorem writeBytes_stash (a : Author) (n : Nat) (ws : List ByteWrite) (s : State) : (s.writeBytes a n ws).stash = s.stash := by
  induction ws generalizing s with
  | nil => rfl
  | cons w ws ih => exact (ih (s.writeByte a n w)).trans (writeByte_stash s a n w)
@[simp] theorem writeBytes_prefetch (a : Author) (n : Nat) (ws : List ByteWrite) (s : State) : (s.writeBytes a n ws).prefetch = s.prefetch := by
  induction ws generalizing s with
  | nil => rfl
  | cons w ws ih => exact (ih (s.writeByte a n w)).trans (writeByte_prefetch s a n w)
@[simp] theorem writeBytes_vrb (a : Author) (n : Nat) (ws : List ByteWrite) (s : State) : (s.writeBytes a n ws).vrb = s.vrb := by
  induction ws generalizing s with
  | nil => rfl
  | cons w ws ih => exact (ih (s.writeByte a n w)).trans (writeByte_vrb s a n w)
@[simp] theorem writeBytes_vpool (a : Author) (n : Nat) (ws : List ByteWrite) (s : State) : (s.writeBytes a n ws).vpool = s.vpool := by
  induction ws generalizing s with
  | nil => rfl
  | cons w ws ih => exact (ih (s.writeByte a n w)).trans (writeByte_vpool s a n w)
@[simp] theorem writeBytes_priv (a : Author) (n : Nat) (ws : List ByteWrite) (s : State) : (s.writeBytes a n ws).priv = s.priv := by
  induction ws generalizing s with
  | nil => rfl
  | cons w ws ih => exact (ih (s.writeByte a n w)).trans (writeByte_priv s a n w)
@[simp] theorem writeBytes_finished (a : Author) (n : Nat) (ws : List ByteWrite) (s : State) : (s.writeBytes a n ws).finished = s.finished := by
  induction ws generalizing s with
  | nil => rfl
  | cons w ws ih => exact (ih (s.writeByte a n w)).trans (writeByte_finished s a n w)
@[simp] theorem writeBytes_ctlWrites (a : Author) (n : Nat) (ws : List ByteWrite) (s : State) : (s.writeBytes a n ws).ctlWrites = s.ctlWrites := by
  induction ws generalizing s with
  | nil => rfl
  | cons w ws ih => exact (ih (s.writeByte a n w)).trans (writeByte_ctlWrites s a n w)
@[simp] theorem writeBytes_flush (a : Author) (n : Nat) (ws : List ByteWrite) (s : State) : (s.writeBytes a n ws).flush = s.flush := by
  induction ws generalizing s with
  | nil => rfl
  | cons w ws ih => exact (ih (s.writeByte a n w)).trans (writeByte_flush s a n w)
@[simp] theorem writeBytes_fabric (a : Author) (n : Nat) (ws : List ByteWrite) (s : State) : (s.writeBytes a n ws).fabric = s.fabric := by
  induction ws generalizing s with
  | nil => rfl
  | cons w ws ih => exact (ih (s.writeByte a n w)).trans (writeByte_fabric s a n w)
@[simp] theorem writeBytes_mgmt (a : Author) (n : Nat) (ws : List ByteWrite) (s : State) : (s.writeBytes a n ws).mgmt = s.mgmt := by
  induction ws generalizing s with
  | nil => rfl
  | cons w ws ih => exact (ih (s.writeByte a n w)).trans (writeByte_mgmt s a n w)
@[simp] theorem writeBytes_nextId (a : Author) (n : Nat) (ws : List ByteWrite) (s : State) : (s.writeBytes a n ws).nextId = s.nextId := by
  induction ws generalizing s with
  | nil => rfl
  | cons w ws ih => exact (ih (s.writeByte a n w)).trans (writeByte_nextId s a n w)
@[simp] theorem writeBytes_cur (a : Author) (n : Nat) (ws : List ByteWrite) (s : State) : (s.writeBytes a n ws).cur = s.cur := by
  induction ws generalizing s with
  | nil => rfl
  | cons w ws ih => exact (ih (s.writeByte a n w)).trans (writeByte_cur s a n w)
@[simp] theorem writeBytes_agenda (a : Author) (n : Nat) (ws : List ByteWrite) (s : State) : (s.writeBytes a n ws).agenda = s.agenda := by
  induction ws generalizing s with
  | nil => rfl
  | cons w ws ih => exact (ih (s.writeByte a n w)).trans (writeByte_agenda s a n w)
@[simp] theorem writeBytes_turns (a : Author) (n : Nat) (ws : List ByteWrite) (s : State) : (s.writeBytes a n ws).turns = s.turns := by
  induction ws generalizing s with
  | nil => rfl
  | cons w ws ih => exact (ih (s.writeByte a n w)).trans (writeByte_turns s a n w)
@[simp] theorem writeBytes_free (a : Author) (n : Nat) (ws : List ByteWrite) (s : State) : (s.writeBytes a n ws).free = s.free := by
  induction ws generalizing s with
  | nil => rfl
  | cons w ws ih => exact (ih (s.writeByte a n w)).trans (writeByte_free s a n w)
@[simp] theorem writeBytes_raised (a : Author) (n : Nat) (ws : List ByteWrite) (s : State) : (s.writeBytes a n ws).raised = s.raised := by
  induction ws generalizing s with
  | nil => rfl
  | cons w ws ih => exact (ih (s.writeByte a n w)).trans (writeByte_raised s a n w)
@[simp] theorem writeUnit_cores (s : State) (a : Author) (ws : List ByteWrite) : (s.writeUnit a ws).cores = s.cores := writeBytes_cores a s.nextId ws _
@[simp] theorem writeUnit_absent (s : State) (a : Author) (ws : List ByteWrite) : (s.writeUnit a ws).absent = s.absent := writeBytes_absent a s.nextId ws _
@[simp] theorem writeUnit_leftOut (s : State) (a : Author) (ws : List ByteWrite) : (s.writeUnit a ws).leftOut = s.leftOut := writeBytes_leftOut a s.nextId ws _
@[simp] theorem writeUnit_remap (s : State) (a : Author) (ws : List ByteWrite) : (s.writeUnit a ws).remap = s.remap := writeBytes_remap a s.nextId ws _
@[simp] theorem writeUnit_lost (s : State) (a : Author) (ws : List ByteWrite) : (s.writeUnit a ws).lost = s.lost := writeBytes_lost a s.nextId ws _
@[simp] theorem writeUnit_damaged (s : State) (a : Author) (ws : List ByteWrite) : (s.writeUnit a ws).damaged = s.damaged := writeBytes_damaged a s.nextId ws _
@[simp] theorem writeUnit_l2 (s : State) (a : Author) (ws : List ByteWrite) : (s.writeUnit a ws).l2 = s.l2 := writeBytes_l2 a s.nextId ws _
@[simp] theorem writeUnit_ctlb (s : State) (a : Author) (ws : List ByteWrite) : (s.writeUnit a ws).ctlb = s.ctlb := writeBytes_ctlb a s.nextId ws _
@[simp] theorem writeUnit_phases (s : State) (a : Author) (ws : List ByteWrite) : (s.writeUnit a ws).phases = s.phases := writeBytes_phases a s.nextId ws _
@[simp] theorem writeUnit_counters (s : State) (a : Author) (ws : List ByteWrite) : (s.writeUnit a ws).counters = s.counters := writeBytes_counters a s.nextId ws _
@[simp] theorem writeUnit_frq (s : State) (a : Author) (ws : List ByteWrite) : (s.writeUnit a ws).frq = s.frq := writeBytes_frq a s.nextId ws _
@[simp] theorem writeUnit_frTail (s : State) (a : Author) (ws : List ByteWrite) : (s.writeUnit a ws).frTail = s.frTail := writeBytes_frTail a s.nextId ws _
@[simp] theorem writeUnit_frHead (s : State) (a : Author) (ws : List ByteWrite) : (s.writeUnit a ws).frHead = s.frHead := writeBytes_frHead a s.nextId ws _
@[simp] theorem writeUnit_waiting (s : State) (a : Author) (ws : List ByteWrite) : (s.writeUnit a ws).waiting = s.waiting := writeBytes_waiting a s.nextId ws _
@[simp] theorem writeUnit_insts (s : State) (a : Author) (ws : List ByteWrite) : (s.writeUnit a ws).insts = s.insts := writeBytes_insts a s.nextId ws _
@[simp] theorem writeUnit_saved (s : State) (a : Author) (ws : List ByteWrite) : (s.writeUnit a ws).saved = s.saved := writeBytes_saved a s.nextId ws _
@[simp] theorem writeUnit_meridian (s : State) (a : Author) (ws : List ByteWrite) : (s.writeUnit a ws).meridian = s.meridian := writeBytes_meridian a s.nextId ws _
@[simp] theorem writeUnit_stbud (s : State) (a : Author) (ws : List ByteWrite) : (s.writeUnit a ws).stbud = s.stbud := writeBytes_stbud a s.nextId ws _
@[simp] theorem writeUnit_stpf (s : State) (a : Author) (ws : List ByteWrite) : (s.writeUnit a ws).stpf = s.stpf := writeBytes_stpf a s.nextId ws _
@[simp] theorem writeUnit_stash (s : State) (a : Author) (ws : List ByteWrite) : (s.writeUnit a ws).stash = s.stash := writeBytes_stash a s.nextId ws _
@[simp] theorem writeUnit_prefetch (s : State) (a : Author) (ws : List ByteWrite) : (s.writeUnit a ws).prefetch = s.prefetch := writeBytes_prefetch a s.nextId ws _
@[simp] theorem writeUnit_vrb (s : State) (a : Author) (ws : List ByteWrite) : (s.writeUnit a ws).vrb = s.vrb := writeBytes_vrb a s.nextId ws _
@[simp] theorem writeUnit_vpool (s : State) (a : Author) (ws : List ByteWrite) : (s.writeUnit a ws).vpool = s.vpool := writeBytes_vpool a s.nextId ws _
@[simp] theorem writeUnit_priv (s : State) (a : Author) (ws : List ByteWrite) : (s.writeUnit a ws).priv = s.priv := writeBytes_priv a s.nextId ws _
@[simp] theorem writeUnit_finished (s : State) (a : Author) (ws : List ByteWrite) : (s.writeUnit a ws).finished = s.finished := writeBytes_finished a s.nextId ws _
@[simp] theorem writeUnit_ctlWrites (s : State) (a : Author) (ws : List ByteWrite) : (s.writeUnit a ws).ctlWrites = s.ctlWrites := writeBytes_ctlWrites a s.nextId ws _
@[simp] theorem writeUnit_flush (s : State) (a : Author) (ws : List ByteWrite) : (s.writeUnit a ws).flush = s.flush := writeBytes_flush a s.nextId ws _
@[simp] theorem writeUnit_fabric (s : State) (a : Author) (ws : List ByteWrite) : (s.writeUnit a ws).fabric = s.fabric := writeBytes_fabric a s.nextId ws _
@[simp] theorem writeUnit_mgmt (s : State) (a : Author) (ws : List ByteWrite) : (s.writeUnit a ws).mgmt = s.mgmt := writeBytes_mgmt a s.nextId ws _
@[simp] theorem writeUnit_cur (s : State) (a : Author) (ws : List ByteWrite) : (s.writeUnit a ws).cur = s.cur := writeBytes_cur a s.nextId ws _
@[simp] theorem writeUnit_agenda (s : State) (a : Author) (ws : List ByteWrite) : (s.writeUnit a ws).agenda = s.agenda := writeBytes_agenda a s.nextId ws _
@[simp] theorem writeUnit_turns (s : State) (a : Author) (ws : List ByteWrite) : (s.writeUnit a ws).turns = s.turns := writeBytes_turns a s.nextId ws _
@[simp] theorem writeUnit_free (s : State) (a : Author) (ws : List ByteWrite) : (s.writeUnit a ws).free = s.free := writeBytes_free a s.nextId ws _
@[simp] theorem writeUnit_raised (s : State) (a : Author) (ws : List ByteWrite) : (s.writeUnit a ws).raised = s.raised := writeBytes_raised a s.nextId ws _
@[simp] theorem event_cores (s : State) (bit : Nat) : (s.event bit).cores = s.cores := rfl
@[simp] theorem event_absent (s : State) (bit : Nat) : (s.event bit).absent = s.absent := rfl
@[simp] theorem event_leftOut (s : State) (bit : Nat) : (s.event bit).leftOut = s.leftOut := rfl
@[simp] theorem event_remap (s : State) (bit : Nat) : (s.event bit).remap = s.remap := rfl
@[simp] theorem event_mem (s : State) (bit : Nat) : (s.event bit).mem = s.mem := rfl
@[simp] theorem event_lost (s : State) (bit : Nat) : (s.event bit).lost = s.lost := rfl
@[simp] theorem event_damaged (s : State) (bit : Nat) : (s.event bit).damaged = s.damaged := rfl
@[simp] theorem event_views (s : State) (bit : Nat) : (s.event bit).views = s.views := rfl
@[simp] theorem event_l2 (s : State) (bit : Nat) : (s.event bit).l2 = s.l2 := rfl
@[simp] theorem event_ctlb (s : State) (bit : Nat) : (s.event bit).ctlb = s.ctlb := rfl
@[simp] theorem event_phases (s : State) (bit : Nat) : (s.event bit).phases = s.phases := rfl
@[simp] theorem event_counters (s : State) (bit : Nat) : (s.event bit).counters = s.counters := rfl
@[simp] theorem event_frq (s : State) (bit : Nat) : (s.event bit).frq = s.frq := rfl
@[simp] theorem event_frTail (s : State) (bit : Nat) : (s.event bit).frTail = s.frTail := rfl
@[simp] theorem event_frHead (s : State) (bit : Nat) : (s.event bit).frHead = s.frHead := rfl
@[simp] theorem event_waiting (s : State) (bit : Nat) : (s.event bit).waiting = s.waiting := rfl
@[simp] theorem event_insts (s : State) (bit : Nat) : (s.event bit).insts = s.insts := rfl
@[simp] theorem event_saved (s : State) (bit : Nat) : (s.event bit).saved = s.saved := rfl
@[simp] theorem event_meridian (s : State) (bit : Nat) : (s.event bit).meridian = s.meridian := rfl
@[simp] theorem event_stbud (s : State) (bit : Nat) : (s.event bit).stbud = s.stbud := rfl
@[simp] theorem event_stpf (s : State) (bit : Nat) : (s.event bit).stpf = s.stpf := rfl
@[simp] theorem event_stash (s : State) (bit : Nat) : (s.event bit).stash = s.stash := rfl
@[simp] theorem event_prefetch (s : State) (bit : Nat) : (s.event bit).prefetch = s.prefetch := rfl
@[simp] theorem event_vrb (s : State) (bit : Nat) : (s.event bit).vrb = s.vrb := rfl
@[simp] theorem event_vpool (s : State) (bit : Nat) : (s.event bit).vpool = s.vpool := rfl
@[simp] theorem event_priv (s : State) (bit : Nat) : (s.event bit).priv = s.priv := rfl
@[simp] theorem event_finished (s : State) (bit : Nat) : (s.event bit).finished = s.finished := rfl
@[simp] theorem event_ctlWrites (s : State) (bit : Nat) : (s.event bit).ctlWrites = s.ctlWrites := rfl
@[simp] theorem event_flush (s : State) (bit : Nat) : (s.event bit).flush = s.flush := rfl
@[simp] theorem event_fabric (s : State) (bit : Nat) : (s.event bit).fabric = s.fabric := rfl
@[simp] theorem event_nextId (s : State) (bit : Nat) : (s.event bit).nextId = s.nextId := rfl
@[simp] theorem event_cur (s : State) (bit : Nat) : (s.event bit).cur = s.cur := rfl
@[simp] theorem event_agenda (s : State) (bit : Nat) : (s.event bit).agenda = s.agenda := rfl
@[simp] theorem event_turns (s : State) (bit : Nat) : (s.event bit).turns = s.turns := rfl
@[simp] theorem event_free (s : State) (bit : Nat) : (s.event bit).free = s.free := rfl
@[simp] theorem event_raised (s : State) (bit : Nat) : (s.event bit).raised = s.raised := rfl

/-! ## A result that enters a delay line leaves the package -/

@[simp] theorem enter_absent (s : State) (e : InFlight) : (s.enter e).absent = s.absent := by unfold State.enter; split <;> rfl
@[simp] theorem enter_leftOut (s : State) (e : InFlight) : (s.enter e).leftOut = s.leftOut := by unfold State.enter; split <;> rfl
@[simp] theorem enter_remap (s : State) (e : InFlight) : (s.enter e).remap = s.remap := by unfold State.enter; split <;> rfl
@[simp] theorem enter_mem (s : State) (e : InFlight) : (s.enter e).mem = s.mem := by unfold State.enter; split <;> rfl
@[simp] theorem enter_lost (s : State) (e : InFlight) : (s.enter e).lost = s.lost := by unfold State.enter; split <;> rfl
@[simp] theorem enter_damaged (s : State) (e : InFlight) : (s.enter e).damaged = s.damaged := by unfold State.enter; split <;> rfl
@[simp] theorem enter_views (s : State) (e : InFlight) : (s.enter e).views = s.views := by unfold State.enter; split <;> rfl
@[simp] theorem enter_l2 (s : State) (e : InFlight) : (s.enter e).l2 = s.l2 := by unfold State.enter; split <;> rfl
@[simp] theorem enter_ctlb (s : State) (e : InFlight) : (s.enter e).ctlb = s.ctlb := by unfold State.enter; split <;> rfl
@[simp] theorem enter_phases (s : State) (e : InFlight) : (s.enter e).phases = s.phases := by unfold State.enter; split <;> rfl
@[simp] theorem enter_counters (s : State) (e : InFlight) : (s.enter e).counters = s.counters := by unfold State.enter; split <;> rfl
@[simp] theorem enter_frq (s : State) (e : InFlight) : (s.enter e).frq = s.frq := by unfold State.enter; split <;> rfl
@[simp] theorem enter_frTail (s : State) (e : InFlight) : (s.enter e).frTail = s.frTail := by unfold State.enter; split <;> rfl
@[simp] theorem enter_frHead (s : State) (e : InFlight) : (s.enter e).frHead = s.frHead := by unfold State.enter; split <;> rfl
@[simp] theorem enter_waiting (s : State) (e : InFlight) : (s.enter e).waiting = s.waiting := by unfold State.enter; split <;> rfl
@[simp] theorem enter_insts (s : State) (e : InFlight) : (s.enter e).insts = s.insts := by unfold State.enter; split <;> rfl
@[simp] theorem enter_saved (s : State) (e : InFlight) : (s.enter e).saved = s.saved := by unfold State.enter; split <;> rfl
@[simp] theorem enter_meridian (s : State) (e : InFlight) : (s.enter e).meridian = s.meridian := by unfold State.enter; split <;> rfl
@[simp] theorem enter_stbud (s : State) (e : InFlight) : (s.enter e).stbud = s.stbud := by unfold State.enter; split <;> rfl
@[simp] theorem enter_stpf (s : State) (e : InFlight) : (s.enter e).stpf = s.stpf := by unfold State.enter; split <;> rfl
@[simp] theorem enter_stash (s : State) (e : InFlight) : (s.enter e).stash = s.stash := by unfold State.enter; split <;> rfl
@[simp] theorem enter_prefetch (s : State) (e : InFlight) : (s.enter e).prefetch = s.prefetch := by unfold State.enter; split <;> rfl
@[simp] theorem enter_vrb (s : State) (e : InFlight) : (s.enter e).vrb = s.vrb := by unfold State.enter; split <;> rfl
@[simp] theorem enter_vpool (s : State) (e : InFlight) : (s.enter e).vpool = s.vpool := by unfold State.enter; split <;> rfl
@[simp] theorem enter_priv (s : State) (e : InFlight) : (s.enter e).priv = s.priv := by unfold State.enter; split <;> rfl
@[simp] theorem enter_finished (s : State) (e : InFlight) : (s.enter e).finished = s.finished := by unfold State.enter; split <;> rfl
@[simp] theorem enter_ctlWrites (s : State) (e : InFlight) : (s.enter e).ctlWrites = s.ctlWrites := by unfold State.enter; split <;> rfl
@[simp] theorem enter_flush (s : State) (e : InFlight) : (s.enter e).flush = s.flush := by unfold State.enter; split <;> rfl
@[simp] theorem enter_fabric (s : State) (e : InFlight) : (s.enter e).fabric = s.fabric := by unfold State.enter; split <;> rfl
@[simp] theorem enter_mgmt (s : State) (e : InFlight) : (s.enter e).mgmt = s.mgmt := by unfold State.enter; split <;> rfl
@[simp] theorem enter_nextId (s : State) (e : InFlight) : (s.enter e).nextId = s.nextId := by unfold State.enter; split <;> rfl
@[simp] theorem enter_cur (s : State) (e : InFlight) : (s.enter e).cur = s.cur := by unfold State.enter; split <;> rfl
@[simp] theorem enter_agenda (s : State) (e : InFlight) : (s.enter e).agenda = s.agenda := by unfold State.enter; split <;> rfl
@[simp] theorem enter_turns (s : State) (e : InFlight) : (s.enter e).turns = s.turns := by unfold State.enter; split <;> rfl
@[simp] theorem enter_free (s : State) (e : InFlight) : (s.enter e).free = s.free := by unfold State.enter; split <;> rfl
@[simp] theorem enter_raised (s : State) (e : InFlight) : (s.enter e).raised = s.raised := by unfold State.enter; split <;> rfl
@[simp] theorem push_absent (s : State) (l : Nat) (x : Landing) : (s.push l x).absent = s.absent := by simp [State.push]
@[simp] theorem push_leftOut (s : State) (l : Nat) (x : Landing) : (s.push l x).leftOut = s.leftOut := by simp [State.push]
@[simp] theorem push_remap (s : State) (l : Nat) (x : Landing) : (s.push l x).remap = s.remap := by simp [State.push]
@[simp] theorem push_mem (s : State) (l : Nat) (x : Landing) : (s.push l x).mem = s.mem := by simp [State.push]
@[simp] theorem push_lost (s : State) (l : Nat) (x : Landing) : (s.push l x).lost = s.lost := by simp [State.push]
@[simp] theorem push_damaged (s : State) (l : Nat) (x : Landing) : (s.push l x).damaged = s.damaged := by simp [State.push]
@[simp] theorem push_views (s : State) (l : Nat) (x : Landing) : (s.push l x).views = s.views := by simp [State.push]
@[simp] theorem push_l2 (s : State) (l : Nat) (x : Landing) : (s.push l x).l2 = s.l2 := by simp [State.push]
@[simp] theorem push_ctlb (s : State) (l : Nat) (x : Landing) : (s.push l x).ctlb = s.ctlb := by simp [State.push]
@[simp] theorem push_phases (s : State) (l : Nat) (x : Landing) : (s.push l x).phases = s.phases := by simp [State.push]
@[simp] theorem push_counters (s : State) (l : Nat) (x : Landing) : (s.push l x).counters = s.counters := by simp [State.push]
@[simp] theorem push_frq (s : State) (l : Nat) (x : Landing) : (s.push l x).frq = s.frq := by simp [State.push]
@[simp] theorem push_frTail (s : State) (l : Nat) (x : Landing) : (s.push l x).frTail = s.frTail := by simp [State.push]
@[simp] theorem push_frHead (s : State) (l : Nat) (x : Landing) : (s.push l x).frHead = s.frHead := by simp [State.push]
@[simp] theorem push_waiting (s : State) (l : Nat) (x : Landing) : (s.push l x).waiting = s.waiting := by simp [State.push]
@[simp] theorem push_insts (s : State) (l : Nat) (x : Landing) : (s.push l x).insts = s.insts := by simp [State.push]
@[simp] theorem push_saved (s : State) (l : Nat) (x : Landing) : (s.push l x).saved = s.saved := by simp [State.push]
@[simp] theorem push_meridian (s : State) (l : Nat) (x : Landing) : (s.push l x).meridian = s.meridian := by simp [State.push]
@[simp] theorem push_stbud (s : State) (l : Nat) (x : Landing) : (s.push l x).stbud = s.stbud := by simp [State.push]
@[simp] theorem push_stpf (s : State) (l : Nat) (x : Landing) : (s.push l x).stpf = s.stpf := by simp [State.push]
@[simp] theorem push_stash (s : State) (l : Nat) (x : Landing) : (s.push l x).stash = s.stash := by simp [State.push]
@[simp] theorem push_prefetch (s : State) (l : Nat) (x : Landing) : (s.push l x).prefetch = s.prefetch := by simp [State.push]
@[simp] theorem push_vrb (s : State) (l : Nat) (x : Landing) : (s.push l x).vrb = s.vrb := by simp [State.push]
@[simp] theorem push_vpool (s : State) (l : Nat) (x : Landing) : (s.push l x).vpool = s.vpool := by simp [State.push]
@[simp] theorem push_priv (s : State) (l : Nat) (x : Landing) : (s.push l x).priv = s.priv := by simp [State.push]
@[simp] theorem push_finished (s : State) (l : Nat) (x : Landing) : (s.push l x).finished = s.finished := by simp [State.push]
@[simp] theorem push_ctlWrites (s : State) (l : Nat) (x : Landing) : (s.push l x).ctlWrites = s.ctlWrites := by simp [State.push]
@[simp] theorem push_flush (s : State) (l : Nat) (x : Landing) : (s.push l x).flush = s.flush := by simp [State.push]
@[simp] theorem push_fabric (s : State) (l : Nat) (x : Landing) : (s.push l x).fabric = s.fabric := by simp [State.push]
@[simp] theorem push_mgmt (s : State) (l : Nat) (x : Landing) : (s.push l x).mgmt = s.mgmt := by simp [State.push]
@[simp] theorem push_nextId (s : State) (l : Nat) (x : Landing) : (s.push l x).nextId = s.nextId := by simp [State.push]
@[simp] theorem push_cur (s : State) (l : Nat) (x : Landing) : (s.push l x).cur = s.cur := by simp [State.push]
@[simp] theorem push_agenda (s : State) (l : Nat) (x : Landing) : (s.push l x).agenda = s.agenda := by simp [State.push]
@[simp] theorem push_turns (s : State) (l : Nat) (x : Landing) : (s.push l x).turns = s.turns := by simp [State.push]
@[simp] theorem push_free (s : State) (l : Nat) (x : Landing) : (s.push l x).free = s.free := by simp [State.push]
@[simp] theorem push_raised (s : State) (l : Nat) (x : Landing) : (s.push l x).raised = s.raised := by simp [State.push]
@[simp] theorem pushS_absent (s : State) (l : Nat) (d : Fin 64) (v : Word) (t : Tag) : (s.pushS l d v t).absent = s.absent := by unfold State.pushS; split <;> simp
@[simp] theorem pushS_leftOut (s : State) (l : Nat) (d : Fin 64) (v : Word) (t : Tag) : (s.pushS l d v t).leftOut = s.leftOut := by unfold State.pushS; split <;> simp
@[simp] theorem pushS_remap (s : State) (l : Nat) (d : Fin 64) (v : Word) (t : Tag) : (s.pushS l d v t).remap = s.remap := by unfold State.pushS; split <;> simp
@[simp] theorem pushS_mem (s : State) (l : Nat) (d : Fin 64) (v : Word) (t : Tag) : (s.pushS l d v t).mem = s.mem := by unfold State.pushS; split <;> simp
@[simp] theorem pushS_lost (s : State) (l : Nat) (d : Fin 64) (v : Word) (t : Tag) : (s.pushS l d v t).lost = s.lost := by unfold State.pushS; split <;> simp
@[simp] theorem pushS_damaged (s : State) (l : Nat) (d : Fin 64) (v : Word) (t : Tag) : (s.pushS l d v t).damaged = s.damaged := by unfold State.pushS; split <;> simp
@[simp] theorem pushS_views (s : State) (l : Nat) (d : Fin 64) (v : Word) (t : Tag) : (s.pushS l d v t).views = s.views := by unfold State.pushS; split <;> simp
@[simp] theorem pushS_l2 (s : State) (l : Nat) (d : Fin 64) (v : Word) (t : Tag) : (s.pushS l d v t).l2 = s.l2 := by unfold State.pushS; split <;> simp
@[simp] theorem pushS_ctlb (s : State) (l : Nat) (d : Fin 64) (v : Word) (t : Tag) : (s.pushS l d v t).ctlb = s.ctlb := by unfold State.pushS; split <;> simp
@[simp] theorem pushS_phases (s : State) (l : Nat) (d : Fin 64) (v : Word) (t : Tag) : (s.pushS l d v t).phases = s.phases := by unfold State.pushS; split <;> simp
@[simp] theorem pushS_counters (s : State) (l : Nat) (d : Fin 64) (v : Word) (t : Tag) : (s.pushS l d v t).counters = s.counters := by unfold State.pushS; split <;> simp
@[simp] theorem pushS_frq (s : State) (l : Nat) (d : Fin 64) (v : Word) (t : Tag) : (s.pushS l d v t).frq = s.frq := by unfold State.pushS; split <;> simp
@[simp] theorem pushS_frTail (s : State) (l : Nat) (d : Fin 64) (v : Word) (t : Tag) : (s.pushS l d v t).frTail = s.frTail := by unfold State.pushS; split <;> simp
@[simp] theorem pushS_frHead (s : State) (l : Nat) (d : Fin 64) (v : Word) (t : Tag) : (s.pushS l d v t).frHead = s.frHead := by unfold State.pushS; split <;> simp
@[simp] theorem pushS_waiting (s : State) (l : Nat) (d : Fin 64) (v : Word) (t : Tag) : (s.pushS l d v t).waiting = s.waiting := by unfold State.pushS; split <;> simp
@[simp] theorem pushS_insts (s : State) (l : Nat) (d : Fin 64) (v : Word) (t : Tag) : (s.pushS l d v t).insts = s.insts := by unfold State.pushS; split <;> simp
@[simp] theorem pushS_saved (s : State) (l : Nat) (d : Fin 64) (v : Word) (t : Tag) : (s.pushS l d v t).saved = s.saved := by unfold State.pushS; split <;> simp
@[simp] theorem pushS_meridian (s : State) (l : Nat) (d : Fin 64) (v : Word) (t : Tag) : (s.pushS l d v t).meridian = s.meridian := by unfold State.pushS; split <;> simp
@[simp] theorem pushS_stbud (s : State) (l : Nat) (d : Fin 64) (v : Word) (t : Tag) : (s.pushS l d v t).stbud = s.stbud := by unfold State.pushS; split <;> simp
@[simp] theorem pushS_stpf (s : State) (l : Nat) (d : Fin 64) (v : Word) (t : Tag) : (s.pushS l d v t).stpf = s.stpf := by unfold State.pushS; split <;> simp
@[simp] theorem pushS_stash (s : State) (l : Nat) (d : Fin 64) (v : Word) (t : Tag) : (s.pushS l d v t).stash = s.stash := by unfold State.pushS; split <;> simp
@[simp] theorem pushS_prefetch (s : State) (l : Nat) (d : Fin 64) (v : Word) (t : Tag) : (s.pushS l d v t).prefetch = s.prefetch := by unfold State.pushS; split <;> simp
@[simp] theorem pushS_vrb (s : State) (l : Nat) (d : Fin 64) (v : Word) (t : Tag) : (s.pushS l d v t).vrb = s.vrb := by unfold State.pushS; split <;> simp
@[simp] theorem pushS_vpool (s : State) (l : Nat) (d : Fin 64) (v : Word) (t : Tag) : (s.pushS l d v t).vpool = s.vpool := by unfold State.pushS; split <;> simp
@[simp] theorem pushS_priv (s : State) (l : Nat) (d : Fin 64) (v : Word) (t : Tag) : (s.pushS l d v t).priv = s.priv := by unfold State.pushS; split <;> simp
@[simp] theorem pushS_finished (s : State) (l : Nat) (d : Fin 64) (v : Word) (t : Tag) : (s.pushS l d v t).finished = s.finished := by unfold State.pushS; split <;> simp
@[simp] theorem pushS_ctlWrites (s : State) (l : Nat) (d : Fin 64) (v : Word) (t : Tag) : (s.pushS l d v t).ctlWrites = s.ctlWrites := by unfold State.pushS; split <;> simp
@[simp] theorem pushS_flush (s : State) (l : Nat) (d : Fin 64) (v : Word) (t : Tag) : (s.pushS l d v t).flush = s.flush := by unfold State.pushS; split <;> simp
@[simp] theorem pushS_fabric (s : State) (l : Nat) (d : Fin 64) (v : Word) (t : Tag) : (s.pushS l d v t).fabric = s.fabric := by unfold State.pushS; split <;> simp
@[simp] theorem pushS_mgmt (s : State) (l : Nat) (d : Fin 64) (v : Word) (t : Tag) : (s.pushS l d v t).mgmt = s.mgmt := by unfold State.pushS; split <;> simp
@[simp] theorem pushS_nextId (s : State) (l : Nat) (d : Fin 64) (v : Word) (t : Tag) : (s.pushS l d v t).nextId = s.nextId := by unfold State.pushS; split <;> simp
@[simp] theorem pushS_cur (s : State) (l : Nat) (d : Fin 64) (v : Word) (t : Tag) : (s.pushS l d v t).cur = s.cur := by unfold State.pushS; split <;> simp
@[simp] theorem pushS_agenda (s : State) (l : Nat) (d : Fin 64) (v : Word) (t : Tag) : (s.pushS l d v t).agenda = s.agenda := by unfold State.pushS; split <;> simp
@[simp] theorem pushS_turns (s : State) (l : Nat) (d : Fin 64) (v : Word) (t : Tag) : (s.pushS l d v t).turns = s.turns := by unfold State.pushS; split <;> simp
@[simp] theorem pushS_free (s : State) (l : Nat) (d : Fin 64) (v : Word) (t : Tag) : (s.pushS l d v t).free = s.free := by unfold State.pushS; split <;> simp
@[simp] theorem pushS_raised (s : State) (l : Nat) (d : Fin 64) (v : Word) (t : Tag) : (s.pushS l d v t).raised = s.raised := by unfold State.pushS; split <;> simp
@[simp] theorem pushLoad_absent (s : State) (l : Nat) (d : Fin 64) (v : Word) (t : Tag) (p : Fin 8 × BitVec 11) : (s.pushLoad l d v t p).absent = s.absent := by unfold State.pushLoad; split <;> simp
@[simp] theorem pushLoad_leftOut (s : State) (l : Nat) (d : Fin 64) (v : Word) (t : Tag) (p : Fin 8 × BitVec 11) : (s.pushLoad l d v t p).leftOut = s.leftOut := by unfold State.pushLoad; split <;> simp
@[simp] theorem pushLoad_remap (s : State) (l : Nat) (d : Fin 64) (v : Word) (t : Tag) (p : Fin 8 × BitVec 11) : (s.pushLoad l d v t p).remap = s.remap := by unfold State.pushLoad; split <;> simp
@[simp] theorem pushLoad_mem (s : State) (l : Nat) (d : Fin 64) (v : Word) (t : Tag) (p : Fin 8 × BitVec 11) : (s.pushLoad l d v t p).mem = s.mem := by unfold State.pushLoad; split <;> simp
@[simp] theorem pushLoad_lost (s : State) (l : Nat) (d : Fin 64) (v : Word) (t : Tag) (p : Fin 8 × BitVec 11) : (s.pushLoad l d v t p).lost = s.lost := by unfold State.pushLoad; split <;> simp
@[simp] theorem pushLoad_damaged (s : State) (l : Nat) (d : Fin 64) (v : Word) (t : Tag) (p : Fin 8 × BitVec 11) : (s.pushLoad l d v t p).damaged = s.damaged := by unfold State.pushLoad; split <;> simp
@[simp] theorem pushLoad_views (s : State) (l : Nat) (d : Fin 64) (v : Word) (t : Tag) (p : Fin 8 × BitVec 11) : (s.pushLoad l d v t p).views = s.views := by unfold State.pushLoad; split <;> simp
@[simp] theorem pushLoad_l2 (s : State) (l : Nat) (d : Fin 64) (v : Word) (t : Tag) (p : Fin 8 × BitVec 11) : (s.pushLoad l d v t p).l2 = s.l2 := by unfold State.pushLoad; split <;> simp
@[simp] theorem pushLoad_ctlb (s : State) (l : Nat) (d : Fin 64) (v : Word) (t : Tag) (p : Fin 8 × BitVec 11) : (s.pushLoad l d v t p).ctlb = s.ctlb := by unfold State.pushLoad; split <;> simp
@[simp] theorem pushLoad_phases (s : State) (l : Nat) (d : Fin 64) (v : Word) (t : Tag) (p : Fin 8 × BitVec 11) : (s.pushLoad l d v t p).phases = s.phases := by unfold State.pushLoad; split <;> simp
@[simp] theorem pushLoad_counters (s : State) (l : Nat) (d : Fin 64) (v : Word) (t : Tag) (p : Fin 8 × BitVec 11) : (s.pushLoad l d v t p).counters = s.counters := by unfold State.pushLoad; split <;> simp
@[simp] theorem pushLoad_frq (s : State) (l : Nat) (d : Fin 64) (v : Word) (t : Tag) (p : Fin 8 × BitVec 11) : (s.pushLoad l d v t p).frq = s.frq := by unfold State.pushLoad; split <;> simp
@[simp] theorem pushLoad_frTail (s : State) (l : Nat) (d : Fin 64) (v : Word) (t : Tag) (p : Fin 8 × BitVec 11) : (s.pushLoad l d v t p).frTail = s.frTail := by unfold State.pushLoad; split <;> simp
@[simp] theorem pushLoad_frHead (s : State) (l : Nat) (d : Fin 64) (v : Word) (t : Tag) (p : Fin 8 × BitVec 11) : (s.pushLoad l d v t p).frHead = s.frHead := by unfold State.pushLoad; split <;> simp
@[simp] theorem pushLoad_waiting (s : State) (l : Nat) (d : Fin 64) (v : Word) (t : Tag) (p : Fin 8 × BitVec 11) : (s.pushLoad l d v t p).waiting = s.waiting := by unfold State.pushLoad; split <;> simp
@[simp] theorem pushLoad_insts (s : State) (l : Nat) (d : Fin 64) (v : Word) (t : Tag) (p : Fin 8 × BitVec 11) : (s.pushLoad l d v t p).insts = s.insts := by unfold State.pushLoad; split <;> simp
@[simp] theorem pushLoad_saved (s : State) (l : Nat) (d : Fin 64) (v : Word) (t : Tag) (p : Fin 8 × BitVec 11) : (s.pushLoad l d v t p).saved = s.saved := by unfold State.pushLoad; split <;> simp
@[simp] theorem pushLoad_meridian (s : State) (l : Nat) (d : Fin 64) (v : Word) (t : Tag) (p : Fin 8 × BitVec 11) : (s.pushLoad l d v t p).meridian = s.meridian := by unfold State.pushLoad; split <;> simp
@[simp] theorem pushLoad_stbud (s : State) (l : Nat) (d : Fin 64) (v : Word) (t : Tag) (p : Fin 8 × BitVec 11) : (s.pushLoad l d v t p).stbud = s.stbud := by unfold State.pushLoad; split <;> simp
@[simp] theorem pushLoad_stpf (s : State) (l : Nat) (d : Fin 64) (v : Word) (t : Tag) (p : Fin 8 × BitVec 11) : (s.pushLoad l d v t p).stpf = s.stpf := by unfold State.pushLoad; split <;> simp
@[simp] theorem pushLoad_stash (s : State) (l : Nat) (d : Fin 64) (v : Word) (t : Tag) (p : Fin 8 × BitVec 11) : (s.pushLoad l d v t p).stash = s.stash := by unfold State.pushLoad; split <;> simp
@[simp] theorem pushLoad_prefetch (s : State) (l : Nat) (d : Fin 64) (v : Word) (t : Tag) (p : Fin 8 × BitVec 11) : (s.pushLoad l d v t p).prefetch = s.prefetch := by unfold State.pushLoad; split <;> simp
@[simp] theorem pushLoad_vrb (s : State) (l : Nat) (d : Fin 64) (v : Word) (t : Tag) (p : Fin 8 × BitVec 11) : (s.pushLoad l d v t p).vrb = s.vrb := by unfold State.pushLoad; split <;> simp
@[simp] theorem pushLoad_vpool (s : State) (l : Nat) (d : Fin 64) (v : Word) (t : Tag) (p : Fin 8 × BitVec 11) : (s.pushLoad l d v t p).vpool = s.vpool := by unfold State.pushLoad; split <;> simp
@[simp] theorem pushLoad_priv (s : State) (l : Nat) (d : Fin 64) (v : Word) (t : Tag) (p : Fin 8 × BitVec 11) : (s.pushLoad l d v t p).priv = s.priv := by unfold State.pushLoad; split <;> simp
@[simp] theorem pushLoad_finished (s : State) (l : Nat) (d : Fin 64) (v : Word) (t : Tag) (p : Fin 8 × BitVec 11) : (s.pushLoad l d v t p).finished = s.finished := by unfold State.pushLoad; split <;> simp
@[simp] theorem pushLoad_ctlWrites (s : State) (l : Nat) (d : Fin 64) (v : Word) (t : Tag) (p : Fin 8 × BitVec 11) : (s.pushLoad l d v t p).ctlWrites = s.ctlWrites := by unfold State.pushLoad; split <;> simp
@[simp] theorem pushLoad_flush (s : State) (l : Nat) (d : Fin 64) (v : Word) (t : Tag) (p : Fin 8 × BitVec 11) : (s.pushLoad l d v t p).flush = s.flush := by unfold State.pushLoad; split <;> simp
@[simp] theorem pushLoad_fabric (s : State) (l : Nat) (d : Fin 64) (v : Word) (t : Tag) (p : Fin 8 × BitVec 11) : (s.pushLoad l d v t p).fabric = s.fabric := by unfold State.pushLoad; split <;> simp
@[simp] theorem pushLoad_mgmt (s : State) (l : Nat) (d : Fin 64) (v : Word) (t : Tag) (p : Fin 8 × BitVec 11) : (s.pushLoad l d v t p).mgmt = s.mgmt := by unfold State.pushLoad; split <;> simp
@[simp] theorem pushLoad_nextId (s : State) (l : Nat) (d : Fin 64) (v : Word) (t : Tag) (p : Fin 8 × BitVec 11) : (s.pushLoad l d v t p).nextId = s.nextId := by unfold State.pushLoad; split <;> simp
@[simp] theorem pushLoad_cur (s : State) (l : Nat) (d : Fin 64) (v : Word) (t : Tag) (p : Fin 8 × BitVec 11) : (s.pushLoad l d v t p).cur = s.cur := by unfold State.pushLoad; split <;> simp
@[simp] theorem pushLoad_agenda (s : State) (l : Nat) (d : Fin 64) (v : Word) (t : Tag) (p : Fin 8 × BitVec 11) : (s.pushLoad l d v t p).agenda = s.agenda := by unfold State.pushLoad; split <;> simp
@[simp] theorem pushLoad_turns (s : State) (l : Nat) (d : Fin 64) (v : Word) (t : Tag) (p : Fin 8 × BitVec 11) : (s.pushLoad l d v t p).turns = s.turns := by unfold State.pushLoad; split <;> simp
@[simp] theorem pushLoad_free (s : State) (l : Nat) (d : Fin 64) (v : Word) (t : Tag) (p : Fin 8 × BitVec 11) : (s.pushLoad l d v t p).free = s.free := by unfold State.pushLoad; split <;> simp
@[simp] theorem pushLoad_raised (s : State) (l : Nat) (d : Fin 64) (v : Word) (t : Tag) (p : Fin 8 × BitVec 11) : (s.pushLoad l d v t p).raised = s.raised := by unfold State.pushLoad; split <;> simp
@[simp] theorem pushM_absent (s : State) (l : Nat) (d : Fin 16) (x : MReg) (b : Quad) : (s.pushM l d x b).absent = s.absent := by unfold State.pushM; split <;> simp
@[simp] theorem pushM_leftOut (s : State) (l : Nat) (d : Fin 16) (x : MReg) (b : Quad) : (s.pushM l d x b).leftOut = s.leftOut := by unfold State.pushM; split <;> simp
@[simp] theorem pushM_remap (s : State) (l : Nat) (d : Fin 16) (x : MReg) (b : Quad) : (s.pushM l d x b).remap = s.remap := by unfold State.pushM; split <;> simp
@[simp] theorem pushM_mem (s : State) (l : Nat) (d : Fin 16) (x : MReg) (b : Quad) : (s.pushM l d x b).mem = s.mem := by unfold State.pushM; split <;> simp
@[simp] theorem pushM_lost (s : State) (l : Nat) (d : Fin 16) (x : MReg) (b : Quad) : (s.pushM l d x b).lost = s.lost := by unfold State.pushM; split <;> simp
@[simp] theorem pushM_damaged (s : State) (l : Nat) (d : Fin 16) (x : MReg) (b : Quad) : (s.pushM l d x b).damaged = s.damaged := by unfold State.pushM; split <;> simp
@[simp] theorem pushM_views (s : State) (l : Nat) (d : Fin 16) (x : MReg) (b : Quad) : (s.pushM l d x b).views = s.views := by unfold State.pushM; split <;> simp
@[simp] theorem pushM_l2 (s : State) (l : Nat) (d : Fin 16) (x : MReg) (b : Quad) : (s.pushM l d x b).l2 = s.l2 := by unfold State.pushM; split <;> simp
@[simp] theorem pushM_ctlb (s : State) (l : Nat) (d : Fin 16) (x : MReg) (b : Quad) : (s.pushM l d x b).ctlb = s.ctlb := by unfold State.pushM; split <;> simp
@[simp] theorem pushM_phases (s : State) (l : Nat) (d : Fin 16) (x : MReg) (b : Quad) : (s.pushM l d x b).phases = s.phases := by unfold State.pushM; split <;> simp
@[simp] theorem pushM_counters (s : State) (l : Nat) (d : Fin 16) (x : MReg) (b : Quad) : (s.pushM l d x b).counters = s.counters := by unfold State.pushM; split <;> simp
@[simp] theorem pushM_frq (s : State) (l : Nat) (d : Fin 16) (x : MReg) (b : Quad) : (s.pushM l d x b).frq = s.frq := by unfold State.pushM; split <;> simp
@[simp] theorem pushM_frTail (s : State) (l : Nat) (d : Fin 16) (x : MReg) (b : Quad) : (s.pushM l d x b).frTail = s.frTail := by unfold State.pushM; split <;> simp
@[simp] theorem pushM_frHead (s : State) (l : Nat) (d : Fin 16) (x : MReg) (b : Quad) : (s.pushM l d x b).frHead = s.frHead := by unfold State.pushM; split <;> simp
@[simp] theorem pushM_waiting (s : State) (l : Nat) (d : Fin 16) (x : MReg) (b : Quad) : (s.pushM l d x b).waiting = s.waiting := by unfold State.pushM; split <;> simp
@[simp] theorem pushM_insts (s : State) (l : Nat) (d : Fin 16) (x : MReg) (b : Quad) : (s.pushM l d x b).insts = s.insts := by unfold State.pushM; split <;> simp
@[simp] theorem pushM_saved (s : State) (l : Nat) (d : Fin 16) (x : MReg) (b : Quad) : (s.pushM l d x b).saved = s.saved := by unfold State.pushM; split <;> simp
@[simp] theorem pushM_meridian (s : State) (l : Nat) (d : Fin 16) (x : MReg) (b : Quad) : (s.pushM l d x b).meridian = s.meridian := by unfold State.pushM; split <;> simp
@[simp] theorem pushM_stbud (s : State) (l : Nat) (d : Fin 16) (x : MReg) (b : Quad) : (s.pushM l d x b).stbud = s.stbud := by unfold State.pushM; split <;> simp
@[simp] theorem pushM_stpf (s : State) (l : Nat) (d : Fin 16) (x : MReg) (b : Quad) : (s.pushM l d x b).stpf = s.stpf := by unfold State.pushM; split <;> simp
@[simp] theorem pushM_stash (s : State) (l : Nat) (d : Fin 16) (x : MReg) (b : Quad) : (s.pushM l d x b).stash = s.stash := by unfold State.pushM; split <;> simp
@[simp] theorem pushM_prefetch (s : State) (l : Nat) (d : Fin 16) (x : MReg) (b : Quad) : (s.pushM l d x b).prefetch = s.prefetch := by unfold State.pushM; split <;> simp
@[simp] theorem pushM_vrb (s : State) (l : Nat) (d : Fin 16) (x : MReg) (b : Quad) : (s.pushM l d x b).vrb = s.vrb := by unfold State.pushM; split <;> simp
@[simp] theorem pushM_vpool (s : State) (l : Nat) (d : Fin 16) (x : MReg) (b : Quad) : (s.pushM l d x b).vpool = s.vpool := by unfold State.pushM; split <;> simp
@[simp] theorem pushM_priv (s : State) (l : Nat) (d : Fin 16) (x : MReg) (b : Quad) : (s.pushM l d x b).priv = s.priv := by unfold State.pushM; split <;> simp
@[simp] theorem pushM_finished (s : State) (l : Nat) (d : Fin 16) (x : MReg) (b : Quad) : (s.pushM l d x b).finished = s.finished := by unfold State.pushM; split <;> simp
@[simp] theorem pushM_ctlWrites (s : State) (l : Nat) (d : Fin 16) (x : MReg) (b : Quad) : (s.pushM l d x b).ctlWrites = s.ctlWrites := by unfold State.pushM; split <;> simp
@[simp] theorem pushM_flush (s : State) (l : Nat) (d : Fin 16) (x : MReg) (b : Quad) : (s.pushM l d x b).flush = s.flush := by unfold State.pushM; split <;> simp
@[simp] theorem pushM_fabric (s : State) (l : Nat) (d : Fin 16) (x : MReg) (b : Quad) : (s.pushM l d x b).fabric = s.fabric := by unfold State.pushM; split <;> simp
@[simp] theorem pushM_mgmt (s : State) (l : Nat) (d : Fin 16) (x : MReg) (b : Quad) : (s.pushM l d x b).mgmt = s.mgmt := by unfold State.pushM; split <;> simp
@[simp] theorem pushM_nextId (s : State) (l : Nat) (d : Fin 16) (x : MReg) (b : Quad) : (s.pushM l d x b).nextId = s.nextId := by unfold State.pushM; split <;> simp
@[simp] theorem pushM_cur (s : State) (l : Nat) (d : Fin 16) (x : MReg) (b : Quad) : (s.pushM l d x b).cur = s.cur := by unfold State.pushM; split <;> simp
@[simp] theorem pushM_agenda (s : State) (l : Nat) (d : Fin 16) (x : MReg) (b : Quad) : (s.pushM l d x b).agenda = s.agenda := by unfold State.pushM; split <;> simp
@[simp] theorem pushM_turns (s : State) (l : Nat) (d : Fin 16) (x : MReg) (b : Quad) : (s.pushM l d x b).turns = s.turns := by unfold State.pushM; split <;> simp
@[simp] theorem pushM_free (s : State) (l : Nat) (d : Fin 16) (x : MReg) (b : Quad) : (s.pushM l d x b).free = s.free := by unfold State.pushM; split <;> simp
@[simp] theorem pushM_raised (s : State) (l : Nat) (d : Fin 16) (x : MReg) (b : Quad) : (s.pushM l d x b).raised = s.raised := by unfold State.pushM; split <;> simp

/-! ## A result that enters a delay line changes that line alone -/

@[simp] theorem enter_ctx_status (s : State) (e : InFlight) (x : CtxId) : ((s.enter e).ctx x).status = (s.ctx x).status := by
  unfold State.enter
  split
  · simp only [State.modBank, State.modKr, ctx_modCore]; split <;> simp_all [State.ctx]
  · simp only [State.modCx, ctx_modCtx]; split <;> simp_all
@[simp] theorem enter_ctx_serial (s : State) (e : InFlight) (x : CtxId) : ((s.enter e).ctx x).serial = (s.ctx x).serial := by
  unfold State.enter
  split
  · simp only [State.modBank, State.modKr, ctx_modCore]; split <;> simp_all [State.ctx]
  · simp only [State.modCx, ctx_modCtx]; split <;> simp_all
@[simp] theorem enter_ctx_sup (s : State) (e : InFlight) (x : CtxId) : ((s.enter e).ctx x).sup = (s.ctx x).sup := by
  unfold State.enter
  split
  · simp only [State.modBank, State.modKr, ctx_modCore]; split <;> simp_all [State.ctx]
  · simp only [State.modCx, ctx_modCtx]; split <;> simp_all
@[simp] theorem enter_ctx_pc (s : State) (e : InFlight) (x : CtxId) : ((s.enter e).ctx x).pc = (s.ctx x).pc := by
  unfold State.enter
  split
  · simp only [State.modBank, State.modKr, ctx_modCore]; split <;> simp_all [State.ctx]
  · simp only [State.modCx, ctx_modCtx]; split <;> simp_all
@[simp] theorem enter_ctx_high (s : State) (e : InFlight) (x : CtxId) : ((s.enter e).ctx x).high = (s.ctx x).high := by
  unfold State.enter
  split
  · simp only [State.modBank, State.modKr, ctx_modCore]; split <;> simp_all [State.ctx]
  · simp only [State.modCx, ctx_modCtx]; split <;> simp_all
@[simp] theorem enter_ctx_checked (s : State) (e : InFlight) (x : CtxId) : ((s.enter e).ctx x).checked = (s.ctx x).checked := by
  unfold State.enter
  split
  · simp only [State.modBank, State.modKr, ctx_modCore]; split <;> simp_all [State.ctx]
  · simp only [State.modCx, ctx_modCtx]; split <;> simp_all
@[simp] theorem enter_ctx_cameFrom (s : State) (e : InFlight) (x : CtxId) : ((s.enter e).ctx x).cameFrom = (s.ctx x).cameFrom := by
  unfold State.enter
  split
  · simp only [State.modBank, State.modKr, ctx_modCore]; split <;> simp_all [State.ctx]
  · simp only [State.modCx, ctx_modCtx]; split <;> simp_all
@[simp] theorem enter_ctx_regs (s : State) (e : InFlight) (x : CtxId) : ((s.enter e).ctx x).regs = (s.ctx x).regs := by
  unfold State.enter
  split
  · simp only [State.modBank, State.modKr, ctx_modCore]; split <;> simp_all [State.ctx]
  · simp only [State.modCx, ctx_modCtx]; split <;> simp_all
@[simp] theorem enter_ctx_transfer (s : State) (e : InFlight) (x : CtxId) : ((s.enter e).ctx x).transfer = (s.ctx x).transfer := by
  unfold State.enter
  split
  · simp only [State.modBank, State.modKr, ctx_modCore]; split <;> simp_all [State.ctx]
  · simp only [State.modCx, ctx_modCtx]; split <;> simp_all
@[simp] theorem enter_ctx_flags (s : State) (e : InFlight) (x : CtxId) : ((s.enter e).ctx x).flags = (s.ctx x).flags := by
  unfold State.enter
  split
  · simp only [State.modBank, State.modKr, ctx_modCore]; split <;> simp_all [State.ctx]
  · simp only [State.modCx, ctx_modCtx]; split <;> simp_all
@[simp] theorem enter_ctx_wn (s : State) (e : InFlight) (x : CtxId) : ((s.enter e).ctx x).wn = (s.ctx x).wn := by
  unfold State.enter
  split
  · simp only [State.modBank, State.modKr, ctx_modCore]; split <;> simp_all [State.ctx]
  · simp only [State.modCx, ctx_modCtx]; split <;> simp_all
@[simp] theorem enter_ctx_wt (s : State) (e : InFlight) (x : CtxId) : ((s.enter e).ctx x).wt = (s.ctx x).wt := by
  unfold State.enter
  split
  · simp only [State.modBank, State.modKr, ctx_modCore]; split <;> simp_all [State.ctx]
  · simp only [State.modCx, ctx_modCtx]; split <;> simp_all
@[simp] theorem enter_ctx_keep (s : State) (e : InFlight) (x : CtxId) : ((s.enter e).ctx x).keep = (s.ctx x).keep := by
  unfold State.enter
  split
  · simp only [State.modBank, State.modKr, ctx_modCore]; split <;> simp_all [State.ctx]
  · simp only [State.modCx, ctx_modCtx]; split <;> simp_all
@[simp] theorem enter_ctx_wrote (s : State) (e : InFlight) (x : CtxId) : ((s.enter e).ctx x).wrote = (s.ctx x).wrote := by
  unfold State.enter
  split
  · simp only [State.modBank, State.modKr, ctx_modCore]; split <;> simp_all [State.ctx]
  · simp only [State.modCx, ctx_modCtx]; split <;> simp_all
@[simp] theorem enter_ctx_winWrites (s : State) (e : InFlight) (x : CtxId) : ((s.enter e).ctx x).winWrites = (s.ctx x).winWrites := by
  unfold State.enter
  split
  · simp only [State.modBank, State.modKr, ctx_modCore]; split <;> simp_all [State.ctx]
  · simp only [State.modCx, ctx_modCtx]; split <;> simp_all
@[simp] theorem enter_ctx_releasing (s : State) (e : InFlight) (x : CtxId) : ((s.enter e).ctx x).releasing = (s.ctx x).releasing := by
  unfold State.enter
  split
  · simp only [State.modBank, State.modKr, ctx_modCore]; split <;> simp_all [State.ctx]
  · simp only [State.modCx, ctx_modCtx]; split <;> simp_all
@[simp] theorem enter_ctx_walk (s : State) (e : InFlight) (x : CtxId) : ((s.enter e).ctx x).walk = (s.ctx x).walk := by
  unfold State.enter
  split
  · simp only [State.modBank, State.modKr, ctx_modCore]; split <;> simp_all [State.ctx]
  · simp only [State.modCx, ctx_modCtx]; split <;> simp_all
@[simp] theorem enter_ctx_refusal (s : State) (e : InFlight) (x : CtxId) : ((s.enter e).ctx x).refusal = (s.ctx x).refusal := by
  unfold State.enter
  split
  · simp only [State.modBank, State.modKr, ctx_modCore]; split <;> simp_all [State.ctx]
  · simp only [State.modCx, ctx_modCtx]; split <;> simp_all
@[simp] theorem enter_ctx_atCkpt (s : State) (e : InFlight) (x : CtxId) : ((s.enter e).ctx x).atCkpt = (s.ctx x).atCkpt := by
  unfold State.enter
  split
  · simp only [State.modBank, State.modKr, ctx_modCore]; split <;> simp_all [State.ctx]
  · simp only [State.modCx, ctx_modCtx]; split <;> simp_all
@[simp] theorem enter_ctx_pause (s : State) (e : InFlight) (x : CtxId) : ((s.enter e).ctx x).pause = (s.ctx x).pause := by
  unfold State.enter
  split
  · simp only [State.modBank, State.modKr, ctx_modCore]; split <;> simp_all [State.ctx]
  · simp only [State.modCx, ctx_modCtx]; split <;> simp_all
@[simp] theorem enter_ctx_cycles (s : State) (e : InFlight) (x : CtxId) : ((s.enter e).ctx x).cycles = (s.ctx x).cycles := by
  unfold State.enter
  split
  · simp only [State.modBank, State.modKr, ctx_modCore]; split <;> simp_all [State.ctx]
  · simp only [State.modCx, ctx_modCtx]; split <;> simp_all
@[simp] theorem enter_ctx_pos (s : State) (e : InFlight) (x : CtxId) : ((s.enter e).ctx x).pos = (s.ctx x).pos := by
  unfold State.enter
  split
  · simp only [State.modBank, State.modKr, ctx_modCore]; split <;> simp_all [State.ctx]
  · simp only [State.modCx, ctx_modCtx]; split <;> simp_all
@[simp] theorem enter_ctx_slice (s : State) (e : InFlight) (x : CtxId) : ((s.enter e).ctx x).slice = (s.ctx x).slice := by
  unfold State.enter
  split
  · simp only [State.modBank, State.modKr, ctx_modCore]; split <;> simp_all [State.ctx]
  · simp only [State.modCx, ctx_modCtx]; split <;> simp_all
@[simp] theorem enter_ctx_withheld (s : State) (e : InFlight) (x : CtxId) : ((s.enter e).ctx x).withheld = (s.ctx x).withheld := by
  unfold State.enter
  split
  · simp only [State.modBank, State.modKr, ctx_modCore]; split <;> simp_all [State.ctx]
  · simp only [State.modCx, ctx_modCtx]; split <;> simp_all
@[simp] theorem enter_ctx_commands (s : State) (e : InFlight) (x : CtxId) : ((s.enter e).ctx x).commands = (s.ctx x).commands := by
  unfold State.enter
  split
  · simp only [State.modBank, State.modKr, ctx_modCore]; split <;> simp_all [State.ctx]
  · simp only [State.modCx, ctx_modCtx]; split <;> simp_all
@[simp] theorem enter_ctx_released (s : State) (e : InFlight) (x : CtxId) : ((s.enter e).ctx x).released = (s.ctx x).released := by
  unfold State.enter
  split
  · simp only [State.modBank, State.modKr, ctx_modCore]; split <;> simp_all [State.ctx]
  · simp only [State.modCx, ctx_modCtx]; split <;> simp_all
@[simp] theorem enter_ctx_ordered (s : State) (e : InFlight) (x : CtxId) : ((s.enter e).ctx x).ordered = (s.ctx x).ordered := by
  unfold State.enter
  split
  · simp only [State.modBank, State.modKr, ctx_modCore]; split <;> simp_all [State.ctx]
  · simp only [State.modCx, ctx_modCtx]; split <;> simp_all
@[simp] theorem enter_ctx_overdue (s : State) (e : InFlight) (x : CtxId) : ((s.enter e).ctx x).overdue = (s.ctx x).overdue := by
  unfold State.enter
  split
  · simp only [State.modBank, State.modKr, ctx_modCore]; split <;> simp_all [State.ctx]
  · simp only [State.modCx, ctx_modCtx]; split <;> simp_all
@[simp] theorem enter_ctx_mqueue (s : State) (e : InFlight) (x : CtxId) : ((s.enter e).ctx x).mqueue = (s.ctx x).mqueue := by
  unfold State.enter
  split
  · simp only [State.modBank, State.modKr, ctx_modCore]; split <;> simp_all [State.ctx]
  · simp only [State.modCx, ctx_modCtx]; split <;> simp_all
@[simp] theorem enter_ctx_mmode (s : State) (e : InFlight) (x : CtxId) : ((s.enter e).ctx x).mmode = (s.ctx x).mmode := by
  unfold State.enter
  split
  · simp only [State.modBank, State.modKr, ctx_modCore]; split <;> simp_all [State.ctx]
  · simp only [State.modCx, ctx_modCtx]; split <;> simp_all
@[simp] theorem enter_ctx_mflags (s : State) (e : InFlight) (x : CtxId) : ((s.enter e).ctx x).mflags = (s.ctx x).mflags := by
  unfold State.enter
  split
  · simp only [State.modBank, State.modKr, ctx_modCore]; split <;> simp_all [State.ctx]
  · simp only [State.modCx, ctx_modCtx]; split <;> simp_all
@[simp] theorem enter_ctx_mpasses (s : State) (e : InFlight) (x : CtxId) : ((s.enter e).ctx x).mpasses = (s.ctx x).mpasses := by
  unfold State.enter
  split
  · simp only [State.modBank, State.modKr, ctx_modCore]; split <;> simp_all [State.ctx]
  · simp only [State.modCx, ctx_modCtx]; split <;> simp_all
@[simp] theorem enter_ctx_pend (s : State) (e : InFlight) (x : CtxId) : ((s.enter e).ctx x).pend = (s.ctx x).pend := by
  unfold State.enter
  split
  · simp only [State.modBank, State.modKr, ctx_modCore]; split <;> simp_all [State.ctx]
  · simp only [State.modCx, ctx_modCtx]; split <;> simp_all
@[simp] theorem enter_ctx_served (s : State) (e : InFlight) (x : CtxId) : ((s.enter e).ctx x).served = (s.ctx x).served := by
  unfold State.enter
  split
  · simp only [State.modBank, State.modKr, ctx_modCore]; split <;> simp_all [State.ctx]
  · simp only [State.modCx, ctx_modCtx]; split <;> simp_all
@[simp] theorem enter_ctx_cursor (s : State) (e : InFlight) (x : CtxId) : ((s.enter e).ctx x).cursor = (s.ctx x).cursor := by
  unfold State.enter
  split
  · simp only [State.modBank, State.modKr, ctx_modCore]; split <;> simp_all [State.ctx]
  · simp only [State.modCx, ctx_modCtx]; split <;> simp_all
@[simp] theorem enter_ctx_carveWord (s : State) (e : InFlight) (x : CtxId) : ((s.enter e).ctx x).carveWord = (s.ctx x).carveWord := by
  unfold State.enter
  split
  · simp only [State.modBank, State.modKr, ctx_modCore]; split <;> simp_all [State.ctx]
  · simp only [State.modCx, ctx_modCtx]; split <;> simp_all
@[simp] theorem enter_ctx_carveOld (s : State) (e : InFlight) (x : CtxId) : ((s.enter e).ctx x).carveOld = (s.ctx x).carveOld := by
  unfold State.enter
  split
  · simp only [State.modBank, State.modKr, ctx_modCore]; split <;> simp_all [State.ctx]
  · simp only [State.modCx, ctx_modCtx]; split <;> simp_all
@[simp] theorem enter_ctx_lateHeld (s : State) (e : InFlight) (x : CtxId) : ((s.enter e).ctx x).lateHeld = (s.ctx x).lateHeld := by
  unfold State.enter
  split
  · simp only [State.modBank, State.modKr, ctx_modCore]; split <;> simp_all [State.ctx]
  · simp only [State.modCx, ctx_modCtx]; split <;> simp_all
@[simp] theorem enter_ctx_evict (s : State) (e : InFlight) (x : CtxId) : ((s.enter e).ctx x).evict = (s.ctx x).evict := by
  unfold State.enter
  split
  · simp only [State.modBank, State.modKr, ctx_modCore]; split <;> simp_all [State.ctx]
  · simp only [State.modCx, ctx_modCtx]; split <;> simp_all
@[simp] theorem enter_ctx_deferTo (s : State) (e : InFlight) (x : CtxId) : ((s.enter e).ctx x).deferTo = (s.ctx x).deferTo := by
  unfold State.enter
  split
  · simp only [State.modBank, State.modKr, ctx_modCore]; split <;> simp_all [State.ctx]
  · simp only [State.modCx, ctx_modCtx]; split <;> simp_all
@[simp] theorem enter_ctx_task (s : State) (e : InFlight) (x : CtxId) : ((s.enter e).ctx x).task = (s.ctx x).task := by
  unfold State.enter
  split
  · simp only [State.modBank, State.modKr, ctx_modCore]; split <;> simp_all [State.ctx]
  · simp only [State.modCx, ctx_modCtx]; split <;> simp_all
@[simp] theorem enter_ctx_reg (s : State) (e : InFlight) (x : CtxId) : ((s.enter e).ctx x).reg = (s.ctx x).reg := by
  unfold State.enter
  split
  · simp only [State.modBank, State.modKr, ctx_modCore]; split <;> simp_all [State.ctx]
  · simp only [State.modCx, ctx_modCtx]; split <;> simp_all
@[simp] theorem enter_ctx_trace (s : State) (e : InFlight) (x : CtxId) : ((s.enter e).ctx x).trace = (s.ctx x).trace := by
  unfold State.enter
  split
  · simp only [State.modBank, State.modKr, ctx_modCore]; split <;> simp_all [State.ctx]
  · simp only [State.modCx, ctx_modCtx]; split <;> simp_all
@[simp] theorem enter_ctx_resume (s : State) (e : InFlight) (x : CtxId) : ((s.enter e).ctx x).resume = (s.ctx x).resume := by
  unfold State.enter
  split
  · simp only [State.modBank, State.modKr, ctx_modCore]; split <;> simp_all [State.ctx]
  · simp only [State.modCx, ctx_modCtx]; split <;> simp_all
@[simp] theorem enter_ctx_reloadErr (s : State) (e : InFlight) (x : CtxId) : ((s.enter e).ctx x).reloadErr = (s.ctx x).reloadErr := by
  unfold State.enter
  split
  · simp only [State.modBank, State.modKr, ctx_modCore]; split <;> simp_all [State.ctx]
  · simp only [State.modCx, ctx_modCtx]; split <;> simp_all
@[simp] theorem enter_ctx_rephase (s : State) (e : InFlight) (x : CtxId) : ((s.enter e).ctx x).rephase = (s.ctx x).rephase := by
  unfold State.enter
  split
  · simp only [State.modBank, State.modKr, ctx_modCore]; split <;> simp_all [State.ctx]
  · simp only [State.modCx, ctx_modCtx]; split <;> simp_all
@[simp] theorem push_ctx_status (s : State) (l : Nat) (y : Landing) (x : CtxId) : ((s.push l y).ctx x).status = (s.ctx x).status := by simp [State.push]
@[simp] theorem push_ctx_serial (s : State) (l : Nat) (y : Landing) (x : CtxId) : ((s.push l y).ctx x).serial = (s.ctx x).serial := by simp [State.push]
@[simp] theorem push_ctx_sup (s : State) (l : Nat) (y : Landing) (x : CtxId) : ((s.push l y).ctx x).sup = (s.ctx x).sup := by simp [State.push]
@[simp] theorem push_ctx_pc (s : State) (l : Nat) (y : Landing) (x : CtxId) : ((s.push l y).ctx x).pc = (s.ctx x).pc := by simp [State.push]
@[simp] theorem push_ctx_high (s : State) (l : Nat) (y : Landing) (x : CtxId) : ((s.push l y).ctx x).high = (s.ctx x).high := by simp [State.push]
@[simp] theorem push_ctx_checked (s : State) (l : Nat) (y : Landing) (x : CtxId) : ((s.push l y).ctx x).checked = (s.ctx x).checked := by simp [State.push]
@[simp] theorem push_ctx_cameFrom (s : State) (l : Nat) (y : Landing) (x : CtxId) : ((s.push l y).ctx x).cameFrom = (s.ctx x).cameFrom := by simp [State.push]
@[simp] theorem push_ctx_regs (s : State) (l : Nat) (y : Landing) (x : CtxId) : ((s.push l y).ctx x).regs = (s.ctx x).regs := by simp [State.push]
@[simp] theorem push_ctx_transfer (s : State) (l : Nat) (y : Landing) (x : CtxId) : ((s.push l y).ctx x).transfer = (s.ctx x).transfer := by simp [State.push]
@[simp] theorem push_ctx_flags (s : State) (l : Nat) (y : Landing) (x : CtxId) : ((s.push l y).ctx x).flags = (s.ctx x).flags := by simp [State.push]
@[simp] theorem push_ctx_wn (s : State) (l : Nat) (y : Landing) (x : CtxId) : ((s.push l y).ctx x).wn = (s.ctx x).wn := by simp [State.push]
@[simp] theorem push_ctx_wt (s : State) (l : Nat) (y : Landing) (x : CtxId) : ((s.push l y).ctx x).wt = (s.ctx x).wt := by simp [State.push]
@[simp] theorem push_ctx_keep (s : State) (l : Nat) (y : Landing) (x : CtxId) : ((s.push l y).ctx x).keep = (s.ctx x).keep := by simp [State.push]
@[simp] theorem push_ctx_wrote (s : State) (l : Nat) (y : Landing) (x : CtxId) : ((s.push l y).ctx x).wrote = (s.ctx x).wrote := by simp [State.push]
@[simp] theorem push_ctx_winWrites (s : State) (l : Nat) (y : Landing) (x : CtxId) : ((s.push l y).ctx x).winWrites = (s.ctx x).winWrites := by simp [State.push]
@[simp] theorem push_ctx_releasing (s : State) (l : Nat) (y : Landing) (x : CtxId) : ((s.push l y).ctx x).releasing = (s.ctx x).releasing := by simp [State.push]
@[simp] theorem push_ctx_walk (s : State) (l : Nat) (y : Landing) (x : CtxId) : ((s.push l y).ctx x).walk = (s.ctx x).walk := by simp [State.push]
@[simp] theorem push_ctx_refusal (s : State) (l : Nat) (y : Landing) (x : CtxId) : ((s.push l y).ctx x).refusal = (s.ctx x).refusal := by simp [State.push]
@[simp] theorem push_ctx_atCkpt (s : State) (l : Nat) (y : Landing) (x : CtxId) : ((s.push l y).ctx x).atCkpt = (s.ctx x).atCkpt := by simp [State.push]
@[simp] theorem push_ctx_pause (s : State) (l : Nat) (y : Landing) (x : CtxId) : ((s.push l y).ctx x).pause = (s.ctx x).pause := by simp [State.push]
@[simp] theorem push_ctx_cycles (s : State) (l : Nat) (y : Landing) (x : CtxId) : ((s.push l y).ctx x).cycles = (s.ctx x).cycles := by simp [State.push]
@[simp] theorem push_ctx_pos (s : State) (l : Nat) (y : Landing) (x : CtxId) : ((s.push l y).ctx x).pos = (s.ctx x).pos := by simp [State.push]
@[simp] theorem push_ctx_slice (s : State) (l : Nat) (y : Landing) (x : CtxId) : ((s.push l y).ctx x).slice = (s.ctx x).slice := by simp [State.push]
@[simp] theorem push_ctx_withheld (s : State) (l : Nat) (y : Landing) (x : CtxId) : ((s.push l y).ctx x).withheld = (s.ctx x).withheld := by simp [State.push]
@[simp] theorem push_ctx_commands (s : State) (l : Nat) (y : Landing) (x : CtxId) : ((s.push l y).ctx x).commands = (s.ctx x).commands := by simp [State.push]
@[simp] theorem push_ctx_released (s : State) (l : Nat) (y : Landing) (x : CtxId) : ((s.push l y).ctx x).released = (s.ctx x).released := by simp [State.push]
@[simp] theorem push_ctx_ordered (s : State) (l : Nat) (y : Landing) (x : CtxId) : ((s.push l y).ctx x).ordered = (s.ctx x).ordered := by simp [State.push]
@[simp] theorem push_ctx_overdue (s : State) (l : Nat) (y : Landing) (x : CtxId) : ((s.push l y).ctx x).overdue = (s.ctx x).overdue := by simp [State.push]
@[simp] theorem push_ctx_mqueue (s : State) (l : Nat) (y : Landing) (x : CtxId) : ((s.push l y).ctx x).mqueue = (s.ctx x).mqueue := by simp [State.push]
@[simp] theorem push_ctx_mmode (s : State) (l : Nat) (y : Landing) (x : CtxId) : ((s.push l y).ctx x).mmode = (s.ctx x).mmode := by simp [State.push]
@[simp] theorem push_ctx_mflags (s : State) (l : Nat) (y : Landing) (x : CtxId) : ((s.push l y).ctx x).mflags = (s.ctx x).mflags := by simp [State.push]
@[simp] theorem push_ctx_mpasses (s : State) (l : Nat) (y : Landing) (x : CtxId) : ((s.push l y).ctx x).mpasses = (s.ctx x).mpasses := by simp [State.push]
@[simp] theorem push_ctx_pend (s : State) (l : Nat) (y : Landing) (x : CtxId) : ((s.push l y).ctx x).pend = (s.ctx x).pend := by simp [State.push]
@[simp] theorem push_ctx_served (s : State) (l : Nat) (y : Landing) (x : CtxId) : ((s.push l y).ctx x).served = (s.ctx x).served := by simp [State.push]
@[simp] theorem push_ctx_cursor (s : State) (l : Nat) (y : Landing) (x : CtxId) : ((s.push l y).ctx x).cursor = (s.ctx x).cursor := by simp [State.push]
@[simp] theorem push_ctx_carveWord (s : State) (l : Nat) (y : Landing) (x : CtxId) : ((s.push l y).ctx x).carveWord = (s.ctx x).carveWord := by simp [State.push]
@[simp] theorem push_ctx_carveOld (s : State) (l : Nat) (y : Landing) (x : CtxId) : ((s.push l y).ctx x).carveOld = (s.ctx x).carveOld := by simp [State.push]
@[simp] theorem push_ctx_lateHeld (s : State) (l : Nat) (y : Landing) (x : CtxId) : ((s.push l y).ctx x).lateHeld = (s.ctx x).lateHeld := by simp [State.push]
@[simp] theorem push_ctx_evict (s : State) (l : Nat) (y : Landing) (x : CtxId) : ((s.push l y).ctx x).evict = (s.ctx x).evict := by simp [State.push]
@[simp] theorem push_ctx_deferTo (s : State) (l : Nat) (y : Landing) (x : CtxId) : ((s.push l y).ctx x).deferTo = (s.ctx x).deferTo := by simp [State.push]
@[simp] theorem push_ctx_task (s : State) (l : Nat) (y : Landing) (x : CtxId) : ((s.push l y).ctx x).task = (s.ctx x).task := by simp [State.push]
@[simp] theorem push_ctx_reg (s : State) (l : Nat) (y : Landing) (x : CtxId) : ((s.push l y).ctx x).reg = (s.ctx x).reg := by simp [State.push]
@[simp] theorem push_ctx_trace (s : State) (l : Nat) (y : Landing) (x : CtxId) : ((s.push l y).ctx x).trace = (s.ctx x).trace := by simp [State.push]
@[simp] theorem push_ctx_resume (s : State) (l : Nat) (y : Landing) (x : CtxId) : ((s.push l y).ctx x).resume = (s.ctx x).resume := by simp [State.push]
@[simp] theorem push_ctx_reloadErr (s : State) (l : Nat) (y : Landing) (x : CtxId) : ((s.push l y).ctx x).reloadErr = (s.ctx x).reloadErr := by simp [State.push]
@[simp] theorem push_ctx_rephase (s : State) (l : Nat) (y : Landing) (x : CtxId) : ((s.push l y).ctx x).rephase = (s.ctx x).rephase := by simp [State.push]
@[simp] theorem pushS_ctx_status (s : State) (l : Nat) (d : Fin 64) (v : Word) (t : Tag) (x : CtxId) : ((s.pushS l d v t).ctx x).status = (s.ctx x).status := by unfold State.pushS; split <;> simp
@[simp] theorem pushS_ctx_serial (s : State) (l : Nat) (d : Fin 64) (v : Word) (t : Tag) (x : CtxId) : ((s.pushS l d v t).ctx x).serial = (s.ctx x).serial := by unfold State.pushS; split <;> simp
@[simp] theorem pushS_ctx_sup (s : State) (l : Nat) (d : Fin 64) (v : Word) (t : Tag) (x : CtxId) : ((s.pushS l d v t).ctx x).sup = (s.ctx x).sup := by unfold State.pushS; split <;> simp
@[simp] theorem pushS_ctx_pc (s : State) (l : Nat) (d : Fin 64) (v : Word) (t : Tag) (x : CtxId) : ((s.pushS l d v t).ctx x).pc = (s.ctx x).pc := by unfold State.pushS; split <;> simp
@[simp] theorem pushS_ctx_high (s : State) (l : Nat) (d : Fin 64) (v : Word) (t : Tag) (x : CtxId) : ((s.pushS l d v t).ctx x).high = (s.ctx x).high := by unfold State.pushS; split <;> simp
@[simp] theorem pushS_ctx_checked (s : State) (l : Nat) (d : Fin 64) (v : Word) (t : Tag) (x : CtxId) : ((s.pushS l d v t).ctx x).checked = (s.ctx x).checked := by unfold State.pushS; split <;> simp
@[simp] theorem pushS_ctx_cameFrom (s : State) (l : Nat) (d : Fin 64) (v : Word) (t : Tag) (x : CtxId) : ((s.pushS l d v t).ctx x).cameFrom = (s.ctx x).cameFrom := by unfold State.pushS; split <;> simp
@[simp] theorem pushS_ctx_regs (s : State) (l : Nat) (d : Fin 64) (v : Word) (t : Tag) (x : CtxId) : ((s.pushS l d v t).ctx x).regs = (s.ctx x).regs := by unfold State.pushS; split <;> simp
@[simp] theorem pushS_ctx_transfer (s : State) (l : Nat) (d : Fin 64) (v : Word) (t : Tag) (x : CtxId) : ((s.pushS l d v t).ctx x).transfer = (s.ctx x).transfer := by unfold State.pushS; split <;> simp
@[simp] theorem pushS_ctx_flags (s : State) (l : Nat) (d : Fin 64) (v : Word) (t : Tag) (x : CtxId) : ((s.pushS l d v t).ctx x).flags = (s.ctx x).flags := by unfold State.pushS; split <;> simp
@[simp] theorem pushS_ctx_wn (s : State) (l : Nat) (d : Fin 64) (v : Word) (t : Tag) (x : CtxId) : ((s.pushS l d v t).ctx x).wn = (s.ctx x).wn := by unfold State.pushS; split <;> simp
@[simp] theorem pushS_ctx_wt (s : State) (l : Nat) (d : Fin 64) (v : Word) (t : Tag) (x : CtxId) : ((s.pushS l d v t).ctx x).wt = (s.ctx x).wt := by unfold State.pushS; split <;> simp
@[simp] theorem pushS_ctx_keep (s : State) (l : Nat) (d : Fin 64) (v : Word) (t : Tag) (x : CtxId) : ((s.pushS l d v t).ctx x).keep = (s.ctx x).keep := by unfold State.pushS; split <;> simp
@[simp] theorem pushS_ctx_wrote (s : State) (l : Nat) (d : Fin 64) (v : Word) (t : Tag) (x : CtxId) : ((s.pushS l d v t).ctx x).wrote = (s.ctx x).wrote := by unfold State.pushS; split <;> simp
@[simp] theorem pushS_ctx_winWrites (s : State) (l : Nat) (d : Fin 64) (v : Word) (t : Tag) (x : CtxId) : ((s.pushS l d v t).ctx x).winWrites = (s.ctx x).winWrites := by unfold State.pushS; split <;> simp
@[simp] theorem pushS_ctx_releasing (s : State) (l : Nat) (d : Fin 64) (v : Word) (t : Tag) (x : CtxId) : ((s.pushS l d v t).ctx x).releasing = (s.ctx x).releasing := by unfold State.pushS; split <;> simp
@[simp] theorem pushS_ctx_walk (s : State) (l : Nat) (d : Fin 64) (v : Word) (t : Tag) (x : CtxId) : ((s.pushS l d v t).ctx x).walk = (s.ctx x).walk := by unfold State.pushS; split <;> simp
@[simp] theorem pushS_ctx_refusal (s : State) (l : Nat) (d : Fin 64) (v : Word) (t : Tag) (x : CtxId) : ((s.pushS l d v t).ctx x).refusal = (s.ctx x).refusal := by unfold State.pushS; split <;> simp
@[simp] theorem pushS_ctx_atCkpt (s : State) (l : Nat) (d : Fin 64) (v : Word) (t : Tag) (x : CtxId) : ((s.pushS l d v t).ctx x).atCkpt = (s.ctx x).atCkpt := by unfold State.pushS; split <;> simp
@[simp] theorem pushS_ctx_pause (s : State) (l : Nat) (d : Fin 64) (v : Word) (t : Tag) (x : CtxId) : ((s.pushS l d v t).ctx x).pause = (s.ctx x).pause := by unfold State.pushS; split <;> simp
@[simp] theorem pushS_ctx_cycles (s : State) (l : Nat) (d : Fin 64) (v : Word) (t : Tag) (x : CtxId) : ((s.pushS l d v t).ctx x).cycles = (s.ctx x).cycles := by unfold State.pushS; split <;> simp
@[simp] theorem pushS_ctx_pos (s : State) (l : Nat) (d : Fin 64) (v : Word) (t : Tag) (x : CtxId) : ((s.pushS l d v t).ctx x).pos = (s.ctx x).pos := by unfold State.pushS; split <;> simp
@[simp] theorem pushS_ctx_slice (s : State) (l : Nat) (d : Fin 64) (v : Word) (t : Tag) (x : CtxId) : ((s.pushS l d v t).ctx x).slice = (s.ctx x).slice := by unfold State.pushS; split <;> simp
@[simp] theorem pushS_ctx_withheld (s : State) (l : Nat) (d : Fin 64) (v : Word) (t : Tag) (x : CtxId) : ((s.pushS l d v t).ctx x).withheld = (s.ctx x).withheld := by unfold State.pushS; split <;> simp
@[simp] theorem pushS_ctx_commands (s : State) (l : Nat) (d : Fin 64) (v : Word) (t : Tag) (x : CtxId) : ((s.pushS l d v t).ctx x).commands = (s.ctx x).commands := by unfold State.pushS; split <;> simp
@[simp] theorem pushS_ctx_released (s : State) (l : Nat) (d : Fin 64) (v : Word) (t : Tag) (x : CtxId) : ((s.pushS l d v t).ctx x).released = (s.ctx x).released := by unfold State.pushS; split <;> simp
@[simp] theorem pushS_ctx_ordered (s : State) (l : Nat) (d : Fin 64) (v : Word) (t : Tag) (x : CtxId) : ((s.pushS l d v t).ctx x).ordered = (s.ctx x).ordered := by unfold State.pushS; split <;> simp
@[simp] theorem pushS_ctx_overdue (s : State) (l : Nat) (d : Fin 64) (v : Word) (t : Tag) (x : CtxId) : ((s.pushS l d v t).ctx x).overdue = (s.ctx x).overdue := by unfold State.pushS; split <;> simp
@[simp] theorem pushS_ctx_mqueue (s : State) (l : Nat) (d : Fin 64) (v : Word) (t : Tag) (x : CtxId) : ((s.pushS l d v t).ctx x).mqueue = (s.ctx x).mqueue := by unfold State.pushS; split <;> simp
@[simp] theorem pushS_ctx_mmode (s : State) (l : Nat) (d : Fin 64) (v : Word) (t : Tag) (x : CtxId) : ((s.pushS l d v t).ctx x).mmode = (s.ctx x).mmode := by unfold State.pushS; split <;> simp
@[simp] theorem pushS_ctx_mflags (s : State) (l : Nat) (d : Fin 64) (v : Word) (t : Tag) (x : CtxId) : ((s.pushS l d v t).ctx x).mflags = (s.ctx x).mflags := by unfold State.pushS; split <;> simp
@[simp] theorem pushS_ctx_mpasses (s : State) (l : Nat) (d : Fin 64) (v : Word) (t : Tag) (x : CtxId) : ((s.pushS l d v t).ctx x).mpasses = (s.ctx x).mpasses := by unfold State.pushS; split <;> simp
@[simp] theorem pushS_ctx_pend (s : State) (l : Nat) (d : Fin 64) (v : Word) (t : Tag) (x : CtxId) : ((s.pushS l d v t).ctx x).pend = (s.ctx x).pend := by unfold State.pushS; split <;> simp
@[simp] theorem pushS_ctx_served (s : State) (l : Nat) (d : Fin 64) (v : Word) (t : Tag) (x : CtxId) : ((s.pushS l d v t).ctx x).served = (s.ctx x).served := by unfold State.pushS; split <;> simp
@[simp] theorem pushS_ctx_cursor (s : State) (l : Nat) (d : Fin 64) (v : Word) (t : Tag) (x : CtxId) : ((s.pushS l d v t).ctx x).cursor = (s.ctx x).cursor := by unfold State.pushS; split <;> simp
@[simp] theorem pushS_ctx_carveWord (s : State) (l : Nat) (d : Fin 64) (v : Word) (t : Tag) (x : CtxId) : ((s.pushS l d v t).ctx x).carveWord = (s.ctx x).carveWord := by unfold State.pushS; split <;> simp
@[simp] theorem pushS_ctx_carveOld (s : State) (l : Nat) (d : Fin 64) (v : Word) (t : Tag) (x : CtxId) : ((s.pushS l d v t).ctx x).carveOld = (s.ctx x).carveOld := by unfold State.pushS; split <;> simp
@[simp] theorem pushS_ctx_lateHeld (s : State) (l : Nat) (d : Fin 64) (v : Word) (t : Tag) (x : CtxId) : ((s.pushS l d v t).ctx x).lateHeld = (s.ctx x).lateHeld := by unfold State.pushS; split <;> simp
@[simp] theorem pushS_ctx_evict (s : State) (l : Nat) (d : Fin 64) (v : Word) (t : Tag) (x : CtxId) : ((s.pushS l d v t).ctx x).evict = (s.ctx x).evict := by unfold State.pushS; split <;> simp
@[simp] theorem pushS_ctx_deferTo (s : State) (l : Nat) (d : Fin 64) (v : Word) (t : Tag) (x : CtxId) : ((s.pushS l d v t).ctx x).deferTo = (s.ctx x).deferTo := by unfold State.pushS; split <;> simp
@[simp] theorem pushS_ctx_task (s : State) (l : Nat) (d : Fin 64) (v : Word) (t : Tag) (x : CtxId) : ((s.pushS l d v t).ctx x).task = (s.ctx x).task := by unfold State.pushS; split <;> simp
@[simp] theorem pushS_ctx_reg (s : State) (l : Nat) (d : Fin 64) (v : Word) (t : Tag) (x : CtxId) : ((s.pushS l d v t).ctx x).reg = (s.ctx x).reg := by unfold State.pushS; split <;> simp
@[simp] theorem pushS_ctx_trace (s : State) (l : Nat) (d : Fin 64) (v : Word) (t : Tag) (x : CtxId) : ((s.pushS l d v t).ctx x).trace = (s.ctx x).trace := by unfold State.pushS; split <;> simp
@[simp] theorem pushS_ctx_resume (s : State) (l : Nat) (d : Fin 64) (v : Word) (t : Tag) (x : CtxId) : ((s.pushS l d v t).ctx x).resume = (s.ctx x).resume := by unfold State.pushS; split <;> simp
@[simp] theorem pushS_ctx_reloadErr (s : State) (l : Nat) (d : Fin 64) (v : Word) (t : Tag) (x : CtxId) : ((s.pushS l d v t).ctx x).reloadErr = (s.ctx x).reloadErr := by unfold State.pushS; split <;> simp
@[simp] theorem pushS_ctx_rephase (s : State) (l : Nat) (d : Fin 64) (v : Word) (t : Tag) (x : CtxId) : ((s.pushS l d v t).ctx x).rephase = (s.ctx x).rephase := by unfold State.pushS; split <;> simp
@[simp] theorem pushLoad_ctx_status (s : State) (l : Nat) (d : Fin 64) (v : Word) (t : Tag) (p : Fin 8 × BitVec 11) (x : CtxId) : ((s.pushLoad l d v t p).ctx x).status = (s.ctx x).status := by unfold State.pushLoad; split <;> simp
@[simp] theorem pushLoad_ctx_serial (s : State) (l : Nat) (d : Fin 64) (v : Word) (t : Tag) (p : Fin 8 × BitVec 11) (x : CtxId) : ((s.pushLoad l d v t p).ctx x).serial = (s.ctx x).serial := by unfold State.pushLoad; split <;> simp
@[simp] theorem pushLoad_ctx_sup (s : State) (l : Nat) (d : Fin 64) (v : Word) (t : Tag) (p : Fin 8 × BitVec 11) (x : CtxId) : ((s.pushLoad l d v t p).ctx x).sup = (s.ctx x).sup := by unfold State.pushLoad; split <;> simp
@[simp] theorem pushLoad_ctx_pc (s : State) (l : Nat) (d : Fin 64) (v : Word) (t : Tag) (p : Fin 8 × BitVec 11) (x : CtxId) : ((s.pushLoad l d v t p).ctx x).pc = (s.ctx x).pc := by unfold State.pushLoad; split <;> simp
@[simp] theorem pushLoad_ctx_high (s : State) (l : Nat) (d : Fin 64) (v : Word) (t : Tag) (p : Fin 8 × BitVec 11) (x : CtxId) : ((s.pushLoad l d v t p).ctx x).high = (s.ctx x).high := by unfold State.pushLoad; split <;> simp
@[simp] theorem pushLoad_ctx_checked (s : State) (l : Nat) (d : Fin 64) (v : Word) (t : Tag) (p : Fin 8 × BitVec 11) (x : CtxId) : ((s.pushLoad l d v t p).ctx x).checked = (s.ctx x).checked := by unfold State.pushLoad; split <;> simp
@[simp] theorem pushLoad_ctx_cameFrom (s : State) (l : Nat) (d : Fin 64) (v : Word) (t : Tag) (p : Fin 8 × BitVec 11) (x : CtxId) : ((s.pushLoad l d v t p).ctx x).cameFrom = (s.ctx x).cameFrom := by unfold State.pushLoad; split <;> simp
@[simp] theorem pushLoad_ctx_regs (s : State) (l : Nat) (d : Fin 64) (v : Word) (t : Tag) (p : Fin 8 × BitVec 11) (x : CtxId) : ((s.pushLoad l d v t p).ctx x).regs = (s.ctx x).regs := by unfold State.pushLoad; split <;> simp
@[simp] theorem pushLoad_ctx_transfer (s : State) (l : Nat) (d : Fin 64) (v : Word) (t : Tag) (p : Fin 8 × BitVec 11) (x : CtxId) : ((s.pushLoad l d v t p).ctx x).transfer = (s.ctx x).transfer := by unfold State.pushLoad; split <;> simp
@[simp] theorem pushLoad_ctx_flags (s : State) (l : Nat) (d : Fin 64) (v : Word) (t : Tag) (p : Fin 8 × BitVec 11) (x : CtxId) : ((s.pushLoad l d v t p).ctx x).flags = (s.ctx x).flags := by unfold State.pushLoad; split <;> simp
@[simp] theorem pushLoad_ctx_wn (s : State) (l : Nat) (d : Fin 64) (v : Word) (t : Tag) (p : Fin 8 × BitVec 11) (x : CtxId) : ((s.pushLoad l d v t p).ctx x).wn = (s.ctx x).wn := by unfold State.pushLoad; split <;> simp
@[simp] theorem pushLoad_ctx_wt (s : State) (l : Nat) (d : Fin 64) (v : Word) (t : Tag) (p : Fin 8 × BitVec 11) (x : CtxId) : ((s.pushLoad l d v t p).ctx x).wt = (s.ctx x).wt := by unfold State.pushLoad; split <;> simp
@[simp] theorem pushLoad_ctx_keep (s : State) (l : Nat) (d : Fin 64) (v : Word) (t : Tag) (p : Fin 8 × BitVec 11) (x : CtxId) : ((s.pushLoad l d v t p).ctx x).keep = (s.ctx x).keep := by unfold State.pushLoad; split <;> simp
@[simp] theorem pushLoad_ctx_wrote (s : State) (l : Nat) (d : Fin 64) (v : Word) (t : Tag) (p : Fin 8 × BitVec 11) (x : CtxId) : ((s.pushLoad l d v t p).ctx x).wrote = (s.ctx x).wrote := by unfold State.pushLoad; split <;> simp
@[simp] theorem pushLoad_ctx_winWrites (s : State) (l : Nat) (d : Fin 64) (v : Word) (t : Tag) (p : Fin 8 × BitVec 11) (x : CtxId) : ((s.pushLoad l d v t p).ctx x).winWrites = (s.ctx x).winWrites := by unfold State.pushLoad; split <;> simp
@[simp] theorem pushLoad_ctx_releasing (s : State) (l : Nat) (d : Fin 64) (v : Word) (t : Tag) (p : Fin 8 × BitVec 11) (x : CtxId) : ((s.pushLoad l d v t p).ctx x).releasing = (s.ctx x).releasing := by unfold State.pushLoad; split <;> simp
@[simp] theorem pushLoad_ctx_walk (s : State) (l : Nat) (d : Fin 64) (v : Word) (t : Tag) (p : Fin 8 × BitVec 11) (x : CtxId) : ((s.pushLoad l d v t p).ctx x).walk = (s.ctx x).walk := by unfold State.pushLoad; split <;> simp
@[simp] theorem pushLoad_ctx_refusal (s : State) (l : Nat) (d : Fin 64) (v : Word) (t : Tag) (p : Fin 8 × BitVec 11) (x : CtxId) : ((s.pushLoad l d v t p).ctx x).refusal = (s.ctx x).refusal := by unfold State.pushLoad; split <;> simp
@[simp] theorem pushLoad_ctx_atCkpt (s : State) (l : Nat) (d : Fin 64) (v : Word) (t : Tag) (p : Fin 8 × BitVec 11) (x : CtxId) : ((s.pushLoad l d v t p).ctx x).atCkpt = (s.ctx x).atCkpt := by unfold State.pushLoad; split <;> simp
@[simp] theorem pushLoad_ctx_pause (s : State) (l : Nat) (d : Fin 64) (v : Word) (t : Tag) (p : Fin 8 × BitVec 11) (x : CtxId) : ((s.pushLoad l d v t p).ctx x).pause = (s.ctx x).pause := by unfold State.pushLoad; split <;> simp
@[simp] theorem pushLoad_ctx_cycles (s : State) (l : Nat) (d : Fin 64) (v : Word) (t : Tag) (p : Fin 8 × BitVec 11) (x : CtxId) : ((s.pushLoad l d v t p).ctx x).cycles = (s.ctx x).cycles := by unfold State.pushLoad; split <;> simp
@[simp] theorem pushLoad_ctx_pos (s : State) (l : Nat) (d : Fin 64) (v : Word) (t : Tag) (p : Fin 8 × BitVec 11) (x : CtxId) : ((s.pushLoad l d v t p).ctx x).pos = (s.ctx x).pos := by unfold State.pushLoad; split <;> simp
@[simp] theorem pushLoad_ctx_slice (s : State) (l : Nat) (d : Fin 64) (v : Word) (t : Tag) (p : Fin 8 × BitVec 11) (x : CtxId) : ((s.pushLoad l d v t p).ctx x).slice = (s.ctx x).slice := by unfold State.pushLoad; split <;> simp
@[simp] theorem pushLoad_ctx_withheld (s : State) (l : Nat) (d : Fin 64) (v : Word) (t : Tag) (p : Fin 8 × BitVec 11) (x : CtxId) : ((s.pushLoad l d v t p).ctx x).withheld = (s.ctx x).withheld := by unfold State.pushLoad; split <;> simp
@[simp] theorem pushLoad_ctx_commands (s : State) (l : Nat) (d : Fin 64) (v : Word) (t : Tag) (p : Fin 8 × BitVec 11) (x : CtxId) : ((s.pushLoad l d v t p).ctx x).commands = (s.ctx x).commands := by unfold State.pushLoad; split <;> simp
@[simp] theorem pushLoad_ctx_released (s : State) (l : Nat) (d : Fin 64) (v : Word) (t : Tag) (p : Fin 8 × BitVec 11) (x : CtxId) : ((s.pushLoad l d v t p).ctx x).released = (s.ctx x).released := by unfold State.pushLoad; split <;> simp
@[simp] theorem pushLoad_ctx_ordered (s : State) (l : Nat) (d : Fin 64) (v : Word) (t : Tag) (p : Fin 8 × BitVec 11) (x : CtxId) : ((s.pushLoad l d v t p).ctx x).ordered = (s.ctx x).ordered := by unfold State.pushLoad; split <;> simp
@[simp] theorem pushLoad_ctx_overdue (s : State) (l : Nat) (d : Fin 64) (v : Word) (t : Tag) (p : Fin 8 × BitVec 11) (x : CtxId) : ((s.pushLoad l d v t p).ctx x).overdue = (s.ctx x).overdue := by unfold State.pushLoad; split <;> simp
@[simp] theorem pushLoad_ctx_mqueue (s : State) (l : Nat) (d : Fin 64) (v : Word) (t : Tag) (p : Fin 8 × BitVec 11) (x : CtxId) : ((s.pushLoad l d v t p).ctx x).mqueue = (s.ctx x).mqueue := by unfold State.pushLoad; split <;> simp
@[simp] theorem pushLoad_ctx_mmode (s : State) (l : Nat) (d : Fin 64) (v : Word) (t : Tag) (p : Fin 8 × BitVec 11) (x : CtxId) : ((s.pushLoad l d v t p).ctx x).mmode = (s.ctx x).mmode := by unfold State.pushLoad; split <;> simp
@[simp] theorem pushLoad_ctx_mflags (s : State) (l : Nat) (d : Fin 64) (v : Word) (t : Tag) (p : Fin 8 × BitVec 11) (x : CtxId) : ((s.pushLoad l d v t p).ctx x).mflags = (s.ctx x).mflags := by unfold State.pushLoad; split <;> simp
@[simp] theorem pushLoad_ctx_mpasses (s : State) (l : Nat) (d : Fin 64) (v : Word) (t : Tag) (p : Fin 8 × BitVec 11) (x : CtxId) : ((s.pushLoad l d v t p).ctx x).mpasses = (s.ctx x).mpasses := by unfold State.pushLoad; split <;> simp
@[simp] theorem pushLoad_ctx_pend (s : State) (l : Nat) (d : Fin 64) (v : Word) (t : Tag) (p : Fin 8 × BitVec 11) (x : CtxId) : ((s.pushLoad l d v t p).ctx x).pend = (s.ctx x).pend := by unfold State.pushLoad; split <;> simp
@[simp] theorem pushLoad_ctx_served (s : State) (l : Nat) (d : Fin 64) (v : Word) (t : Tag) (p : Fin 8 × BitVec 11) (x : CtxId) : ((s.pushLoad l d v t p).ctx x).served = (s.ctx x).served := by unfold State.pushLoad; split <;> simp
@[simp] theorem pushLoad_ctx_cursor (s : State) (l : Nat) (d : Fin 64) (v : Word) (t : Tag) (p : Fin 8 × BitVec 11) (x : CtxId) : ((s.pushLoad l d v t p).ctx x).cursor = (s.ctx x).cursor := by unfold State.pushLoad; split <;> simp
@[simp] theorem pushLoad_ctx_carveWord (s : State) (l : Nat) (d : Fin 64) (v : Word) (t : Tag) (p : Fin 8 × BitVec 11) (x : CtxId) : ((s.pushLoad l d v t p).ctx x).carveWord = (s.ctx x).carveWord := by unfold State.pushLoad; split <;> simp
@[simp] theorem pushLoad_ctx_carveOld (s : State) (l : Nat) (d : Fin 64) (v : Word) (t : Tag) (p : Fin 8 × BitVec 11) (x : CtxId) : ((s.pushLoad l d v t p).ctx x).carveOld = (s.ctx x).carveOld := by unfold State.pushLoad; split <;> simp
@[simp] theorem pushLoad_ctx_lateHeld (s : State) (l : Nat) (d : Fin 64) (v : Word) (t : Tag) (p : Fin 8 × BitVec 11) (x : CtxId) : ((s.pushLoad l d v t p).ctx x).lateHeld = (s.ctx x).lateHeld := by unfold State.pushLoad; split <;> simp
@[simp] theorem pushLoad_ctx_evict (s : State) (l : Nat) (d : Fin 64) (v : Word) (t : Tag) (p : Fin 8 × BitVec 11) (x : CtxId) : ((s.pushLoad l d v t p).ctx x).evict = (s.ctx x).evict := by unfold State.pushLoad; split <;> simp
@[simp] theorem pushLoad_ctx_deferTo (s : State) (l : Nat) (d : Fin 64) (v : Word) (t : Tag) (p : Fin 8 × BitVec 11) (x : CtxId) : ((s.pushLoad l d v t p).ctx x).deferTo = (s.ctx x).deferTo := by unfold State.pushLoad; split <;> simp
@[simp] theorem pushLoad_ctx_task (s : State) (l : Nat) (d : Fin 64) (v : Word) (t : Tag) (p : Fin 8 × BitVec 11) (x : CtxId) : ((s.pushLoad l d v t p).ctx x).task = (s.ctx x).task := by unfold State.pushLoad; split <;> simp
@[simp] theorem pushLoad_ctx_reg (s : State) (l : Nat) (d : Fin 64) (v : Word) (t : Tag) (p : Fin 8 × BitVec 11) (x : CtxId) : ((s.pushLoad l d v t p).ctx x).reg = (s.ctx x).reg := by unfold State.pushLoad; split <;> simp
@[simp] theorem pushLoad_ctx_trace (s : State) (l : Nat) (d : Fin 64) (v : Word) (t : Tag) (p : Fin 8 × BitVec 11) (x : CtxId) : ((s.pushLoad l d v t p).ctx x).trace = (s.ctx x).trace := by unfold State.pushLoad; split <;> simp
@[simp] theorem pushLoad_ctx_resume (s : State) (l : Nat) (d : Fin 64) (v : Word) (t : Tag) (p : Fin 8 × BitVec 11) (x : CtxId) : ((s.pushLoad l d v t p).ctx x).resume = (s.ctx x).resume := by unfold State.pushLoad; split <;> simp
@[simp] theorem pushLoad_ctx_reloadErr (s : State) (l : Nat) (d : Fin 64) (v : Word) (t : Tag) (p : Fin 8 × BitVec 11) (x : CtxId) : ((s.pushLoad l d v t p).ctx x).reloadErr = (s.ctx x).reloadErr := by unfold State.pushLoad; split <;> simp
@[simp] theorem pushLoad_ctx_rephase (s : State) (l : Nat) (d : Fin 64) (v : Word) (t : Tag) (p : Fin 8 × BitVec 11) (x : CtxId) : ((s.pushLoad l d v t p).ctx x).rephase = (s.ctx x).rephase := by unfold State.pushLoad; split <;> simp
@[simp] theorem pushM_ctx_status (s : State) (l : Nat) (d : Fin 16) (m : MReg) (b : Quad) (x : CtxId) : ((s.pushM l d m b).ctx x).status = (s.ctx x).status := by unfold State.pushM; split <;> simp
@[simp] theorem pushM_ctx_serial (s : State) (l : Nat) (d : Fin 16) (m : MReg) (b : Quad) (x : CtxId) : ((s.pushM l d m b).ctx x).serial = (s.ctx x).serial := by unfold State.pushM; split <;> simp
@[simp] theorem pushM_ctx_sup (s : State) (l : Nat) (d : Fin 16) (m : MReg) (b : Quad) (x : CtxId) : ((s.pushM l d m b).ctx x).sup = (s.ctx x).sup := by unfold State.pushM; split <;> simp
@[simp] theorem pushM_ctx_pc (s : State) (l : Nat) (d : Fin 16) (m : MReg) (b : Quad) (x : CtxId) : ((s.pushM l d m b).ctx x).pc = (s.ctx x).pc := by unfold State.pushM; split <;> simp
@[simp] theorem pushM_ctx_high (s : State) (l : Nat) (d : Fin 16) (m : MReg) (b : Quad) (x : CtxId) : ((s.pushM l d m b).ctx x).high = (s.ctx x).high := by unfold State.pushM; split <;> simp
@[simp] theorem pushM_ctx_checked (s : State) (l : Nat) (d : Fin 16) (m : MReg) (b : Quad) (x : CtxId) : ((s.pushM l d m b).ctx x).checked = (s.ctx x).checked := by unfold State.pushM; split <;> simp
@[simp] theorem pushM_ctx_cameFrom (s : State) (l : Nat) (d : Fin 16) (m : MReg) (b : Quad) (x : CtxId) : ((s.pushM l d m b).ctx x).cameFrom = (s.ctx x).cameFrom := by unfold State.pushM; split <;> simp
@[simp] theorem pushM_ctx_regs (s : State) (l : Nat) (d : Fin 16) (m : MReg) (b : Quad) (x : CtxId) : ((s.pushM l d m b).ctx x).regs = (s.ctx x).regs := by unfold State.pushM; split <;> simp
@[simp] theorem pushM_ctx_transfer (s : State) (l : Nat) (d : Fin 16) (m : MReg) (b : Quad) (x : CtxId) : ((s.pushM l d m b).ctx x).transfer = (s.ctx x).transfer := by unfold State.pushM; split <;> simp
@[simp] theorem pushM_ctx_flags (s : State) (l : Nat) (d : Fin 16) (m : MReg) (b : Quad) (x : CtxId) : ((s.pushM l d m b).ctx x).flags = (s.ctx x).flags := by unfold State.pushM; split <;> simp
@[simp] theorem pushM_ctx_wn (s : State) (l : Nat) (d : Fin 16) (m : MReg) (b : Quad) (x : CtxId) : ((s.pushM l d m b).ctx x).wn = (s.ctx x).wn := by unfold State.pushM; split <;> simp
@[simp] theorem pushM_ctx_wt (s : State) (l : Nat) (d : Fin 16) (m : MReg) (b : Quad) (x : CtxId) : ((s.pushM l d m b).ctx x).wt = (s.ctx x).wt := by unfold State.pushM; split <;> simp
@[simp] theorem pushM_ctx_keep (s : State) (l : Nat) (d : Fin 16) (m : MReg) (b : Quad) (x : CtxId) : ((s.pushM l d m b).ctx x).keep = (s.ctx x).keep := by unfold State.pushM; split <;> simp
@[simp] theorem pushM_ctx_wrote (s : State) (l : Nat) (d : Fin 16) (m : MReg) (b : Quad) (x : CtxId) : ((s.pushM l d m b).ctx x).wrote = (s.ctx x).wrote := by unfold State.pushM; split <;> simp
@[simp] theorem pushM_ctx_winWrites (s : State) (l : Nat) (d : Fin 16) (m : MReg) (b : Quad) (x : CtxId) : ((s.pushM l d m b).ctx x).winWrites = (s.ctx x).winWrites := by unfold State.pushM; split <;> simp
@[simp] theorem pushM_ctx_releasing (s : State) (l : Nat) (d : Fin 16) (m : MReg) (b : Quad) (x : CtxId) : ((s.pushM l d m b).ctx x).releasing = (s.ctx x).releasing := by unfold State.pushM; split <;> simp
@[simp] theorem pushM_ctx_walk (s : State) (l : Nat) (d : Fin 16) (m : MReg) (b : Quad) (x : CtxId) : ((s.pushM l d m b).ctx x).walk = (s.ctx x).walk := by unfold State.pushM; split <;> simp
@[simp] theorem pushM_ctx_refusal (s : State) (l : Nat) (d : Fin 16) (m : MReg) (b : Quad) (x : CtxId) : ((s.pushM l d m b).ctx x).refusal = (s.ctx x).refusal := by unfold State.pushM; split <;> simp
@[simp] theorem pushM_ctx_atCkpt (s : State) (l : Nat) (d : Fin 16) (m : MReg) (b : Quad) (x : CtxId) : ((s.pushM l d m b).ctx x).atCkpt = (s.ctx x).atCkpt := by unfold State.pushM; split <;> simp
@[simp] theorem pushM_ctx_pause (s : State) (l : Nat) (d : Fin 16) (m : MReg) (b : Quad) (x : CtxId) : ((s.pushM l d m b).ctx x).pause = (s.ctx x).pause := by unfold State.pushM; split <;> simp
@[simp] theorem pushM_ctx_cycles (s : State) (l : Nat) (d : Fin 16) (m : MReg) (b : Quad) (x : CtxId) : ((s.pushM l d m b).ctx x).cycles = (s.ctx x).cycles := by unfold State.pushM; split <;> simp
@[simp] theorem pushM_ctx_pos (s : State) (l : Nat) (d : Fin 16) (m : MReg) (b : Quad) (x : CtxId) : ((s.pushM l d m b).ctx x).pos = (s.ctx x).pos := by unfold State.pushM; split <;> simp
@[simp] theorem pushM_ctx_slice (s : State) (l : Nat) (d : Fin 16) (m : MReg) (b : Quad) (x : CtxId) : ((s.pushM l d m b).ctx x).slice = (s.ctx x).slice := by unfold State.pushM; split <;> simp
@[simp] theorem pushM_ctx_withheld (s : State) (l : Nat) (d : Fin 16) (m : MReg) (b : Quad) (x : CtxId) : ((s.pushM l d m b).ctx x).withheld = (s.ctx x).withheld := by unfold State.pushM; split <;> simp
@[simp] theorem pushM_ctx_commands (s : State) (l : Nat) (d : Fin 16) (m : MReg) (b : Quad) (x : CtxId) : ((s.pushM l d m b).ctx x).commands = (s.ctx x).commands := by unfold State.pushM; split <;> simp
@[simp] theorem pushM_ctx_released (s : State) (l : Nat) (d : Fin 16) (m : MReg) (b : Quad) (x : CtxId) : ((s.pushM l d m b).ctx x).released = (s.ctx x).released := by unfold State.pushM; split <;> simp
@[simp] theorem pushM_ctx_ordered (s : State) (l : Nat) (d : Fin 16) (m : MReg) (b : Quad) (x : CtxId) : ((s.pushM l d m b).ctx x).ordered = (s.ctx x).ordered := by unfold State.pushM; split <;> simp
@[simp] theorem pushM_ctx_overdue (s : State) (l : Nat) (d : Fin 16) (m : MReg) (b : Quad) (x : CtxId) : ((s.pushM l d m b).ctx x).overdue = (s.ctx x).overdue := by unfold State.pushM; split <;> simp
@[simp] theorem pushM_ctx_mqueue (s : State) (l : Nat) (d : Fin 16) (m : MReg) (b : Quad) (x : CtxId) : ((s.pushM l d m b).ctx x).mqueue = (s.ctx x).mqueue := by unfold State.pushM; split <;> simp
@[simp] theorem pushM_ctx_mmode (s : State) (l : Nat) (d : Fin 16) (m : MReg) (b : Quad) (x : CtxId) : ((s.pushM l d m b).ctx x).mmode = (s.ctx x).mmode := by unfold State.pushM; split <;> simp
@[simp] theorem pushM_ctx_mflags (s : State) (l : Nat) (d : Fin 16) (m : MReg) (b : Quad) (x : CtxId) : ((s.pushM l d m b).ctx x).mflags = (s.ctx x).mflags := by unfold State.pushM; split <;> simp
@[simp] theorem pushM_ctx_mpasses (s : State) (l : Nat) (d : Fin 16) (m : MReg) (b : Quad) (x : CtxId) : ((s.pushM l d m b).ctx x).mpasses = (s.ctx x).mpasses := by unfold State.pushM; split <;> simp
@[simp] theorem pushM_ctx_pend (s : State) (l : Nat) (d : Fin 16) (m : MReg) (b : Quad) (x : CtxId) : ((s.pushM l d m b).ctx x).pend = (s.ctx x).pend := by unfold State.pushM; split <;> simp
@[simp] theorem pushM_ctx_served (s : State) (l : Nat) (d : Fin 16) (m : MReg) (b : Quad) (x : CtxId) : ((s.pushM l d m b).ctx x).served = (s.ctx x).served := by unfold State.pushM; split <;> simp
@[simp] theorem pushM_ctx_cursor (s : State) (l : Nat) (d : Fin 16) (m : MReg) (b : Quad) (x : CtxId) : ((s.pushM l d m b).ctx x).cursor = (s.ctx x).cursor := by unfold State.pushM; split <;> simp
@[simp] theorem pushM_ctx_carveWord (s : State) (l : Nat) (d : Fin 16) (m : MReg) (b : Quad) (x : CtxId) : ((s.pushM l d m b).ctx x).carveWord = (s.ctx x).carveWord := by unfold State.pushM; split <;> simp
@[simp] theorem pushM_ctx_carveOld (s : State) (l : Nat) (d : Fin 16) (m : MReg) (b : Quad) (x : CtxId) : ((s.pushM l d m b).ctx x).carveOld = (s.ctx x).carveOld := by unfold State.pushM; split <;> simp
@[simp] theorem pushM_ctx_lateHeld (s : State) (l : Nat) (d : Fin 16) (m : MReg) (b : Quad) (x : CtxId) : ((s.pushM l d m b).ctx x).lateHeld = (s.ctx x).lateHeld := by unfold State.pushM; split <;> simp
@[simp] theorem pushM_ctx_evict (s : State) (l : Nat) (d : Fin 16) (m : MReg) (b : Quad) (x : CtxId) : ((s.pushM l d m b).ctx x).evict = (s.ctx x).evict := by unfold State.pushM; split <;> simp
@[simp] theorem pushM_ctx_deferTo (s : State) (l : Nat) (d : Fin 16) (m : MReg) (b : Quad) (x : CtxId) : ((s.pushM l d m b).ctx x).deferTo = (s.ctx x).deferTo := by unfold State.pushM; split <;> simp
@[simp] theorem pushM_ctx_task (s : State) (l : Nat) (d : Fin 16) (m : MReg) (b : Quad) (x : CtxId) : ((s.pushM l d m b).ctx x).task = (s.ctx x).task := by unfold State.pushM; split <;> simp
@[simp] theorem pushM_ctx_reg (s : State) (l : Nat) (d : Fin 16) (m : MReg) (b : Quad) (x : CtxId) : ((s.pushM l d m b).ctx x).reg = (s.ctx x).reg := by unfold State.pushM; split <;> simp
@[simp] theorem pushM_ctx_trace (s : State) (l : Nat) (d : Fin 16) (m : MReg) (b : Quad) (x : CtxId) : ((s.pushM l d m b).ctx x).trace = (s.ctx x).trace := by unfold State.pushM; split <;> simp
@[simp] theorem pushM_ctx_resume (s : State) (l : Nat) (d : Fin 16) (m : MReg) (b : Quad) (x : CtxId) : ((s.pushM l d m b).ctx x).resume = (s.ctx x).resume := by unfold State.pushM; split <;> simp
@[simp] theorem pushM_ctx_reloadErr (s : State) (l : Nat) (d : Fin 16) (m : MReg) (b : Quad) (x : CtxId) : ((s.pushM l d m b).ctx x).reloadErr = (s.ctx x).reloadErr := by unfold State.pushM; split <;> simp
@[simp] theorem pushM_ctx_rephase (s : State) (l : Nat) (d : Fin 16) (m : MReg) (b : Quad) (x : CtxId) : ((s.pushM l d m b).ctx x).rephase = (s.ctx x).rephase := by unfold State.pushM; split <;> simp

end Sys2Proof.Machine
end

