-- ==== Sys2Proof/Laws/Issue.lean ====
section
/-! SUPPORT. The frame of a slot instruction: a ready instruction has its own effect and no other. -/

namespace Sys2Proof.Laws

open Sys2Proof Machine

/-- Operands that are readable stop nothing. -/
theorem operandStop_readable (handler : Bool) (p : SlotPos) (rs : List Machine.Read)
    (h : ∀ r ∈ rs, r.late = none ∧ r.contain = false ∧ r.poisonuse = false ∧ r.recovery = none) :
    operandStop handler (rs.map (p, ·)) = none := by
  have a : (rs.map (p, ·)).findSome? (fun q : SlotPos × Machine.Read => q.2.late.map (q.1, ·)) = none := by
    rw [List.findSome?_eq_none_iff]
    intro q hq
    obtain ⟨r, hr, rfl⟩ := List.mem_map.mp hq
    simp [(h r hr).1]
  have b : (rs.map (p, ·)).find? (fun q : SlotPos × Machine.Read => q.2.contain) = none := by
    rw [List.find?_eq_none]
    intro q hq
    obtain ⟨r, hr, rfl⟩ := List.mem_map.mp hq
    simp [(h r hr).2.1]
  have c : (rs.map (p, ·)).find? (fun q : SlotPos × Machine.Read => q.2.poisonuse) = none := by
    rw [List.find?_eq_none]
    intro q hq
    obtain ⟨r, hr, rfl⟩ := List.mem_map.mp hq
    simp [(h r hr).2.2.1]
  have d : (rs.map (p, ·)).findSome? (fun q : SlotPos × Machine.Read => q.2.recovery.map fun t => (q.1, Stop.redirect t)) = none := by
    rw [List.findSome?_eq_none_iff]
    intro q hq
    obtain ⟨r, hr, rfl⟩ := List.mem_map.mp hq
    simp [(h r hr).2.2.2]
  unfold operandStop
  rw [a, b, c]
  exact d

theorem operandCheck_readable {i : Instr} {s : State} (h : Readable i s) : s.operandCheck i = .ok () := by
  unfold State.operandCheck
  rw [operandStop_readable _ _ _ h]

theorem overfull_fits {i : Instr} {s : State} (h : Fits i s) : s.cx.overfull [(s.cur.pos, i)] = false := by
  obtain ⟨h1, h2⟩ := h
  unfold Ctx.overfull
  have e (b : Bool) : ([(s.cur.pos, i)].filter fun _ => b).length = b.toNat := by cases b <;> rfl
  have e1 : ([(s.cur.pos, i)].filter fun p => withholds p.2).length = (withholds i).toNat := by
    cases hw : withholds i <;> simp [hw]
  have e2 : ([(s.cur.pos, i)].filter fun p => isCommand p.2).length = (isCommand i).toNat := by
    cases hw : isCommand i <;> simp [hw]
  rw [e1, e2]
  simp only [Bool.or_eq_false_iff, decide_eq_false_iff_not]
  omega

theorem admit_ready {i : Instr} {s : State} (f : Fits i s) (c : AtCheckpoint i s) :
    s.allow [(s.cur.pos, i)] = (s, true) := by
  unfold State.allow
  simp only [overfull_fits f, List.any_cons, List.any_nil, Bool.or_false, Bool.false_eq_true, if_false]
  cases h : commitsAsCheckpoint i with
  | false => simp
  | true => simp [c h]

theorem earlyCheck_pass {i : Instr} {s : State} (h : EarlyPass i s) : s.earlyCheck [(s.cur.pos, i)] = .ok () := by
  obtain ⟨h1, h2⟩ := h
  unfold State.earlyCheck
  split
  · rfl
  · next ops e => simp only [List.cons.injEq, Prod.mk.injEq] at e; obtain ⟨⟨-, rfl⟩, rfl⟩ := e; simp [h1 rfl, State.earlyCheck]
  · next d a ops e =>
      simp only [List.cons.injEq, Prod.mk.injEq] at e; obtain ⟨⟨-, rfl⟩, rfl⟩ := e; simp [h2 d a rfl, State.earlyCheck]
  · next x ops _ _ e => simp only [List.cons.injEq] at e; obtain ⟨rfl, rfl⟩ := e; rfl

/-- A ready instruction has its own effect. -/
theorem issue_ready {i : Instr} {s : State} (h : Ready i s) (act : State → Except Stop State) :
    issue i s act = finish s (act s) := by
  unfold issue
  rw [h.wf, operandCheck_readable h.readable, earlyCheck_pass h.early, admit_ready h.fits h.checkpoint]
  rfl

/-- A ready instruction whose effect goes through answers the state after it. -/
theorem issue_next {i : Instr} {s t : State} {act : State → Except Stop State} (h : Ready i s) (e : act s = .ok t) :
    issue i s act = .next t := by
  rw [issue_ready h, e]; rfl

/-- A ready instruction whose effect stops takes that stop. -/
theorem issue_stop {i : Instr} {s : State} {act : State → Except Stop State} {e : Stop} (h : Ready i s)
    (he : act s = .error e) : issue i s act = .next { s.takeStop e with raised := some e } := by
  rw [issue_ready h, he]; rfl

/-- Every slot instruction answers a next state. -/
theorem issue_goes (i : Instr) (s : State) (act : State → Except Stop State) : ∃ t, issue i s act = .next t := by
  have f (s : State) (r : Except Stop State) : ∃ t, finish s r = .next t := by cases r <;> exact ⟨_, rfl⟩
  unfold issue
  dsimp only
  repeat' split
  all_goals exact f _ _

theorem scalar2_ready {i : Instr} {s : State} (h : Ready i s) (l : Nat) (d a b : Fin 64) (f : Word → Word → Word) :
    scalar2 i l d a b f s = .next (s.pushS l d (f (s.readS a).val (s.readS b).val) (maxTag (s.readS a).tag (s.readS b).tag)) :=
  issue_next h rfl

theorem scalar1_ready {i : Instr} {s : State} (h : Ready i s) (d a : Fin 64) (f : Word → Word) :
    scalar1 i d a f s = .next (s.pushS 1 d (f (s.readS a).val) (s.readS a).tag) := issue_next h rfl

theorem scalar3_ready {i : Instr} {s : State} (h : Ready i s) (d a b c : Fin 64) (f : Word → Word → Word → Word) :
    scalar3 i d a b c f s = .next (s.pushS 1 d (f (s.readS a).val (s.readS b).val (s.readS c).val)
      (maxTag (maxTag (s.readS a).tag (s.readS b).tag) (s.readS c).tag)) := issue_next h rfl

end Sys2Proof.Laws
end

