-- ==== Sys2Proof/Laws/Memory.lean ====
section
/-! SUPPORT. Memory: what a byte reads after a write, and that every write keeps the canonical form. -/

namespace Sys2Proof.Machine

/-! ## Cells -/

/-- A bound below the cells may be lowered. -/
theorem cellsAbove_weaken {m : List Host.Cell} {a b : Nat} (h : cellsAbove (some b) m) (le : a ≤ b) :
    cellsAbove (some a) m := by
  cases m with
  | nil => rfl
  | cons p m =>
    simp only [cellsAbove, Bool.and_eq_true, decide_eq_true_eq] at h ⊢
    exact ⟨⟨by omega, h.1.2⟩, h.2⟩

theorem cellsAbove_none {m : List Host.Cell} {b : Nat} (h : cellsAbove (some b) m) : cellsAbove none m := by
  cases m with
  | nil => rfl
  | cons p m =>
    simp only [cellsAbove, Bool.and_eq_true, decide_eq_true_eq] at h ⊢
    exact ⟨⟨trivial, h.1.2⟩, h.2⟩

/-- An address at or below the bound is not listed. -/
theorem memGet_below {m : List Host.Cell} {a b : Nat} (h : cellsAbove (some b) m) (le : a ≤ b) : memGet m a = unlisted := by
  cases m with
  | nil => rfl
  | cons p m =>
    simp only [cellsAbove, Bool.and_eq_true, decide_eq_true_eq] at h
    have : a < p.1 := by omega
    unfold memGet
    rw [if_neg (by omega), if_pos this]

theorem memGet_memPut_above {m : List Host.Cell} {lo : Option Nat} (h : cellsAbove lo m) (a b : Nat) (v : Byte) :
    memGet (memPut m a v) b = if b = a then v else memGet m b := by
  induction m generalizing lo with
  | nil =>
    unfold memPut
    by_cases e : b = a
    · split <;> simp_all [memGet]
    · split <;> simp [memGet, e]
  | cons p m ih =>
    obtain ⟨c, x⟩ := p
    have h' : cellsAbove (some c) m := by
      simp only [cellsAbove, Bool.and_eq_true] at h; exact h.2
    unfold memPut
    by_cases e : a = c
    · subst e
      rw [if_pos rfl]
      split
      · next z =>
        by_cases e : b = a
        · rw [if_pos e, e, memGet_below h' (Nat.le_refl a), z]
        · rw [if_neg e]
          conv => rhs; unfold memGet
          rw [if_neg e]
          split
          · next lt => exact memGet_below h' (Nat.le_of_lt lt)
          · rfl
      · by_cases e : b = a <;> simp [memGet, e]
    · rw [if_neg e]
      by_cases lt : a < c
      · rw [if_pos lt]
        split
        · next z =>
          by_cases e' : b = a
          · subst e'; simp [memGet, e, lt, z]
          · simp [e']
        · by_cases e' : b = a
          · simp [memGet, e']
          · by_cases lb : b < a
            · have : b ≠ c := by omega
              have : b < c := by omega
              simp_all [memGet]
            · conv => lhs; unfold memGet
              rw [if_neg e', if_neg lb, if_neg e']
      · rw [if_neg lt]
        by_cases e' : b = a
        · subst e'
          unfold memGet
          rw [if_neg e, if_neg lt, ih h', if_pos rfl, if_pos rfl]
        · rw [if_neg e']
          unfold memGet
          rw [ih h', if_neg e']

/-- A byte read after a write: the byte written at its address, every other as before. -/
theorem memGet_memPut {m : List Host.Cell} (h : Memory.wf m) (a b : Nat) (v : Byte) :
    memGet (memPut m a v) b = if b = a then v else memGet m b := memGet_memPut_above h a b v

theorem cellsAbove_memPut {m : List Host.Cell} {lo : Option Nat} (h : cellsAbove lo m) (a : Nat) (v : Byte)
    (le : ∀ l, lo = some l → l < a) : cellsAbove lo (memPut m a v) := by
  induction m generalizing lo with
  | nil =>
    unfold memPut
    split
    · rfl
    · next z =>
      cases lo with
      | none => simp [cellsAbove, z]
      | some l => simp [cellsAbove, z, le l rfl]
  | cons p m ih =>
    obtain ⟨c, x⟩ := p
    have h0 := h
    simp only [cellsAbove, Bool.and_eq_true] at h
    obtain ⟨⟨h1, h2⟩, h3⟩ := h
    unfold memPut
    by_cases e : a = c
    · subst e
      rw [if_pos rfl]
      split
      · cases lo with
        | none => exact cellsAbove_none h3
        | some l => exact cellsAbove_weaken h3 (Nat.le_of_lt (le l rfl))
      · next z => simp [cellsAbove, z, h3, h1]
    · rw [if_neg e]
      by_cases lt : a < c
      · rw [if_pos lt]
        split
        · exact h0
        · next z =>
          cases lo with
          | none => simp [cellsAbove, z, lt, h2, h3]
          | some l => simp [cellsAbove, z, le l rfl, lt, h2, h3]
      · rw [if_neg lt]
        have : cellsAbove (some c) (memPut m a v) := ih h3 (fun l e' => by cases e'; omega)
        simp [cellsAbove, h1, h2, this]

/-- A write of a byte keeps the canonical form. -/
theorem wf_memPut {m : List Host.Cell} (h : Memory.wf m) (a : Nat) (v : Byte) : Memory.wf (memPut m a v) :=
  cellsAbove_memPut h a v (fun _ e => by cases e)

theorem cellsAbove_filter {m : List Host.Cell} {lo : Option Nat} (f : Host.Cell → Bool) (h : cellsAbove lo m) :
    cellsAbove lo (m.filter f) := by
  induction m generalizing lo with
  | nil => rfl
  | cons p m ih =>
    obtain ⟨c, x⟩ := p
    simp only [cellsAbove, Bool.and_eq_true] at h
    obtain ⟨⟨h1, h2⟩, h3⟩ := h
    rw [List.filter_cons]
    split
    · simp [cellsAbove, h1, h2, ih h3]
    · cases lo with
      | none => exact cellsAbove_none (ih h3)
      | some l => exact cellsAbove_weaken (ih h3) (Nat.le_of_lt (by simpa using h1))

theorem wf_filter {m : List Host.Cell} (f : Host.Cell → Bool) (h : Memory.wf m) : Memory.wf (m.filter f) :=
  cellsAbove_filter f h

/-! ## The named writes -/

theorem byteAt_putByte {s : State} (h : Memory.wf s.mem) (k j : Nat) (b : Byte) :
    (s.putByte k b).byteAt j = if j = k then b else s.byteAt j := memGet_memPut h k j b

theorem wf_putByte {s : State} (h : Memory.wf s.mem) (k : Nat) (b : Byte) : Memory.wf (s.putByte k b).mem := wf_memPut h k b

theorem wf_putBytes (b : List Byte) : ∀ {s : State} (_ : Memory.wf s.mem) (k : Nat), Memory.wf (s.putBytes k b).mem := by
  induction b with
  | nil => intro s h k; exact h
  | cons x b ih => intro s h k; exact ih (wf_putByte h k x) (k + 1)

/-- Bytes outside those written read as before. -/
theorem byteAt_putBytes_out (b : List Byte) : ∀ {s : State} (_ : Memory.wf s.mem) (k j : Nat), (j < k ∨ k + b.length ≤ j) →
    (s.putBytes k b).byteAt j = s.byteAt j := by
  induction b with
  | nil => intro s h k j _; rfl
  | cons x b ih =>
    intro s h k j out
    have : (s.putBytes k (x :: b)) = (s.putByte k x).putBytes (k + 1) b := rfl
    rw [this, ih (wf_putByte h k x) (k + 1) j (by simp at out; omega), byteAt_putByte h, if_neg (by simp at out; omega)]

/-- A byte written reads back. -/
theorem byteAt_putBytes_in (b : List Byte) : ∀ {s : State} (_ : Memory.wf s.mem) (k i : Nat) (lt : i < b.length),
    (s.putBytes k b).byteAt (k + i) = b[i] := by
  induction b with
  | nil => intro s h k i lt; simp at lt
  | cons x b ih =>
    intro s h k i lt
    have e : (s.putBytes k (x :: b)) = (s.putByte k x).putBytes (k + 1) b := rfl
    rw [e]
    cases i with
    | zero =>
      rw [byteAt_putBytes_out b (wf_putByte h k x) (k + 1) (k + 0) (by omega), byteAt_putByte h]
      simp
    | succ i =>
      have := ih (wf_putByte h k x) (k + 1) i (by simpa using lt)
      rw [show k + (i + 1) = k + 1 + i by omega, this]
      simp

theorem mem_writeByte (s : State) (a : Author) (n : Nat) (w : ByteWrite) :
    (s.writeByte a n w).mem = s.mem ∨ (s.writeByte a n w).mem = memPut s.mem w.key w.val := by
  unfold State.writeByte
  dsimp only
  split
  · exact .inl rfl
  · exact .inr rfl

theorem wf_writeByte {s : State} (h : Memory.wf s.mem) (a : Author) (n : Nat) (w : ByteWrite) :
    Memory.wf (s.writeByte a n w).mem := by
  rcases mem_writeByte s a n w with e | e <;> rw [e]
  · exact h
  · exact wf_memPut h w.key w.val

/-- A byte that a write does not name reads as before. -/
theorem byteAt_writeByte_out {s : State} (h : Memory.wf s.mem) (a : Author) (n : Nat) (w : ByteWrite) (j : Nat) (out : w.key ≠ j) :
    (s.writeByte a n w).byteAt j = s.byteAt j := by
  unfold State.byteAt
  rcases mem_writeByte s a n w with e | e <;> rw [e]
  rw [memGet_memPut h, if_neg (Ne.symm out)]

theorem wf_writeBytes (a : Author) (n : Nat) (ws : List ByteWrite) : ∀ {s : State}, Memory.wf s.mem →
    Memory.wf (s.writeBytes a n ws).mem := by
  induction ws with
  | nil => intro s h; exact h
  | cons w ws ih => intro s h; exact ih (wf_writeByte h a n w)

/-- Bytes that none of the writes names read as before. -/
theorem byteAt_writeBytes_out (a : Author) (n : Nat) (ws : List ByteWrite) (j : Nat) : ∀ {s : State}, Memory.wf s.mem →
    (∀ w ∈ ws, w.key ≠ j) → (s.writeBytes a n ws).byteAt j = s.byteAt j := by
  induction ws with
  | nil => intro s h _; rfl
  | cons w ws ih =>
    intro s h out
    have e : s.writeBytes a n (w :: ws) = (s.writeByte a n w).writeBytes a n ws := rfl
    rw [e, ih (wf_writeByte h a n w) (fun v hv => out v (by simp [hv])), byteAt_writeByte_out h a n w j (out w (by simp))]

theorem wf_writeUnit {s : State} (h : Memory.wf s.mem) (a : Author) (ws : List ByteWrite) : Memory.wf (s.writeUnit a ws).mem :=
  wf_writeBytes a s.nextId ws (s := { s with nextId := s.nextId + 1 }) h

theorem byteAt_writeUnit_out {s : State} (h : Memory.wf s.mem) (a : Author) (ws : List ByteWrite) (j : Nat)
    (out : ∀ w ∈ ws, w.key ≠ j) : (s.writeUnit a ws).byteAt j = s.byteAt j :=
  byteAt_writeBytes_out a s.nextId ws j (s := { s with nextId := s.nextId + 1 }) h out

theorem wf_writeEach (a : Author) (ws : List ByteWrite) : ∀ {s : State}, Memory.wf s.mem → Memory.wf (s.writeEach a ws).mem := by
  induction ws with
  | nil => intro s h; exact h
  | cons w ws ih => intro s h; exact ih (wf_writeUnit h a [w])

@[simp] theorem mem_tagAll (s : State) (a : Author) (ws : List ByteWrite) : (s.tagAll a ws).mem = s.mem := by
  unfold State.tagAll
  dsimp only
  split <;> rfl

theorem wf_zeroRange {s : State} (h : Memory.wf s.mem) (lo n : Nat) : Memory.wf (s.zeroRange lo n).mem := wf_filter _ h

/-- The machine after reset has memory in canonical form. -/
theorem wf_reset : Memory.wf State.reset.mem := rfl

end Sys2Proof.Machine
end

