-- ==== Sys2Proof/Tests/Slice0.lean ====
section
/-! SUPPORT. Tests: the encodings of the spec's examples, terms the well-formedness check refuses, and, for every statement,
states and operands that meet its hypotheses. -/

namespace Sys2Proof.Tests

open Machine

/-! ## States to test on -/

def x0 : CtxId := { core := 0, slot := 0 }

/-- Core 0 runs one context, in slot 0 at supervisor privilege, just after a checkpoint; the first 1 GiB of addresses are the
package's own memory, and the core's cursor stands in slot S of a bundle at address 64. -/
def base : State := { State.reset with
  cores := [(0, { Core.reset with
    tlb := [identityEntry 0]
    ctx := Core.reset.ctx.set 0 { Ctx.reset with status := .running, serial := 1, sup := true, atCkpt := true, pc := 64 } })]
  cur := { State.reset.cur with addr := 64 } }

def clean (n : Nat) : Tagged 64 := { val := BitVec.ofNat 64 n, tag := .clean }

def withS (s : State) (l : List (Fin 64 × Tagged 64)) : State :=
  s.modCx fun c => { c with regs := { c.regs with s := l.foldl (fun v p => v.set p.1 p.2) c.regs.s } }

/-- Whether an instruction is ready, as a computation. -/
def readyB (i : Instr) (s : State) : Bool :=
  i.wf && (s.uses i).all (fun r => r.late.isNone && !r.contain && !r.poisonuse && r.recovery.isNone) &&
  decide (s.cx.withheld.length + (withholds i).toNat ≤ 64) && decide (s.cx.commands.length + (isCommand i).toNat ≤ 16) &&
  (!(commitsAsCheckpoint i) || s.cx.atCkpt) &&
  (match i with
    | .retire => !s.cx.reg.lostw
    | .carve _ a => !(carveBad (s.readS a).val)
    | _ => true)

theorem readable_of {i : Instr} {s : State}
    (h : (s.uses i).all (fun r => r.late.isNone && !r.contain && !r.poisonuse && r.recovery.isNone) = true) : Readable i s := by
  simp only [List.all_eq_true, Bool.and_eq_true, Bool.not_eq_true', Option.isNone_iff_eq_none] at h
  intro r hr
  obtain ⟨⟨⟨a, b⟩, c⟩, d⟩ := h r hr
  exact ⟨a, b, c, d⟩

theorem ready_of {i : Instr} {s : State} (h : readyB i s = true) : Ready i s := by
  simp only [readyB, Bool.and_eq_true, Bool.or_eq_true, Bool.not_eq_true', decide_eq_true_eq] at h
  obtain ⟨⟨⟨⟨⟨h1, h2⟩, h3⟩, h4⟩, h5⟩, h6⟩ := h
  refine ⟨h1, readable_of h2, ⟨h3, h4⟩, fun hc => ?_, ?_, ?_⟩
  · rcases h5 with h | h
    · rw [h] at hc; cases hc
    · exact h
  · rintro rfl
    simpa using h6
  · rintro d a rfl
    simpa using h6

theorem ready_all {l : List Instr} {s : State} (h : l.all (readyB · s) = true) : ∀ i ∈ l, Ready i s :=
  fun i hi => ready_of (List.all_eq_true.mp h i hi)

/-- The place an access finds, for the accesses that find one. -/
def locOf (s : State) (a : Acc) (addr : Word) (n : Nat) : Loc :=
  match s.locate a (field addr 0 56) n with
  | .ok l => l
  | .error _ => { home := 0, pa := 0, ver := none }

def reachesB (s : State) (a : Acc) (addr : Word) (n : Nat) : Bool :=
  decide (addr.toNat < 2 ^ 56) && addr.toNat % n == 0 && (s.locate a (field addr 0 56) n).isOk &&
    (s.phaseCheck .l a (field addr 0 56) (locOf s a addr n) n).isOk

theorem reaches_of {s : State} {a : Acc} {addr : Word} {n : Nat} (h : reachesB s a addr n = true) :
    Reaches s a addr n (locOf s a addr n) := by
  simp only [reachesB, Bool.and_eq_true, decide_eq_true_eq, beq_iff_eq] at h
  obtain ⟨⟨⟨h1, h2⟩, h3⟩, h4⟩ := h
  refine ⟨h1, h2, ?_, ?_⟩
  · unfold locOf
    cases hl : s.locate a (field addr 0 56) n with
    | ok l => rfl
    | error e => rw [hl] at h3; cases h3
  · cases hp : s.phaseCheck .l a (field addr 0 56) (locOf s a addr n) n with
    | ok u => rfl
    | error e => rw [hp] at h4; cases h4

/-! ## Witnesses: the scalar slot -/

def min64 : Nat := 2 ^ 63
def pair (x y : Nat) : State := withS base [(2, clean x), (3, clean y)]

theorem witness_AluForms : ∀ i ∈ [Instr.add 1 2 3, .sub 1 2 3, .and 1 2 3, .or 1 2 3, .xor 1 2 3, .andn 1 2 3, .shl 1 2 3, .shr 1 2 3,
    .sar 1 2 3, .rol 1 2 3, .min 1 2 3, .max 1 2 3, .minn 1 2 3, .maxn 1 2 3, .cmpEq 1 2 3, .cmpNe 1 2 3, .cmpLt 1 2 3, .cmpLe 1 2 3,
    .cmpLtn 1 2 3, .cmpLen 1 2 3, .clz 1 2, .ctz 1 2, .ffs 0 2, .popc 63 2, .brev 1 2], Ready i (pair 5 7) := ready_all (by decide)

/-- A divisor of zero, MIN / −1, and a remainder with the dividend's sign. -/
theorem witness_MulForms : (∀ p ∈ [(9, 0), (min64, 2 ^ 64 - 1), (2 ^ 64 - 7, 2)], ∀ i ∈ [Instr.mul 1 2 3, .mulh 1 2 3, .mulhn 1 2 3, .div 1 2 3,
      .divn 1 2 3, .rem 1 2 3, .remn 1 2 3], Ready i (pair p.1 p.2)) ∧
    ((pair 9 0).readS 3).val = 0 ∧
    ((pair min64 (2 ^ 64 - 1)).readS 2).val.toInt = -2 ^ 63 ∧ ((pair min64 (2 ^ 64 - 1)).readS 3).val.toInt = -1 ∧
    ((pair (2 ^ 64 - 7) 2).readS 2).val.toInt = -7 := by
  refine ⟨fun p hp => ready_all ?_, by decide, by decide, by decide, by decide⟩
  revert p; decide

theorem witness_ImmediateForms : (∀ i ∈ [Instr.addi 5 5 0x3FFF, .andi 1 2 0x2000, .ori 1 2 0x1FFF, .xori 1 2 0, .shli 1 2 63, .shri 1 2 0,
    .sari 1 2 63, .roli 1 2 0, .cmpiEq 1 2 0x400, .cmpiNe 1 2 0x3FF, .cmpiLt 1 2 0, .cmpiLe 1 2 0, .cmpiLtn 1 2 0x7FF, .cmpiLen 1 2 0,
    .li 5 0x80000, .liu 5 0xFFFFF, .bfxN 3 4 7 12, .bfxI 3 4 63 0, .bfi 3 4 0 63, .fshl 1 2 3 0, .fshr 1 2 3 63, .fshlv 1 2 3 4,
    .fshrv 1 2 3 4, .sel 1 2 3 2, .sel 1 2 3 0], Ready i (pair 5 7)) ∧
    ((pair 5 7).readS 2).val ≠ 0 ∧ ((pair 5 7).readS 0).val = 0 := ⟨ready_all (by decide), by decide, by decide⟩

theorem witness_ScalarFrame : (∀ i ∈ [Instr.add 0 2 3, .sub 1 2 3, .mul 1 2 3, .rem 0 2 3, .li 0 7, .sel 1 2 3 4], Ready i (pair 5 7)) ∧
    (pair 5 7).bank? = none := ⟨ready_all (by decide), by decide⟩

theorem witness_PartNumber : Ready (.mfs 1 0x000) base ∧ Ready (.mts 2 0x000) base ∧ base.absent.length ≤ 1792 :=
  ⟨ready_of (by decide), ready_of (by decide), by decide⟩

theorem witness_FixedNames : ∀ i ∈ [Instr.add 0 2 3, .mul 0 2 3, .div 0 2 3, .li 0 1, .vext .i32 0 2 3, .xamax 7 0 2 3, .vmaskAnd 0 1 2 0,
    .vmaskOr 0 1 2 1, .vmaskXor 0 1 2 2, .vmaskAndn 0 1 2 3, .vmaskNot 0 1 0, .vmaskMov 0 1 0, .vcmpEq .f32 0 2 3 0 true,
    .vcmpNe .i8 0 2 3 0 false, .vcmpLt .i16 0 2 3 0 true, .vcmpLe .f32 0 2 3 0 true, .vcmpGt .i32 0 2 3 0 true, .vcmpGe .i32 0 2 3 0 true,
    .vcmpUo .f32 0 2 3 0 true, .addi 63 2 1, .call 64, .callr 2], Ready i (pair 5 7) := ready_all (by decide)

def user : State := base.modCx fun c => { c with sup := false }

/-- A register for all, one the supervisor alone reads, which user code may not, and a number that names none. -/
theorem witness_ControlReads : (∀ i ∈ [Instr.mfs 1 0x001, .mfs 0 0x3FFF, .mfs 1 0x004, .clk 1, .coreidLog 1, .coreidPhys 1], Ready i base) ∧
    Ready (.mfs 1 0x004) user ∧ ctlAccess 0x001 = some (.all, .all) ∧ ctlAccess 0x004 = some (.sup, .sup) ∧ ctlAccess 0x3FFF = none ∧
    user.cx.sup = false ∧ user.cx.task = none := ⟨ready_all (by decide), ready_of (by decide), by decide, by decide, by decide, by decide, by decide⟩

/-- An allowed value, a register that ignores writes, a value that is refused, and a register for the supervisor. -/
theorem witness_ControlWrites : (∀ i ∈ [Instr.mts 2 0x001, .mts 2 0x000, .mts 3 0x001], Ready i (pair 4 5)) ∧ Ready (.mts 2 0x004) user ∧
    (pair 4 5).ctlBad x0 0x001 ((pair 4 5).readS 2).val = none ∧ ((pair 4 5).ctlBad x0 0x001 ((pair 4 5).readS 3).val).isSome = true ∧
    ctlAccess 0x000 = some (.all, .ignored) ∧ (pair 4 5).mirrorBusy x0 = false := by
  refine ⟨ready_all (by decide), ready_of (by decide), by decide, by decide, by decide, by decide⟩

def store (s : State) (a : Nat) (b : List Byte) : State := s.putBytes (homeKey 0 a) b

/-- Five bundles of one slot each from address 64 on, and at 95 one of eight slots, which fills its line. -/
def lined : State := store base 64 [0x04, 0, 0, 0, 0, 0x04, 0, 0, 0, 0, 0x04, 0, 0, 0, 0, 0x04, 0, 0, 0, 0, 0x04, 0, 0, 0, 0, 0, 0, 0, 0, 0, 0, 0xFF]

/-- A zero, a positive and a negative register, a context three bundles before the end of a transfer, four bundles in a row, the
last byte of a line, and a filler behind a bundle. -/
theorem witness_Transfers : (∀ v ∈ [0, 1, min64], ∀ i ∈ [Instr.brZ 2 8, .brNz 2 8, .brNeg 2 0xFFFB, .brNneg 2 8, .brPos 2 8, .brNpos 2 8, .br 8,
      .jmp 2, .call 8, .callr 2], Ready i (pair v 0)) ∧
    ({ Ctx.reset with transfer := some { taken := true, target := 64, due := 4, src := 0 } } : Ctx).transfer.map (·.due) = some 4 ∧
    (∀ a ∈ [64, 69, 74, 79], (lined.lineAt x0 (BitVec.ofNat 56 a)).getD (a % 64) 0 = 4 ∧ lined.nextAddr x0 (BitVec.ofNat 56 a) = BitVec.ofNat 56 (a + 5)) ∧
    (lined.lineAt x0 84).getD 25 1 = 0 ∧ (lined.lineAt x0 95).getD 31 0 = 0xFF ∧ 31 + 1 + 4 * ((List.range 8).countP fun i => (0xFF : Byte).getLsbD i) = 64 := by
  refine ⟨fun v hv => ready_all ?_, by decide, by decide +kernel, by decide +kernel, by decide +kernel, by decide⟩
  revert v; decide

def tagged (t : Tag) : State := withS base [(4, { val := 64, tag := t })]

/-- A handler of context 0 runs, with a value in its own `s52`. -/
def inHandler (late : Bool) (v : Tagged 64) : State := base.modCore 0 fun k =>
  { k with bank := some { Bank.enter 0 late 64 with shadow := (Bank.enter 0 late 64).shadow.set 4 v } }

theorem witness_PoisonOutcomes : (∀ t ∈ [Tag.clean, .lost, .deferred, .late], ((tagged t).readS 4).tag = t) ∧
    (∀ t : Tag, Fits (.chk 4 26) (tagged t)) ∧ (tagged .late).bank? = none ∧
    ((inHandler false { val := 64, tag := .late }).readS 52).tag = .late ∧ (inHandler false { val := 64, tag := .late }).bank? ≠ none := by
  refine ⟨by decide, fun t => ?_, by decide, by decide, by decide⟩
  cases t <;> (unfold Fits; decide)

/-! ## Witnesses: memory, order, flags, counters -/

/-- A page of the on-chip window, core 0's register space, at the address 1 GiB, which scalar accesses may not use. -/
def mapped : State := (withS base [(2, clean 128), (3, clean 7), (4, clean 0x4000_0000), (5, { val := 0, tag := .deferred }), (6, clean (2 ^ 56)),
    (7, clean (2 ^ 56 - 64)), (8, clean (2 ^ 40)), (9, clean (0xFF * 2 ^ 48))]).modCore 0 fun k => { k with tlb := k.tlb ++
  [{ asid := 0, page := 0x4000, level := 0, leaf := BitVec.ofNat 64 (0xC780_0000_0000_0000 + windowPa 0 1 0), pins := 0 }] }

/-- An aligned address that is memory; a deferred base, an address of 57 bits, one that is not aligned, one without a translation. -/
theorem witness_Loads : (∀ i ∈ [Instr.ldI8 1 2 0 0, .ldN8 1 2 0 0, .ldI16 1 2 0 0, .ldN16 1 2 0 0, .ldI32 1 2 0 0, .ldN32 1 2 0 0, .ldI64 1 2 0 0,
      .ldSN32 1 2 0 0, .ldSI64 1 2 0 0, .ldSI64 1 5 0 0, .ldSI64 1 6 0 0, .ldSI64 1 3 0 0], Ready i mapped) ∧
    (∀ n ∈ [1, 2, 4, 8], ∃ l, Reaches mapped .read (smAddr (mapped.readS 2).val 0 n) n l ∧ PlainRead mapped .l 0 l n ∧
      (isWindow l.pa.toNat && windowSpace l.pa.toNat == 5) = false) ∧
    (mapped.readS 5).tag = .deferred ∧ 2 ^ 56 ≤ (smAddr (mapped.readS 6).val 0 8).toNat ∧ (smAddr (mapped.readS 3).val 0 8).toNat % 8 ≠ 0 ∧
    (mapped.locate .read (field (smAddr (mapped.readS 7).val 0 8) 0 56) 8).isOk = false ∧ mapped.cx.walk = none ∧
    mapped.lookup 0 mapped.cx.reg.ptroot (field (smAddr (mapped.readS 8).val 0 8) 0 56) = none ∧ isAlias (field (smAddr (mapped.readS 8).val 0 8) 0 56) = false := by
  refine ⟨ready_all (by decide), fun n hn => ⟨_, reaches_of ?_, ?_⟩, by decide, by decide, by decide, by decide, by decide, by decide, by decide⟩
  · revert n; decide
  · unfold PlainRead PlainFor Held; revert n; decide

theorem witness_Stores : (∀ i ∈ [Instr.st8 3 2 0 0, .st16 3 2 0 0, .st32 3 2 0 0, .st64 3 2 0 0], Ready i mapped) ∧
    ∀ n ∈ [1, 2, 4, 8], ∃ l, Reaches mapped .write (smAddr (mapped.readS 2).val 0 n) n l := by
  refine ⟨ready_all (by decide), fun n hn => ⟨_, reaches_of ?_⟩⟩
  revert n; decide

/-- The walk for the address in `s8`, which no TLB translates, has failed. -/
def unwalked : State := mapped.modCx fun c => { c with walk := some { va := 2 ^ 40, ptroot := 0, spec := none, n := 0, running := false, failed := some { cause := .xlate, sub := 0 } } }
/-- The first 1 GiB may be read and not written. -/
def readOnly : State := mapped.modCore 0 fun k => { k with tlb := [{ identityEntry 0 with leaf := BitVec.ofNat 64 (0xC580_0000_0000_0000) }] }

/-- The least address of 57 bits, an address off by seven, a window that refuses scalar accesses, an address without a
translation, before and after its walk, and a page that forbids stores. -/
theorem witness_AccessFaults : (∀ b ∈ [(6 : Fin 64), 3, 4, 8], ∀ i ∈ [Instr.ldI8 1 b 0 0, .ldN8 1 b 0 0, .st8 1 b 0 0, .ldI16 1 b 0 0, .ldN16 1 b 0 0, .ldI32 1 b 0 0, .ldN32 1 b 0 0, .ldI64 1 b 0 0,
      .st16 1 b 0 0, .st32 1 b 0 0, .st64 1 b 0 0], Ready i mapped) ∧
    (smAddr (mapped.readS 6).val 0 2).toNat = 2 ^ 56 ∧ (smAddr (mapped.readS 3).val 0 2).toNat % 2 ≠ 0 ∧
    (∀ n ∈ [1, 2, 4, 8], (smAddr (mapped.readS 4).val 0 n).toNat % n = 0 ∧ (smAddr (mapped.readS 8).val 0 n) = 2 ^ 40) ∧
    mapped.mustWalk x0 0 (2 ^ 40) none = true ∧ unwalked.mustWalk x0 0 (2 ^ 40) none = false ∧ (unwalked.walkFailed x0 0 (2 ^ 40) none).isSome = true ∧
    Ready (.ldI8 1 8 0 0) unwalked ∧ Ready (.st8 3 2 0 0) readOnly ∧ readOnly.mustWalk x0 0 128 none = false ∧ readOnly.walkFailed x0 0 128 none = none ∧
    (readOnly.translate 0 0 true .write 128).isOk = false ∧
    (∀ a ∈ [Acc.read, .write], (match mapped.translate 0 mapped.cx.reg.ptroot mapped.supervisor a 0x4000_0000 with
      | .ok l => mapped.refusesHere 0 0x4000_0000 l 2 a .scalar mapped.supervisor
      | .error _ => false) = true) := by
  refine ⟨fun b hb => ready_all ?_, by decide, by decide, by decide, by decide, by decide, by decide, ready_of (by decide), ready_of (by decide),
    by decide, by decide, by decide, by decide⟩
  revert b; decide

/-- Also an operation code at each end of the table, and operands at their bounds. -/
theorem witness_Atomics : (∀ i ∈ [Instr.amo32 1 2 3 0 0, .amo64 4 2 3 11 15], Ready i mapped) ∧
    (∀ n ∈ [4, 8], ∃ l, Reaches mapped .atomic (mapped.readS 2).val n l ∧ l.ver = none ∧ mapped.homeRefuses l n = false ∧
      mapped.homeDead l.home = false ∧ (∀ c ∈ [0, 15], mapped.amoWaits 128 l n c = false) ∧ Held mapped l n ∧
      mapped.lineEntry (mapped.keyOf l / 128) = none ∧ mapped.lostAt (mapped.keyOf l) = false) ∧
    mapped.cx.refusal = none ∧ mapped.releaseWaits x0 mapped.cur.scope = false ∧ mapped.cx.task = none ∧ (mapped.readS 3).tag = .clean ∧ (mapped.readS 4).tag = .clean ∧ Memory.wf mapped.mem = true := by
  refine ⟨ready_all (by decide), fun n hn => ⟨_, reaches_of ?_, ?_⟩, by decide, by decide, by decide, by decide, by decide, by decide⟩
  · revert n; decide
  · unfold Held; revert n; decide

theorem witness_RemoteLoadsAndBlocks : (∀ i ∈ [Instr.rld 1 2 8, .rld 0 2 8, .ldBlk 15 2 1 0 0], Ready i mapped) ∧
    (∃ l, Reaches mapped .read (mapped.readS 2).val 8 l ∧ isWindow l.pa.toNat = false ∧ Held mapped l 8) ∧ Ready (.rld 1 9 8) mapped ∧
    (match mapped.locate .read (field (mapped.readS 9).val 0 56) 8 with
      | .ok l => isWindow l.pa.toNat
      | .error _ => false) = true ∧ (mapped.readS 2).val.toNat % 128 = 0 ∧
    (mapped.blockLines 128 2).isOk = true := by
  refine ⟨ready_all (by decide), ⟨_, reaches_of (by decide), by decide, ?_⟩, ready_of (by decide), by decide, by decide, by decide⟩
  unfold Held; decide

/-- A released store of class 0 on path L. -/
def released : State := base.modCtx x0 fun c => { c with released := [{
  id := 1, kind := .plain, lanes := [{ va := 128, loc := { home := 0, pa := 128, ver := none }, bytes := [1, 2], lost := false }], cls := 0, scope := 0
  path := .l, parked := none, resent := none, phase := none }] }

/-- An acknowledgment is due for line 5, of which the context has written a byte on path L, at domain scope. -/
def acking : State := { base.modFabric fun f => { f with dir := [{ DirEntry.empty 5 with waitAck := [1], newOwner := some 0 }] } with
  views := [{ n := 1, key := 640, old := 0, oldLost := false, owner := { ctx := x0, serial := 1 }, path := some .l, cmd := none, cls := 0, scope := 0
              reach := [], lost := false, done := true, seen := [] }]
  cur := { base.cur with scope := 4 } }

/-- A released store has been refused. -/
def parkedStore : State := released.modCtx x0 fun c => { c with released := c.released.map fun o => { o with parked := some .xlate } }

/-- A fill of eight bytes at address 256 stands at the head of queue 0. -/
def fill : Command := { id := 9, instr := .cfill 0 5 1 2 3, queue := 0, owner := { ctx := x0, serial := 1 }, a := 256, b := 0x11, c := 7, c1 := 0, scope := 0
                        sup := true, ptroot := 0, team := 0, seed := 0, phase := none, det := false }
def commanded (c : Command) : State := base.modCore 0 fun k => { k with queue := k.queue.set 0 [c] }

/-- A released store of path X. -/
def releasedX : State := released.modCtx x0 fun c => { c with released := c.released.map fun o => { o with path := .x } }

/-- Nothing keeps a fence of `base` waiting; a store of the class and path, a refused one, one of path X, a command and an
acknowledgment each keep one waiting. -/
theorem witness_Fences : (∀ s ∈ [base, released, releasedX, parkedStore, acking, commanded fill], Ready (.fenceC 0) s ∧ Ready (.fenceC 0xFFFF) s ∧
      Ready (.fenceP 0 4) s ∧ Ready (.fenceP 3 4) s) ∧
    base.cx.released = [] ∧ base.cx.parked = [] ∧ base.commandsOpen base.cx.serial 0xFFFF = false ∧ base.cur.scope.val < 4 ∧
    (∃ o ∈ released.cx.released, o.path = .l ∧ (0xFFFF : BitVec 16).getLsbD o.cls.val = true) ∧ (∃ o ∈ releasedX.cx.released, o.path = .x) ∧
    parkedStore.cx.parked ≠ [] ∧ (0xFFFF : BitVec 16).getLsbD 15 = true ∧ (commanded fill).commandsOpen base.cx.serial 0xFFFF = true ∧
    4 ≤ acking.cur.scope.val ∧ AcksDue acking [.l, .c, .n, .k] 0xFFFF ∧ AcksDue acking ([Path.l].filter fun r => r == .l || r == .x) (BitVec.allOnes 16) ∧
    [pathOf 0, pathOf 3, pathOf 4] = [.l, .x, .n] := by
  refine ⟨fun s hs => ?_, by decide, by decide, by decide, by decide, by decide, by decide, by decide, by decide, by decide, by decide, ?_, ?_, by decide⟩
  · simp only [List.mem_cons, List.not_mem_nil, or_false] at hs
    rcases hs with rfl | rfl | rfl | rfl | rfl | rfl <;> exact ⟨ready_of (by decide), ready_of (by decide), ready_of (by decide), ready_of (by decide)⟩
  all_goals (unfold AcksDue; decide)

theorem witness_FlagInstructions : (∀ i ∈ [Instr.sig 2, .clrf 2, .clrfErr 2], Ready i (pair 0xFFFFFFFF 0)) ∧ Ctx.reset.levels = [] :=
  ⟨ready_all (by decide), by decide⟩

/-- A ring of four slots with its producer at the last one and two slots filled. -/
def ringed : State := (withS base [(1, clean 1), (2, clean 2), (3, clean 3), (4, clean 4), (5, clean 5)]).modCx fun c => { c with regs := { c.regs with
  hg := c.regs.hg.set 2 0x8A04_0000_3002_0000, hs := c.regs.hs.set 2 (BitVec.ofNat 64 (3 + 1 * 2 ^ 13)) } }

/-- Counts at and beyond what is free and what is filled; levels of none, all the slots and one more; an unbound handle. -/
theorem witness_Rings : (∀ b ∈ [(0 : Fin 64), 2, 3], ∀ i ∈ [Instr.advP 2 b, .advC 2 b, .advP 1 b, .advC 1 b], Ready i ringed) ∧
    (∀ b ∈ [(0 : Fin 64), 4, 5], ∀ i ∈ [Instr.rfill 26 2 b, .rfree 0 2 b], Ready i ringed) ∧ Ready (.rfill 3 1 1) ringed ∧
    hgValid (ringed.cx.regs.hg.get 2) = true ∧ hgSlots (ringed.cx.regs.hg.get 2) = 4 ∧ hsP (ringed.cx.regs.hs.get 2) = 3 ∧
    hsC (ringed.cx.regs.hs.get 2) = 1 ∧ ringFree (ringed.cx.regs.hg.get 2) (ringed.cx.regs.hs.get 2) = 2 ∧
    ringFilled (ringed.cx.regs.hg.get 2) (ringed.cx.regs.hs.get 2) = 2 ∧ hgValid (ringed.cx.regs.hg.get 1) = false := by
  refine ⟨fun b hb => ready_all ?_, fun b hb => ready_all ?_, ready_of (by decide), ?_⟩
  · revert b; decide
  · revert b; decide
  · decide

/-- A window of one counter: its name, the next one outside it, the least negative addend and the largest that is not; a full
set of watches. -/
def watching : State := (withS base [(2, clean 0), (3, clean 1), (4, clean (2 ^ 63)), (5, clean (2 ^ 63 - 1))]).modCx fun c =>
  { c with wn := Vector.replicate 4 (BitVec.ofNat 64 (2 ^ 63 + 31 * 2 ^ 57)) }

/-- A window over every counter, of every domain; a counter of domain 1; both ring ports in long-haul mode without a key. -/
def askingFar : State := (withS base [(2, clean (2 ^ 30 + 2 ^ 27))]).modCx fun c => { c with reg := { c.reg with seqwin := 2 ^ 63 + 4095 * 2 ^ 16 } }
def keyless : State := askingFar.modFabric fun f => { f with
  port := (f.port.set 4 { Port.reset with longHaul := true }).set 5 { Port.reset with longHaul := true } }

theorem witness_Counters : (∀ i ∈ [Instr.seqadd 2 5, .seqadd 2 4, .seqadd 3 2, .seqrd 1 2, .seqrd 1 3, .seqwatch 25 2 5, .seqwatch 25 3 5, .seqwatchTag 31 2 5],
      Ready i watching) ∧ (∀ i ∈ [Instr.seqwatch 25 2 3, .seqwatchTag 25 2 3], Ready i (pair 0 1)) ∧
    counterOf 0 0 = .ok 0 ∧ counterOf 0 1 = .error .prot ∧ nameFar 0 = false ∧ watching.cx.task = none ∧
    watching.cx.watchEntry 25 = none ∧ watching.cx.watchEntry 31 = some 0 ∧ (pair 0 1).cx.watchEntry 25 = some 0 ∧
    (∀ s ∈ [askingFar, keyless], ∀ i ∈ [Instr.seqrd 1 2, .seqwatch 25 2 3, .seqwatchTag 25 2 3], Ready i s) ∧
    (match counterOf askingFar.cx.reg.seqwin (askingFar.readS 2).val with
      | .ok n => n == 0
      | .error _ => false) = true ∧ nameFar (askingFar.readS 2).val = true ∧
    (askingFar.askCounter x0 (askingFar.readS 2).val (.read 0)).isSome = true ∧ (askingFar.askCounter x0 (askingFar.readS 2).val (.watch 0 0)).isSome = true ∧
    keyless.askCounter x0 (keyless.readS 2).val (.read 0) = none ∧ keyless.askCounter x0 (keyless.readS 2).val (.watch 0 0) = none ∧
    keyless.cx.watchEntry 25 = some 0 := by
  refine ⟨ready_all (by decide), ready_all (by decide), rfl, rfl, by decide, by decide, by decide, by decide, by decide, fun s hs => ?_, by decide +kernel,
    by decide, by decide +kernel, by decide +kernel, by decide +kernel, by decide +kernel, by decide⟩
  simp only [List.mem_cons, List.not_mem_nil, or_false] at hs
  rcases hs with rfl | rfl <;> exact ready_all (by decide)

/-- A run of one record, one that is lost, and dimension 63 without a seed. -/
theorem witness_SequenceUnit : (∀ i ∈ [Instr.qseed 2 3, .qpt 1 2 3, .qldt 0 2 3, .qsave 0 2 3], Ready i (pair 128 63)) ∧
    ((pair 128 63).reachSpan .read 128 136).isOk = true ∧ ((pair 128 63).reachSpan .write 128 136).isOk = true ∧
    runCount ((pair 128 63).readS 3).val = 1 ∧ recordSeed ((pair 128 63).cx.regs.dim 63) = 0 ∧
    (({ pair 128 63 with lost := [4] } : State).readPieces 0 [{ va := 128, loc := { home := 0, pa := 128, ver := none }, len := 8 }]).1.lost = true ∧
    ((pair 128 63).readPieces 0 [{ va := 128, loc := { home := 0, pa := 128, ver := none }, len := 8 }]).1.lost = false := by
  refine ⟨ready_all (by decide), by decide, by decide, by decide, by decide +kernel, by decide, by decide⟩

/-! ## Witnesses: tasks, gates, faults -/

/-- At 0x1000 the graph of one node of one tile, whose head line stands at 0x2000. -/
def graphed : State := store (store (withS base [(2, clean 0x1000), (3, clean 0x1040), (4, clean (2 ^ 40 + 9)), (5, clean 0x1020)]) 0x1010 [0, 0x20])
  0x2000 [0x80, 0x00, 0x20, 0x00, 0x00, 1]

/-- The same with a full F queue of meridian 0. -/
def crowded : State := graphed.modMeridian 0 fun m => { m with queue := m.queue.set 0 (List.replicate 64 (0, 0)) }

theorem witness_Launches : (∀ i ∈ [Instr.launch 1 2 4, .launch 1 5 4, .launchQF 1 4, .launchQB 1 4, .launchQW 1 4], Ready i graphed) ∧
    Ready (.launchQF 1 4) crowded ∧ (graphed.readS 2).val.toNat % 64 = 0 ∧ (graphed.readS 5).val.toNat % 64 ≠ 0 ∧
    graphed.cx.released = [] ∧ graphed.releaseWaits x0 4 = false ∧ graphed.teamInFlight graphed.cx.reg.team < 16 ∧
    (match graphed.readGraph x0 true .bundle 0x1000 graphed.cx.regs.stencil graphed.cx.reg.seqwin with
      | .ok g => g.valid && !g.sup
      | .error _ => false) = true ∧
    (∀ q : Fin 3, (graphed.meridian.get 0).room q = true) ∧ (crowded.meridian.get 0).room 0 = false := by
  refine ⟨ready_all (by decide), ready_of (by decide), by decide, by decide, by decide, by decide, by decide, by decide, by decide, by decide⟩

def carving : State := withS base [(2, clean carveReset.toNat), (3, clean (8 * 2 ^ 16 + 16 * 2 ^ 8 + 8))]
def oldWord : State := carving.modCx fun c => { c with carveOld := some 7 }
/-- A team of two logical cores, the other of which is not at its `carve`. -/
def teamed : State := carving.modCx fun c => { c with reg := { c.reg with team := 2 ^ 32 } }
/-- The other stands at a `carve` of another word. -/
def differing : State := (teamed.modCtx { core := 1, slot := 0 } fun c =>
  { c with status := .running, serial := 2, carveWord := some (carveReset, false), reg := { c.reg with team := 2 ^ 32 } })

set_option maxRecDepth 2000 in
theorem witness_CarveOuts : (∀ s ∈ [carving, oldWord, teamed, differing], Ready (.carve 1 3) s) ∧ Readable (.carve 1 0) carving ∧
    carveBad (carving.readS 0).val = true ∧ oldWord.cx.carveOld = some 7 ∧ teamed.cx.carveOld = none ∧
    teamed.carveMembers x0 (teamed.readS 3).val = none ∧
    ((differing.carveMembers x0 (differing.readS 3).val).map fun ms => ms.any fun m => m.2 != (differing.readS 3).val) = some true ∧
    carving.carveMembers x0 (carving.readS 3).val = some [(x0, (carving.readS 3).val)] ∧ carving.carveFits x0 (carving.readS 3).val = true ∧
    carving.coreSettled x0 = true ∧ (carving.carveSpill [(x0, (carving.readS 3).val)]).isOk = true := by
  refine ⟨fun s hs => ?_, readable_of (by decide), by decide, rfl, rfl, by decide, by decide, by decide, by decide, by decide, by decide⟩
  simp only [List.mem_cons, List.not_mem_nil, or_false] at hs
  rcases hs with rfl | rfl | rfl | rfl <;> exact ready_of (by decide)

/-- Deterministic mode is in force for the resident task. -/
def deterministic : State := base.modCx fun c => { c with task := some {
  key := { inst := 1, node := 0, x := 0, y := 0 }, tag := 0, prio := 0, head := 0, cycles := 1, pol := 0, quart := 0, elapsed := 0, counted := false
  det := 1, start := 0 } }
/-- The phase table is at 0x3000: phase 0 has no range there, phase 1 a range that is not valid and not zero. -/
def phased : State := store (deterministic.modCx fun c => { c with reg := { c.reg with phbase := 0x3000 } }) 0x3040 [1]
/-- The registration that opening a phase makes. -/
def phaseRanges (n : BitVec 12) : List Registered :=
  entryRanges (phased.me x0) n (((phased.passes (BitVec.ofNat 56 (0x3000 + 64 * n.toNat))
    (locOf phased .read (BitVec.ofNat 64 (0x3000 + 64 * n.toNat)) 64) 2).readAs (phased.me x0) .l 0 (locOf phased .read (BitVec.ofNat 64 (0x3000 + 64 * n.toNat)) 64) 64).1.bytes)
def lostWork : State := base.modCx fun c => { c with reg := { c.reg with lostw := true } }
/-- A result is still in flight. -/
def late : State := base.push 3 (.s 1 (clean 1))

theorem witness_GatesAndRetires : (∀ i ∈ [Instr.pause Gate.absent 4095, .phase Gate.absent 0, .mark Gate.absent 1, .retire], Ready i base) ∧
    Ready (.phase Gate.absent 4095) deterministic ∧ base.cx.deterministic = false ∧ deterministic.cx.deterministic = true ∧
    base.cx.reg.trctl.getLsbD 63 = false ∧ base.mgmt.shutter.armed = false ∧ base.bank? = none ∧
    (inHandler false (clean 0)).bank?.isSome = true ∧ Ready (.pause Gate.absent 0) (inHandler false (clean 0)) ∧
    (base.commit x0 true).runs x0 = true ∧ (base.commit x0 true).mayRetire x0 = true ∧ (late.commit x0 true).mayRetire x0 = false ∧
    Ready .retire late ∧ Readable .retire lostWork ∧ lostWork.cx.reg.lostw = true ∧
    (∀ n ∈ [(0 : BitVec 12), 1], Ready (.phase Gate.absent n) phased ∧ (phased.locate .read (BitVec.ofNat 56 (0x3000 + 64 * n.toNat)) 64).isOk = true) ∧
    phased.cx.deterministic = true ∧ phased.cx.reg.phbase.toNat = 0x3000 ∧ phased.phases = [] ∧
    (∀ x ∈ phaseRanges 0, rangeOk x.range = true) ∧ (∃ x ∈ phaseRanges 1, rangeOk x.range = false) := by
  refine ⟨ready_all (by decide), ready_of (by decide), by decide, by decide, by decide, by decide, by decide, by decide, ready_of (by decide),
    by decide, by decide, by decide, ready_of (by decide), readable_of (by decide), by decide, fun n hn => ⟨ready_of ?_, ?_⟩, by decide, by decide,
    by decide, by decide +kernel, by decide +kernel⟩ <;> (revert n; decide)

/-- The core's command queue is full, and the bundle has a command of its own. -/
def queueFull : State := (base.modCore 0 fun k => { k with queue := k.queue.set 0 (List.replicate 32 fill) }).modCtx x0 fun c => { c with commands := [fill] }

theorem witness_Traps : Ready (.trap 5) base ∧ (base.commit x0 true).runs x0 = true ∧ ((base.commit x0 true).ctx x0).releasing = none ∧
    ((base.commit x0 true).ctx x0).reg.trctl.getLsbD 63 = false ∧ Ready (.trap 5) queueFull ∧
    (match ((queueFull.commit x0 true).ctx x0).releasing with
      | some (.bundle _) => true
      | _ => false) = true :=
  ⟨ready_of (by decide), by decide, by decide, by decide, ready_of (by decide), by decide +kernel⟩

/-- A context halted by its record. -/
def stopped : State := base.modCx fun c => { c with status := .halted, resume := some (BitVec.ofNat 512 (64 * 2 ^ 128)) }

theorem witness_FaultsAndResumes : (base.ctx x0).reg.trctl.getLsbD 63 = false ∧ (base.ctx x0).winWrites = [] ∧
    (stopped.ctx x0).resume.isSome = true ∧ (stopped.ctx x0).winWrites = [] := by decide

/-- Interrupts 3 and 5 are pending, and the context listens. -/
def interrupted : State := base.modCx fun c => { c with reg := { c.reg with uistat := BitVec.ofNat 64 (2 ^ 3 + 2 ^ 5) } }

/-- Interrupts are enabled, with a handler at 64. -/
def listening : State := interrupted.modCx fun c => { c with reg := { c.reg with uictl := BitVec.ofNat 64 (2 ^ 63 + 64) } }

theorem witness_Handlers : (∀ s ∈ [(false, Instr.retu), (true, .retl)], Ready s.2 (inHandler s.1 (clean 0)) ∧
      ((inHandler s.1 (clean 0)).bank?.map fun b => (b.late, b.delay)) = some (s.1, [])) ∧
    Ready .retu (inHandler true (clean 0)) ∧ base.bank? = none ∧ Ready .retl base ∧ (inHandler true (clean 0)).ctlWrites = [] ∧
    base.cx.reg.trctl.getLsbD 63 = false ∧ (interrupted.ctx x0).nextInterrupt = some 3 ∧ (interrupted.ctx x0).task = none := by
  refine ⟨fun s hs => ?_, ready_of (by decide), by decide, ready_of (by decide), by decide, by decide, by decide, by decide⟩
  simp only [List.mem_cons, List.not_mem_nil, or_false] at hs
  rcases hs with rfl | rfl <;> exact ⟨ready_of (by decide), by decide⟩

/-! ## Witnesses: vectors -/

theorem witness_VectorIntegers : (∀ t ∈ [VFmt.i8, .i16, .i32, .n8, .n32], t.integer = true ∧ ∀ i ∈ [Instr.vadd t 1 2 3 0 false, .vsub t 1 2 63 1 false,
      .vmul t 1 2 3 0 true, .vmulHi t 1 2 3 0 true, .vfma t 1 2 3 0 false, .vfmaFms t 1 2 3 0 false, .vfmaFnma t 1 2 3 0 false,
      .vmin t 1 2 3 0 false, .vmax t 1 2 3 0 false, .vaddSat t 1 2 3 0 true, .vsubSat t 1 2 3 0 true], Ready i base) ∧
    (∀ i ∈ [Instr.vmulWide .i8 1 2 3 0 false, .vmulWide .i16 1 2 3 0 true, .vmulWide .n8 1 2 3 3 false, .vabs .i8 1 2 0, .vneg .i32 1 2 0,
      .vabs .f16 1 2 0, .vneg .f32 1 2 0], Ready i base) ∧ VFmt.f32.integer = false := by
  refine ⟨fun t ht => ?_, ready_all (by decide), by decide⟩
  simp only [List.mem_cons, List.not_mem_nil, or_false] at ht
  rcases ht with rfl | rfl | rfl | rfl | rfl <;> exact ⟨by decide, ready_all (by decide)⟩

theorem witness_VectorFloats : (∀ t ∈ [VFmt.f16, .bf16, .f32], t.integer = false ∧ ∀ i ∈ [Instr.vadd t 1 2 3 0 false, .vsub t 1 2 63 1 false,
      .vmul t 1 2 3 0 true, .vfma t 8 9 6 0 true, .vfmaFms t 1 2 3 0 false, .vfmaFnma t 1 2 3 0 false, .vmin t 1 2 3 0 false, .vmax t 1 2 3 0 false],
      Ready i base) ∧
    (∀ i ∈ [Instr.vspecExp2 1 2 0, .vspecLog2 1 2 0, .vspecRcp 1 2 0, .vspecRsqrt 1 2 0, .vspecSqrt 1 2 0], Ready i base) := by
  refine ⟨fun t ht => ?_, ready_all (by decide)⟩
  simp only [List.mem_cons, List.not_mem_nil, or_false] at ht
  rcases ht with rfl | rfl | rfl <;> exact ⟨by decide, ready_all (by decide)⟩

/-- A pattern in each of the ranges, at its ends: the least and greatest of a range of magnitudes, and a power of two below the
normal range. -/
theorem witness_SpecialInputs :
    (0x7F800001 % 2 ^ 31 > 0x7F800000 ∧ 0xFFFFFFFF % 2 ^ 31 > 0x7F800000) ∧ (0x80000000 % 2 ^ 31 = 0) ∧
    (0 < 0x00000001 % 2 ^ 31 ∧ 0x807FFFFF % 2 ^ 31 < 0x00800000) ∧ (0x43000000 ≤ 0x7F7FFFFF ∧ 0x7F7FFFFF < 0x7F800000) ∧
    (0xC2FC0000 < 0xC2FC0001 ∧ 0xFF7FFFFF < 0xFF800000) ∧ (0x80000000 < 0x80000001 ∧ 0xFF800000 ≤ 0xFF800000) ∧ 0x00400000 = 2 ^ 22 ∧
    (0x7E800000 < 0xFE800001 % 2 ^ 31 ∧ 0x7F7FFFFF < 0x7F800000) ∧ (0 < 0x80200000 % 2 ^ 31 ∧ 0x80200000 % 2 ^ 31 ≤ 0x00200000) := by decide

theorem witness_VectorBits : (∀ i ∈ [Instr.vlogAnd .i32 1 2 3 0 false, .vlogOr .i8 1 2 3 0 true, .vlogXor .f32 1 2 3 1 false, .vlogAndn .n8 1 2 63 0 false,
    .vlogNot .i32 1 2 0, .vmov .f32 1 2 0, .vshShl .i8 1 2 3 0 false, .vshShr .i16 1 2 3 0 true, .vshSar .n32 1 2 3 0 false, .vbitClz .i32 1 2 0,
    .vbitCtz .i8 1 2 0, .vbitFfs .i16 1 2 0, .vbitPopc .n32 1 2 0, .vsel .f32 5 2 3 0 true 4, .vbfxN32 1 2 3 0 false, .vbfxI32 1 2 3 0 true,
    .vfshLeft .n32 1 2 3 0 false, .vfshRight .i32 1 2 3 0 true], Ready i base) := ready_all (by decide)

theorem witness_ComparesAndMasks : ∀ d ∈ [(0 : Fin 16), 3], (∀ t ∈ [VFmt.i8, .f32], ∀ i ∈ [Instr.vcmpEq t d 2 3 0 true, .vcmpNe t d 2 3 0 false,
      .vcmpLt t d 1 2 0 false, .vcmpLe t d 2 3 1 false, .vcmpGt t d 2 3 0 false, .vcmpGe t d 2 3 0 false], Ready i base) ∧
    Ready (.vcmpUo .f32 d 2 3 0 false) base ∧ (∀ i ∈ [Instr.vmaskAnd d 1 2 0, .vmaskOr d 1 2 0, .vmaskXor d 1 2 1, .vmaskAndn d 1 2 0,
      .vmaskNot d 1 0, .vmaskMov d 1 0], Ready i base) := by
  intro d hd
  simp only [List.mem_cons, List.not_mem_nil, or_false] at hd
  rcases hd with rfl | rfl
  all_goals
    refine ⟨fun t ht => ?_, ready_of (by decide), ready_all (by decide)⟩
    simp only [List.mem_cons, List.not_mem_nil, or_false] at ht
    rcases ht with rfl | rfl <;> exact ready_all (by decide)

theorem witness_VectorMoves : ∀ i ∈ [Instr.vshuf .i32 1 2 3 0 true, .vrot .f32 1 2 3 0 false, .vxg .n32 1 2 3 1 false, .vbcast .i8 1 2 0,
    .vext .i32 1 2 3, .vqpt .f32 10 11 12 0, .vredAdd .i32 20 21 0, .vredMax .i32 1 2 0, .vredMin .i32 1 2 0, .vredAdd .f32 20 21 0], Ready i base :=
  ready_all (by decide)

/-- Lanes 0 and 127 alone are written, under mask 1; `s2` is the start of core 0's scratchpad by its alias, `s3` memory. -/
def twoLanes : State := (withS base [(2, clean (0xFF * 2 ^ 48)), (3, clean 4096)]).modCx fun c => { c with regs := { c.regs with
  m := c.regs.m.set 1 { val := BitVec.ofNat 128 (2 ^ 127 + 1), tags := Tags.clean } } }
def twoLanesDet : State := twoLanes.modCx fun c => { c with task := deterministic.cx.task }

theorem witness_VectorMemory : (∀ i ∈ [Instr.vld .f32 1 2 0 1, .vst .f32 1 2 0 1, .vgath .f32 1 2 2 1, .vscat .f32 1 2 2 1, .vamoAdd .f32 1 2 3 1,
      .vamoAddSr 1 2 3 1, .vamoMin .i32 1 2 3 1, .vamoMax .n32 1 2 3 1, .vamoFmax .bf16 1 2 3 1], Ready i twoLanes) ∧ Ready (.vamoAddSr 1 2 3 1) twoLanesDet ∧
    ((twoLanes.reachRow .read (twoLanes.rowAddr 2 0) (twoLanes.wm 1).val).map fun l => l.map fun p => (p.1, p.2.va.toNat)) =
      .ok [(0, 0xFF * 2 ^ 48), (127, 0xFF * 2 ^ 48 + 508)] ∧
    (twoLanes.reachRow .write (twoLanes.rowAddr 2 0) (twoLanes.wm 1).val).isOk = true ∧
    (∀ a ∈ [Acc.read, .write], (twoLanes.reachLanes a (twoLanes.laneAddrs 2 2 1) (twoLanes.inScratch a)).isOk = true) ∧
    (twoLanes.rowAddr 2 0).toNat < 2 ^ 56 ∧ (twoLanes.rowAddr 2 0).toNat % 4 = 0 ∧
    (∀ p ∈ twoLanes.laneAddrs 2 2 1 ++ twoLanes.amoAddrs 2 3 1, p.2.toNat < 2 ^ 56 ∧ p.2.toNat % 4 = 0) ∧
    (∀ s ∈ [twoLanes, twoLanesDet], (s.reachLanes .atomic (s.amoAddrs 2 3 1) s.inVamo).isOk = true) ∧
    twoLanes.cx.deterministic = false ∧ twoLanesDet.cx.deterministic = true := by
  refine ⟨ready_all (by decide), ready_of (by decide), rfl, ?_, ?_, ?_, ?_, ?_, ?_, ?_, ?_⟩ <;> decide +kernel

/-- Whether spans reach their places, as a computation. -/
def spansB (s : State) (a : Acc) (takes : Piece → Bool) (l : List (BitVec 56 × Nat)) : Bool :=
  l.all fun q => match s.xlate s.cur.ctx s.cx.reg.ptroot s.supervisor a q.1 with
    | .ok loc => takes { va := q.1, loc := loc, len := q.2 }
    | .error _ => false

theorem spans_of {s : State} {a : Acc} {takes : Piece → Bool} {l : List (BitVec 56 × Nat)} (h : spansB s a takes l = true) :
    SpansReach s a takes l := by
  intro q hq
  have := List.all_eq_true.mp h q hq
  cases hx : s.xlate s.cur.ctx s.cx.reg.ptroot s.supervisor a q.1 with
  | ok loc => rw [hx] at this; exact ⟨loc, rfl, this⟩
  | error e => rw [hx] at this; cases this

/-- The row at the start of the scratchpad, the lanes at its two ends, and atomics on memory. -/
theorem witness_VectorMemory_spans :
    (∀ a ∈ [Acc.read, .write], SpansReach twoLanes a (twoLanes.inScratch a) (pagePieces (field (twoLanes.rowAddr 2 0) 0 56) 512 2) ∧
      SpansReach twoLanes a (twoLanes.inScratch a) ((twoLanes.laneAddrs 2 2 1).map fun p => (field p.2 0 56, 4))) ∧
    SpansReach twoLanes .atomic twoLanes.inVamo ((twoLanes.amoAddrs 2 3 1).map fun p => (field p.2 0 56, 4)) := by
  refine ⟨fun a ha => ?_, spans_of (by decide +kernel)⟩
  simp only [List.mem_cons, List.not_mem_nil, or_false] at ha
  rcases ha with rfl | rfl <;> exact ⟨spans_of (by decide +kernel), spans_of (by decide +kernel)⟩

/-! ## Witnesses: the transform slot -/

theorem witness_Conversions : (∀ i ∈ [Instr.xcvt 7 8 20 8, .xcvt 8 7 4 20, .xcvt 0xA 0 1 56, .xcvtSr 7 6 1 2 3], Ready i base) := ready_all (by decide)

theorem witness_BlockForms : (∀ i ∈ [Instr.xq false 7 4 30 8 3, .xq true 5 8 1 2 0, .xdq true 6 2 1 2 15, .xdq false 7 8 1 2 0], Ready i base) ∧
    (∃ v ∈ [FVal.nan false, FVal.num false 1 0], v.isNan = true) ∧ (∀ v ∈ [FVal.num true 0 0], ∃ s e, v = FVal.num s 0 e) ∧
    (∃ v ∈ [FVal.num false 3 0], ¬∃ s e, v = FVal.num s 0 e) := by
  refine ⟨ready_all (by decide), ⟨_, List.mem_cons_self, by decide⟩, fun v hv => ?_, ⟨_, List.mem_cons_self, ?_⟩⟩
  · rcases List.mem_singleton.mp hv with rfl
    exact ⟨_, _, rfl⟩
  · rintro ⟨s, e, h⟩
    cases h

/-- Handle 2 is a ring of four slots of 64 bytes in core 0's own scratchpad; handle 1 is unbound. The counts of `s3` and `s4` lie on
either side of those that one exponent of 16 elements takes. -/
def scaled : State := (withS base [(3, clean 17), (4, clean 0), (5, clean 16)]).modCx fun c => { c with regs := { c.regs with
  hg := c.regs.hg.set 2 0x8000_0000_3002_0000 } }

theorem witness_ScaleTransfers : (∀ b ∈ [(0 : Fin 64), 3, 4, 5], ∀ i ∈ [Instr.xsld false 0 false 2 2 2 b, .xsst false 0 false 2 2 2 b], Ready i scaled) ∧
    (∀ i ∈ [Instr.xsld true 3 true 0 2 1 0, .xsst true 3 true 0 2 1 0], Ready i scaled) ∧ hgValid (scaled.cx.regs.hg.get 1) = false ∧
    (∀ b ∈ [(0 : Fin 64), 5], (scaled.reachScale .read true 2 b 16 1 32 1).isOk = true ∧ (scaled.reachScale .write false 2 b 16 1 32 1).isOk = true) ∧
    scaled.cx.deterministic = false ∧ hgValid (scaled.cx.regs.hg.get 2) = true ∧ (scaled.readS 5).val.toNat ≤ (0 + 1) * 16 ∧
    (0 + 1) * 16 < (scaled.readS 3).val.toNat ∧ (scaled.readS 4).val.toNat + 16 ≤ (0 + 1) * 16 := by
  refine ⟨fun b hb => ready_all ?_, ready_all (by decide), by decide, by decide, by decide, by decide, by decide, by decide, by decide⟩
  revert b; decide

/-- Counts of none, one, the largest and one above it; the id of the loaded table and another. -/
def tabled : State := withS base [(2, clean 4096), (3, clean 1), (4, clean 8192), (5, clean 8193), (6, clean (0xFFFF * 2 ^ 32))]

theorem witness_TableForms : (∀ b ∈ [(0 : Fin 64), 3, 4, 5], Ready (.xtblPerm 2 b) tabled) ∧ Ready (.xtblKey 2) tabled ∧ Ready (.xperm 0 1 2 6) tabled ∧
    Ready (.xperm 2 1 2 3) tabled ∧ (tabled.readTable 4096 2 2).isOk = true ∧ (tabled.readTable 4096 32 32).isOk = true ∧
    (tabled.readS 6).val.toNat / 2 ^ 32 % 2 ^ 16 = tabled.kr.tblId.toNat ∧ (tabled.readS 3).val.toNat / 2 ^ 32 % 2 ^ 16 ≠ tabled.kr.tblId.toNat := by
  refine ⟨fun b hb => ready_of ?_, ready_of (by decide), ready_of (by decide), ready_of (by decide), ?_, ?_, ?_, ?_⟩
  · revert b; decide
  all_goals decide +kernel

theorem witness_LayoutForms : ∀ i ∈ [Instr.xtr 0 1 2, .xtr 2 62 2, .xpack 3 0 true true 1 2, .xpack 15 1 false false 1 2, .xunpk 3 0 true 1 2,
    .xunpk 31 2 false 1 2, .xexp 0 1 2 12, .xhad 0 false 1 2 3, .xhad 2 true 1 2 3, .xamax 7 0 2 3, .xamax 5 1 2 3], Ready i base := ready_all (by decide)

/-! ## Witnesses: the mirror and the engines -/

/-- The context owns quarter 0; q registers 1 and 2 name one row of 16 bytes of memory. -/
def mirrored : State := (base.setQuarters x0 1)
def full : State := mirrored.modCx fun c => { c with mqueue := List.replicate 8 (mirrored.mirrorOp (.mzero 0) []) }

def withQ (s : State) (q : Fin 8) (v : Nat) : State := s.modCx fun c => { c with regs := { c.regs with q := c.regs.q.set q (clean v) } }
/-- `q1` is a tile of one row of one entry, `q2` one beyond the accumulators, and `q3` names 8 bytes at address 4096. -/
def tiled : State := withQ (withQ (withQ mirrored 1 0) 2 (2047 * 2 ^ 53 + 511 * 2 ^ 30 + 16383 * 2 ^ 39)) 3 4096
/-- A load of array 0 has not completed. -/
def loading : State := tiled.modCore 0 fun k => { k with flagsDue := [{ owner := { ctx := x0, serial := 1 }, flag := 3, err := none, what := .load 0, first := 1, id := 1 }] }

/-- Operations that pass their checks, one that fails, a full queue, a load in the way and a context without a quarter. -/
theorem witness_MirrorQueue : (∀ i ∈ [Instr.mlds 0 3 1 1, .mswap 0, .mstream 0 1 true, .mstreamEyepiece 0 7 1 false, .mdrain 5 2 7 true, .mzero 1, .mzero 2,
      .mepl 3 1, .mseg 0 0 0, .mmode 0 false false 0 0, .mmode 1 false true 6 0, .mcall 3 0xA7 6], Ready i tiled) ∧
    Ready (.mzero 1) full ∧ full.cx.mqueue.length = 8 ∧ tiled.cx.mqueue = [] ∧ Ready (.mswap 0) loading ∧ loading.loading 0 0 = true ∧
    tiled.loading 0 0 = false ∧ tiled.loadsAhead x0 0 = false ∧ Ready (.mzero 1) base ∧ base.quarters x0 = 0 ∧ base.firstDue x0 (·.isLoad) = none ∧
    ((tiled.aheadOf x0).checkOp x0 (tiled.mirrorOp (.mzero 1) []) (.mzero 1)).isOk = true ∧
    ((tiled.aheadOf x0).checkOp x0 (tiled.mirrorOp (.mzero 2) []) (.mzero 2)).isOk = false := by
  refine ⟨ready_all ?_, ready_of ?_, ?_, ?_, ready_of ?_, ?_, ?_, ?_, ready_of ?_, ?_, ?_, ?_, ?_⟩ <;> decide +kernel

/-- A queued routine, and micro-steps of one idle word. -/
def calling : State := tiled.modCx fun c => { c with mqueue := [tiled.mirrorOp (.mcall 3 0xA7 6) []] }

theorem witness_MirrorRegisters : (∀ i ∈ [Instr.mqset 1 2, .mstat 9 true, .mephw 3 1 1023 true 63, .mephw 2 1 16 false 0], Ready i tiled) ∧
    (∀ i ∈ [Instr.mstat 9 false, .mephw 3 1 0 false 0], Ready i calling) ∧ calling.mirrorBusy x0 = true ∧ tiled.mirrorBusy x0 = false ∧
    calling.storeBusy x0 = true ∧ tiled.storeBusy x0 = false ∧ tiled.quarters x0 ≠ 0 ∧ 2 ^ 56 ≤ (tiled.readQ 2).val.toNat ∧
    (tiled.readQ 3).val.toNat = 4096 ∧ (tiled.readQ 1).val = 0 ∧
    (tiled.tilePieces x0 (tiled.mirrorOp (.mzero 0) []) .bundle (pagePieces 4096 4 4)).isOk = true ∧
    (match tiled.tilePieces x0 (tiled.mirrorOp (.mzero 0) []) .bundle (pagePieces 4096 4 4) with
      | .ok ps => (tiled.readA (tiled.me x0) ps).1.all (fun y => !y.2) && stepOk ((stepWords ((tiled.readA (tiled.me x0) ps).1.map (·.1)) 1).getD 0 1)
      | .error _ => false) = true := by
  refine ⟨ready_all ?_, ready_all ?_, ?_, ?_, ?_, ?_, ?_, ?_, ?_, ?_, ?_, ?_⟩ <;> decide +kernel

/-- A context whose queue holds one operation. -/
def queued (i : Instr) : State := tiled.modCx fun c => { c with mqueue := [tiled.mirrorOp i []] }

/-- The first row of the tile in `q1`, as an operation that consumes or makes rows finds it. -/
def rowAt (consumer : Bool) : BitVec 56 := (tiled.mirrorOp (.mzero 1) []).rowVa (tileOf ((tiled.mirrorOp (.mzero 1) []).q.get 1)) consumer 0
def rowLoc (consumer : Bool) : Loc :=
  match tiled.aliasLoc 0 (rowAt consumer) with
  | .ok l => l
  | .error _ => { home := 0, pa := 0, ver := none }
def rowKeys : List Nat := (List.range 4).map fun i => tiled.keyOf ((rowLoc false).add i)
/-- 32 bytes of memory, a column of an int8 tile. -/
def column : Piece := { va := 4096, loc := { home := 0, pa := 4096, ver := none }, len := 32 }

/-- The hypotheses of the data paths. -/
theorem witness_MirrorWork_data : (tiled.aliasLoc 0 (rowAt true)).isOk = true ∧ (tiled.aliasLoc 0 (rowAt false)).isOk = true ∧
    (∀ i ∈ [Instr.mepl 3 1, .mstream 0 1 true], PlainFor (queued i) (tiled.mirrorOp i []).owner .a 0 (rowLoc true) (recordBytes 0 true 1)) ∧
    (tiled.ctx x0).mmode = 0 ∧ (tileOf ((tiled.mirrorOp (.mzero 1) []).q.get 1)).len = 1 ∧ (tileOf ((tiled.mirrorOp (.mzero 1) []).q.get 1)).base = 0 ∧
    16 * 0 + (0 + 1) * arrayCols ((tiled.core 0).seg.get 0) 0 * mmEntry 0 ≤ 2 ^ 18 ∧ drainBytes 2 = 4 ∧ rowKeys.Nodup ∧
    (∀ k ∈ rowKeys, k < tiled.windowKey 0 1 0 ∨ tiled.windowKey 0 1 0 + mmEntry 0 ≤ k) ∧ tiled.views = [] ∧
    PlainFor tiled (tiled.mirrorOp (.mlds 0 3 1 1) []).owner .a 0 column.loc column.len ∧ Memory.wf (queued (.mstream 0 1 true)).mem = true := by
  refine ⟨?_, ?_, ?_, ?_, ?_, ?_, ?_, ?_, ?_, ?_, ?_, ?_, ?_⟩
  case refine_3 => unfold PlainFor Held; decide +kernel
  case refine_12 => unfold PlainFor Held; decide +kernel
  all_goals decide +kernel

/-- An operation of each kind at the head of the queue, and the sizes of two numbers that a float sum adds. -/
theorem witness_MirrorWork : (∀ i ∈ [Instr.mmode 1 false true 6 0, .mswap 0, .mseg 0 1 2, .mzero 1, .mepl 3 1, .mstream 0 1 true, .mdrain 5 1 2 true,
      .mlds 0 3 1 1, .mcall 3 0xA7 6], ((queued i).ctx x0).mqueue.map (fun o => (o.instr, o.routine)) = [(i, none)]) ∧ Memory.wf tiled.mem = true ∧
    mmMode 0 = 0 ∧ (2 ^ 0 ≤ (1 : Int).natAbs ∧ (1 : Int).natAbs < 2 ^ (0 + 1)) ∧ (2 ^ 1 ≤ (3 : Int).natAbs ∧ (3 : Int).natAbs < 2 ^ (1 + 1)) ∧
    tiled.firstDue x0 (·.isLoad) = none ∧ (loading.firstDue x0 (·.isLoad)).map (fun d => (d.owner.serial, d.flag)) = some (1, 3) ∧
    (loading.ctx x0).serial = 1 ∧ (loading.ctx x0).resident = true ∧ (loading.ctx x0).levels = [] := by
  refine ⟨?_, ?_, ?_, ?_, ?_, ?_, ?_, ?_, ?_, ?_⟩ <;> decide +kernel

/-- Channel 0 is bound; group 0 is this package alone; the ring has two domains. -/
def fabricked : State := (store base 7 [0x80]).modFabric fun f =>
  { f with ndom := 2, groups := [(0, BitVec.ofNat 512 0x8000)] }

/-- In deterministic mode no phase is open, and `s2` is the start of core 0's scratchpad. -/
def deterministicCopy : State := withS deterministic [(2, clean (0xFF * 2 ^ 48)), (4, clean 7)]

theorem witness_Commands : (∀ i ∈ [Instr.cpy 3 5 10 11 12, .cfill 0 31 0 1 62, .cred 0 0 1 2 3, .cgath 0 0 1 2 62, .cscat 0 0 1 2 3, .cbcast 0 0 1 2 3,
      .cxfm 0 0 1 2 3, .cstashSave 0 0 1 2 3, .cstashGet 2 7 20 21 13, .cstashPf 0 0 3, .cstashDrop 0 0 13, .cverFork 0 0 1, .cverRetire 0 0 1,
      .cverSettle 0 0 1, .csend 0 5 10 11 12, .crecv 0 0 1 2 3, .cmaintClean 0 0 1 2 3, .cmaintFlush 0 0 1 2 3, .cmaintInval 0 0 1 2 3,
      .cmaintTlb 0 0 1 2 3, .cpin 0 0 1 2 3, .cpinUnpin 0 0 1 2 3, .cmcast 0 9 4 5, .cnred 0 0 1 2 3, .cringReduceScatter 0 0 1 2 3,
      .cringAllGather 0 0 1 2 3, .cringReduceScatterF32 0 0 1 2 3, .cringAllGatherF32 0 0 1 2 62], Ready i fabricked) ∧
    Ready (.cmcast 0 9 4 5) user ∧ user.supervisor = false ∧ fabricked.supervisor = true ∧ chBound (fabricked.channelEntry 0) = true ∧
    (nredChecks (withS fabricked [(3, clean 1)]) ((withS fabricked [(3, clean 1)]).cmdRegs 1 2 3)).all (fun p => !p.1) = true ∧
    (ringChecks (withS fabricked [(3, clean 64)]) ((withS fabricked [(3, clean 64)]).cmdRegs 1 2 3)).all (fun p => !p.1) = true ∧
    fabricked.cx.deterministic = false ∧ fabricked.spanMisses (.cpy 3 5 10 11 12) (fabricked.cmdRegs 10 11 12) = none ∧
    deterministicCopy.spanMisses (.cfill 0 5 2 3 4) (deterministicCopy.cmdRegs 2 3 4) = some (BitVec.ofNat 56 (0xFF * 2 ^ 48)) ∧
    Ready (.cfill 0 5 2 3 4) deterministicCopy ∧ saveKeyBad 0 = false ∧ maintBad 0 = false ∧ maintBad 3 = false ∧
    (∀ z ∈ [2 * 2 ^ 48 + 3, 0xA * 2 ^ 48 + 0xFFFFFF, 2 ^ 55 + 6 * 2 ^ 48 + 1], credBytes (bits (BitVec.ofNat 64 z) 48 4) ≠ 0 ∧
      bits (BitVec.ofNat 64 z) 52 3 = 0 ∧ (flag (BitVec.ofNat 64 z) 55 = true → bits (BitVec.ofNat 64 z) 48 4 = 6) ∧
      (bits (BitVec.ofNat 64 z) 0 24 + 1) % credBytes (bits (BitVec.ofNat 64 z) 48 4) = 0) := by
  refine ⟨ready_all ?_, ready_of ?_, ?_, ?_, ?_, ?_, ?_, ?_, ?_, ?_, ready_of ?_, ?_, ?_, ?_, ?_⟩ <;> decide +kernel

/-- Whether a place takes a command's writes, and whether a read of one finds memory as it is, as computations. -/
def takesB (s : State) (c : Command) (l : Loc) (n : Nat) : Bool :=
  !(s.homeDead l.home) && l.ver.isNone && ((List.range n).all fun i => !(s.elsewhere (s.keyOf (l.add i) / 128))) &&
    ((List.range n).all fun i => !(isWindow (l.add i).pa.toNat)) && ((List.range n).all fun i => !(s.homeRefuses (l.add i) 1)) &&
    decide (placeKeys s l n).Nodup && s.views.all fun v => !(v.follows c.author)

theorem takes_of {s : State} {c : Command} {l : Loc} {n : Nat} (h : takesB s c l n = true) : Takes s c l n := by
  simp only [takesB, Bool.and_eq_true, Bool.not_eq_true', List.all_eq_true, List.mem_range, decide_eq_true_eq, Option.isNone_iff_eq_none] at h
  obtain ⟨⟨⟨⟨⟨⟨h1, h2⟩, h3⟩, h4⟩, h5⟩, h6⟩, h7⟩ := h
  exact ⟨h1, h2, h3, fun i hi => .inl (h4 i hi), h5, h6, h7⟩

def readsB (s : State) (o : Owner) (p : Path) (l : Loc) (n : Nat) : Bool :=
  ((List.range n).all fun i => !(isWindow (l.add i).pa.toNat)) && !(s.homeDead l.home) &&
    ((List.range n).all fun i => !(s.elsewhere (s.keyOf (l.add i) / 128))) && decide ((s.ctx o.ctx).ownStores p = []) && s.views.isEmpty &&
    (List.range n).all fun i => !(s.lostAt (s.keyOf (l.add i)))

theorem reads_of {s : State} {o : Owner} {p : Path} {l : Loc} {n : Nat} (h : readsB s o p l n = true) : PlainPlace l n ∧ PlainFor s o p 0 l n := by
  simp only [readsB, Bool.and_eq_true, Bool.not_eq_true', List.all_eq_true, List.mem_range, decide_eq_true_eq, List.isEmpty_iff] at h
  obtain ⟨⟨⟨⟨⟨h1, h2⟩, h3⟩, h4⟩, h5⟩, h6⟩ := h
  exact ⟨fun i hi => .inl (h1 i hi), h2, h3, h4, fun i hi => ⟨h6 i hi, fun v hv => by simp [h5] at hv⟩⟩

def piece (a n : Nat) : Piece := { va := BitVec.ofNat 56 a, loc := { home := 0, pa := BitVec.ofNat 52 a, ver := none }, len := n }

/-- The command of an instruction, from address 512 to 256, and the state in which it is at the head of its queue. -/
def copying (i : Instr) : Command := { fill with instr := i, b := 512 }

theorem witness_CommandWork_begin : (∀ i ∈ [Instr.cpy 0 5 1 2 3, .cfill 0 5 1 2 3, .cred 0 5 1 2 3, .cgath 0 5 1 2 3, .cscat 0 5 1 2 3],
      (commanded (copying i)).canBegin 0 0 = some (copying i) ∧ (commanded (copying i)).walkerFull 0 = false ∧ (commanded (copying i)).fabric.dir = []) ∧
    (∀ a ∈ [Acc.write, .atomic], ((commanded fill).pinSpan fill a 256 8).isOk = true) ∧ ((commanded fill).pinSpan fill .read 512 8).isOk = true ∧
    (match (commanded fill).pinSpan (copying (.cgath 0 5 1 2 3)) .read 0 4 with
      | .ok [p] => p == piece 0 4
      | _ => false) = true ∧
    (PlainPlace (piece 0 4).loc 4 ∧ PlainFor (commanded fill) fill.owner (copying (.cgath 0 5 1 2 3)).path 0 (piece 0 4).loc 4) ∧
    ((commanded { fill with a := BitVec.ofNat 64 (2 ^ 56 - 64) }).pinSpan { fill with a := BitVec.ofNat 64 (2 ^ 56 - 64) } .write (2 ^ 56 - 64) 8).isOk = false ∧
    ((commanded { fill with a := BitVec.ofNat 64 (2 ^ 56 - 64) }).canBegin 0 0).isSome = true := by
  refine ⟨?_, ?_, ?_, ?_, reads_of ?_, ?_, ?_⟩ <;> decide +kernel

/-- A copy with a row to move, from address 512, and what a transformation found. -/
def onRow (i : Instr) (c : Nat) (z : Option Xfm) : Moving :=
  { cmd := { copying i with c := BitVec.ofNat 64 c }, rows := [{ va := 256, len := 8, dst := [piece 256 8], src := if i = .cfill 0 5 1 2 3 then [] else [piece 512 8] }], ws := [], xfm := z }
def moving (m : Moving) : State := base.modCore 0 fun k => { k with queue := k.queue.set 0 [m.cmd], moving := [m] }
/-- A record of a row of two f32 elements. -/
def record (n : Nat) : BitVec 256 := BitVec.ofNat 256 (7 + 0xFFFF * 2 ^ 16 + 0x3F800000 * 2 ^ 128 + n * 2 ^ 160 + 2 ^ 192 + 2 ^ 224)

theorem witness_CommandWork_rows : (∀ m ∈ [onRow (.cpy 0 5 1 2 3) 7 none, onRow (.cgath 0 5 1 2 3) 7 none, onRow (.cscat 0 5 1 2 3) 7 none, onRow (.cbcast 0 5 1 2 3) 7 none,
      onRow (.cfill 0 5 1 2 3) 7 none, onRow (.cred 0 5 1 2 3) (2 * 2 ^ 48 + 7) none, onRow (.cxfm 0 5 1 2 3) 0 (some { src := record 2, dst := record 2, bad := false, table := [] })],
      (moving m).movingAt 0 0 = some m ∧ m.cmd.owner.ctx = x0 ∧ m.rows.map (·.dst) = [[piece 256 8]] ∧ (moving m).fabric.dir = [] ∧ Memory.wf (moving m).mem = true ∧
      Takes (moving m) m.cmd (piece 256 8).loc 8 ∧ (PlainPlace (piece 512 8).loc 8 ∧ PlainFor (moving m) m.cmd.owner m.cmd.path 0 (piece 512 8).loc 8) ∧
      (moving m).heldSpan [piece 512 8] = 8 ∧ (∀ k ∈ placeKeys (moving m) (piece 512 8).loc 8, k ∉ placeKeys (moving m) (piece 256 8).loc 8)) ∧
    (credBytes ((2 * 2 ^ 48 + 7) / 2 ^ 48 % 2 ^ 4) = 4 ∧ (∀ k ∈ placeKeys base (piece 256 8).loc 8, base.lostAt k = false) ∧
      ∀ e < 2, (moving (onRow (.cred 0 5 1 2 3) (2 * 2 ^ 48 + 7) none)).homeRefuses ((piece 256 8).loc.add (e * 4)) 4 = false) ∧
    hdrRowBytes (record 2) = 8 ∧ bits (record 2) 128 31 ≠ 0 := by
  refine ⟨fun m hm => ⟨?_, ?_, ?_, ?_, ?_, takes_of ?_, reads_of ?_, ?_, ?_⟩, ?_, ?_, ?_⟩ <;>
    first | decide +kernel | (revert m; decide +kernel)

/-- The record of 32 bytes at 512, the data at 1024, and an object that fits them. -/
def stashing (i : Instr) (o : List StashObj) : State :=
  { store (commanded { copying i with a := 1024, c := 0 }) 512 (bytesOf 32 (record 8).toNat) with stash := o }
def kept : StashObj := { stage := 0, layer := 0, tag := 0, place := 0, size := 32, far := 32, near := 32, header := record 8, lossy := none, data := List.replicate 32 7, lost := [] }

theorem witness_CommandWork_stash : (∀ p ∈ [(Instr.cstashSave 0 5 1 2 3, ([] : List StashObj)), (.cstashGet 0 5 1 2 3, [kept])],
      (stashing p.1 p.2).canBegin 0 0 = some { copying p.1 with a := 1024, c := 0 } ∧
      (match (stashing p.1 p.2).pinSpan { copying p.1 with a := 1024, c := 0 } .read 512 32 with
        | .ok [q] => q == piece 512 32
        | _ => false) = true ∧
      (PlainPlace (piece 512 32).loc 32 ∧ PlainFor (stashing p.1 p.2) fill.owner (copying p.1).path 0 (piece 512 32).loc 32) ∧
      (PlainPlace (piece 1024 32).loc 32 ∧ PlainFor (stashing p.1 p.2) fill.owner (copying p.1).path 0 (piece 1024 32).loc 32) ∧
      Takes (stashing p.1 p.2) { copying p.1 with a := 1024, c := 0 } (piece 1024 32).loc 32 ∧ Memory.wf (stashing p.1 p.2).mem = true) ∧
    BitVec.ofNat 256 (valueAt (stashing (.cstashSave 0 5 1 2 3) []) (piece 512 32).loc 32) = record 8 ∧ hdrValid (record 8) = true ∧
    hdrRows (record 8) * hdrRowBytes (record 8) = 32 ∧ bits (0 : Word) 61 3 < 3 ∧ saveOk (base.core 0) 0 (record 8) = true ∧
    (stashing (.cstashGet 0 5 1 2 3) [kept]).findStash (0, 0, 0) = some kept ∧ getOk (base.core 0) kept (record 8) = true := by
  refine ⟨fun p hp => ⟨?_, ?_, reads_of ?_, reads_of ?_, takes_of ?_, ?_⟩, ?_, ?_, ?_, ?_, ?_, ?_, ?_⟩ <;>
    first | decide +kernel | (revert p; decide +kernel)

/-- A send of 8 bytes at 256 on channel 0, which is bound to this package's channel 0 or to package 1. -/
def sendCmd : Command := { fill with instr := .csend 0 5 1 2 3, b := 8, c := 0 }
def sending (far : Bool) : State := (store (commanded sendCmd) 0 [0, 0, 0, 0, if far then 0x80 else 0, 0, 0, 0x80]).modFabric fun f => { f with
  windows := [(0, { cmd := { fill with instr := .crecv 0 5 1 2 3, id := 12, owner := { ctx := x0, serial := 1 } }, places := [piece 512 16], len := 16, fill := 8, lost := false })] }

theorem witness_CommandWork_send : (∀ far ∈ [false, true], (sending far).canBegin 0 0 = some sendCmd ∧ (sending far).walkerFull 0 = false ∧
      chBound ((sending far).channelEntry 0) = true ∧ chPeer ((sending far).channelEntry 0) = (if far then 1 else 0) ∧
      (sending far).homeDead (chPeer ((sending far).channelEntry 0)) = false ∧
      (match (sending far).pinSpan sendCmd .read 256 8 with
        | .ok [q] => q == piece 256 8
        | _ => false) = true) ∧
    chAccepts ((sending false).channelEntry 0) 0 0 = true ∧ (PlainPlace (piece 256 8).loc 8 ∧ PlainFor (sending false) fill.owner sendCmd.path 0 (piece 256 8).loc 8) ∧
    (∃ w, WindowTakes (sending false) 0 w (piece 512 16) 8) ∧ Memory.wf (sending false).mem = true := by
  refine ⟨?_, ?_, reads_of ?_, ⟨_, rfl, ?_, rfl, rfl, takes_of ?_, ?_, ?_⟩, ?_⟩ <;> decide +kernel

/-- A command that has moved its bytes, with an error or an object or neither, in a state with a list of objects. -/
def finishing (i : Instr) (e : Option Cause) (o : Option StashObj) (scope : Fin 8) (a : Nat) : State :=
  let c : Command := { fill with instr := i, scope := scope, a := BitVec.ofNat 64 a, c := 0 }
  base.modCore 0 fun k => { k with queue := k.queue.set 0 [c], done := [{ Done.of c e with obj := o }] }
/-- The same, with an acknowledgment due for a byte it wrote. -/
def owing : State := { finishing (.cpy 0 5 1 2 3) none none 4 256 with fabric := acking.fabric, views := acking.views.map fun v => { v with cmd := some 9 } }
/-- Version 0 of team stage 0 is live, in a package with versions, and has a private line. -/
def versioned (s : State) : State := { s with vrb := s.vrb.set 0 (BitVec.ofNat 64 (2 ^ 63 + 2 ^ 52)), priv := [(0, 0, 3)] }

theorem witness_CommandWork : (∀ e ∈ [none, some Cause.align], ∀ i ∈ [Instr.cpy 0 5 1 2 3, .cstashSave 0 5 1 2 3, .cstashDrop 0 5 3, .cstashGet 0 5 1 2 3, .cverFork 0 5 1, .cverRetire 0 5 1,
      .cverSettle 0 5 1], ((finishing i e (some kept) 0 256).core 0).done.map (fun d => (d.cmd.instr, d.err, d.outside)) = [(i, e, false)] ∧
      (finishing i e (some kept) 0 256).unsettled 9 = false ∧ (finishing i e (some kept) 0 256).fabric.sent = [] ∧
      ((finishing i e (some kept) 0 256).core 0).done.all (fun d => !((finishing i e (some kept) 0 256).walksOn d)) = true) ∧
    (base.ctx x0).resident = true ∧ (base.ctx x0).levels = [] ∧ (base.ctx x0).serial = 1 ∧
    owing.acksFor (fun v => v.cmd == some 9) = true ∧ ((owing.core 0).done.map fun d => (d.cmd.scope, d.cmd.id)) = [(4, 9)] ∧
    (base.findStash kept.key = none ∧ (({ base with stbud := base.stbud.set 0 1 } : State).stashPlace kept 0).isSome = true) ∧ ({ base with stash := [kept] } : State).findStash kept.key = some kept ∧
    base.stashPlace kept 0 = none ∧
    ((versioned base).versionLive 0 0 = true ∧ (versioned base).versionLive 0 1 = false ∧ flag ((versioned base).vrb.get 0) 63 = true) ∧
    (verKind 1 = 0 ∧ verNum 1 = 1 ∧ verSrc 1 = 0 ∧ verKind 256 = 1 ∧ verNum 256 = 0 ∧ verKind 512 = 2) ∧
    (∀ w : Fin 8, (versioned base).versionLive 0 w = decide (w = 0)) ∧ (versioned base).priv.Nodup ∧ (∀ p ∈ (versioned base).priv, p.2.2 < 2 ^ 56) ∧
    (versioned base).privLines 0 0 = [3] ∧ (versioned base).elsewhere 3 = false ∧
    ({ base with prefetch := [(0, 1, 2)] } : State).prefetch ≠ [] := by
  refine ⟨?_, ?_, ?_, ?_, ?_, ?_, ?_, ?_, ?_, ?_, ?_, ?_, ?_, ?_, ?_⟩ <;> decide +kernel

/-! ## Witnesses: events of the cores -/

def adding : State := base.modCtx x0 fun c => { c with released := [{
  id := 1, kind := .counter false 0 0 7 5, lanes := [], cls := 0, scope := 0, path := .l, parked := none, resent := none, phase := none }] }

theorem witness_StoresPerform : (released.ctx x0).mayPerform 0 = true ∧ (released.ctx x0).released.map (fun o => (o.kind, o.lanes.length)) = [(.plain, 1)] ∧
    Memory.wf released.mem = true ∧
    ((released.ctx x0).released.all fun o => o.lanes.all fun l => l.loc.ver.isNone && !(released.homeRefuses l.loc l.bytes.length) && !(released.homeDead l.loc.home) &&
      !(isWindow l.loc.pa.toNat) && (List.range l.bytes.length).all fun i => !(released.elsewhere (released.keyOf (l.loc.add i) / 128))) = true ∧
    (((released.ctx x0).released.flatMap fun o => o.lanes.flatMap fun l => (List.range l.bytes.length).map fun i => released.keyOf (l.loc.add i)).Nodup) ∧
    ((parkedStore.ctx x0).released.map (·.parked)) = [some .xlate] ∧ (adding.ctx x0).mayPerform 0 = true ∧
    ((adding.ctx x0).released.map (·.kind)) = [.counter false 0 0 7 5] ∧ (adding.counters.Pairwise fun p q => p.1 < q.1) ∧
    ({ base with flush := [7] } : State).flush ≠ [] := by
  refine ⟨?_, ?_, ?_, ?_, ?_, ?_, ?_, ?_, ?_, ?_⟩ <;> decide +kernel

/-- A load whose data has not come, an `rld` past its latency, one overdue, a spilled register, a load block and a watch whose
counter has reached its threshold. -/
def arriving : State :=
  let s := (base.modCtx x0 fun c => { c with
    delay := [{ left := 2, landing := .s 1 (clean 1), arrived := false, rld := false, peer := none }]
    overdue := [{ id := 3, d := 4, x := clean 9, peer := none, shadow := false, live := true }]
    wn := c.wn.set 2 (BitVec.ofNat 64 (2 ^ 63 + 25 * 2 ^ 57 + 7)), wt := c.wt.set 2 5 }).modCore 0 fun k => { k with
    blocks := [{ id := 4, due := some { owner := { ctx := x0, serial := 1 }, flag := 6, err := none, what := .block, first := 0, id := 0 }, lines := [1] }] }
  { s with counters := [(7, 5)] }
def overdueNow : State := base.modCtx x0 fun c => { c with delay := [{ left := 0, landing := .s 1 (clean 1), arrived := true, rld := true, peer := none }] }
/-- A page walk for an address that no table translates is under way. -/
def walking : State := base.modCtx x0 fun c => { c with walk := some { va := 0x9000_0000, ptroot := 0, spec := none, n := 0, running := true, failed := none } }
/-- A walk through three tables to a leaf of 1 GiB, for a bundle or for a speculative load of 8 bytes. -/
def tabled3 (leaf : Nat) (spec : Option (Bool × Nat)) : State := (store (store (store base 0x10000 (bytesOf 8 (2 ^ 63 + 0x11000))) 0x11000 (bytesOf 8 (2 ^ 63 + 0x12000)))
  0x12010 (bytesOf 8 leaf)).modCtx x0 fun c => { c with walk := some { va := 0x9000_0000, ptroot := 0x20, spec := spec, n := 0, running := true, failed := none } }
def spilt : State := base.modCore 0 fun k => { k with vslots := k.vslots.drop 1, spilled := [{ slot := 0, reg := 0, keep := false, back := false }] }

theorem witness_Arrivals : (arriving.ctx x0).delay.map (fun e => (e.left, e.arrived, e.rld)) = [(2, false, false)] ∧ (arriving.core 0).bank = none ∧
    (arriving.ctx x0).overdue.map (·.live) = [true] ∧ (overdueNow.ctx x0).delay.map (·.left) = [0] ∧ (overdueNow.ctx x0).frozen = false ∧
    (arriving.core 0).blocks.map (fun b => b.due.map (fun d => (d.owner.serial, d.flag))) = [some (1, 6)] ∧ (arriving.ctx x0).resident = true ∧
    (arriving.ctx x0).levels = [] ∧ arriving.watchDead x0 2 = false ∧ arriving.watchMet x0 2 = true ∧
    (spilt.core 0).vslots.length < spilt.shareSlots 0 ∧ (spilt.core 0).residentV 0 0 = false ∧ (spilt.fill x0 0 [0]).isOk = true ∧
    (∀ leaf ∈ [0xC780_0000_0000_0000, 0xC380_0000_0000_0000], (match (tabled3 leaf (some (true, 8))).walk 0 0x9000_0000 levels (ptTable 0x20) with
      | .ok (w, level) => w.toNat == leaf && level == 2 && (tabled3 leaf none).leafRefuses x0 0x9000_0000 w level true 8 == decide (leaf = 0xC380_0000_0000_0000)
      | .error _ => false) = true) ∧
    (walking.ctx x0).walk.isSome = true ∧ (walking.walk 0 0x9000_0000 levels (ptTable 0)).isOk = false ∧ interrupted.firstServed 0 = none ∧ (listening.firstServed 0) = some x0 := by
  refine ⟨?_, ?_, ?_, ?_, ?_, ?_, ?_, ?_, ?_, ?_, ?_, ?_, ?_, ?_, ?_, ?_, ?_, ?_⟩ <;> decide +kernel

/-- A queue of 64 records at address 0x10000, and a record that waits. -/
def recording : State := { base.takeFault x0 .align 0 Info.none with frq := 0x10080 }
def fullQueue : State := { recording with frHead := 64 }

theorem witness_Supervision : recording.waiting.length = 1 ∧ recording.recordRoom = true ∧ (recording.ctx x0).mqueue = [] ∧ Memory.wf recording.mem = true ∧
    (recording.counters.Pairwise fun p q => p.1 < q.1) ∧ fullQueue.recordRoom = false ∧ bits (0x10680 : Word) 0 7 = 0 ∧ bits (0x10680 : Word) 8 4 ≤ 6 ∧
    (base.ctx x0).resident = true ∧ (base.ctx x0).levels = [] ∧ (base.ctx { core := 0, slot := 1 }).resident = false ∧
    ((base.ctx x0).frozen = false ∧ ∀ j, armed ((base.ctx x0).wn.get j) = false) ∧
    (armed ((arriving.ctx x0).wn.get 2) = true ∧ (∀ k, k ≠ 2 → armed ((arriving.ctx x0).wn.get k) = false) ∧ arriving.nameHere (watchName ((arriving.ctx x0).wn.get 2)) = true ∧
      arriving.nameDead (watchName ((arriving.ctx x0).wn.get 2)) = false ∧ (4 : Word).toNat ≤ (arriving.counter 7).toNat ∧ (arriving.counter 7).toNat < (6 : Word).toNat ∧
      (arriving.ctx x0).frozen = false) ∧
    (15 : Word).setWidth 4 &&& base.otherQuarters x0 = 0 ∧ base.mirrorBusy x0 = false ∧ calling.mirrorBusy x0 = true ∧ calling.otherQuarters x0 = 0 ∧
    carveBad carveReset = false ∧ base.carveFits x0 carveReset = true ∧ base.coreSettled x0 = true ∧ carveBad 0 = true ∧ hgBad 0 = false ∧
    hsBad (ringed.cx.regs.hg.get 2) 3 = false ∧ base.vrbBad 0 0 = false ∧ (0x001 ∈ plainRegisters ∧ base.ctlBad x0 0x001 4 = none) ∧
    (0x001 ∈ plainRegisters ∧ (base.ctlBad x0 0x001 5).isSome = true) := by
  refine ⟨?_, ?_, ?_, ?_, ?_, ?_, ?_, ?_, ?_, ?_, ?_, ?_, ?_, ?_, ?_, ?_, ?_, ?_, ?_, ?_, ?_, ?_, ?_, ?_, ?_, ?_⟩ <;> decide +kernel

def oneNode : Node := { head := 0x2000, after := false, w := 1, h := 1, cycles := 1, quart := 0, pol := 0, sup := false, stencil := 0, needs := [] }
def inst7 : Inst := {
  id := 7, team := 0, seqwin := 0, tag := 9, prio := 1, tokens := 0, arg := 5, ccnt := 0, nodes := [oneNode], retired := [], started := []
  killed := [], met := [], origin := none }
def key7 : TaskKey := { inst := 7, node := 0, x := 0, y := 0 }
def task (pol : Fin 4) : Task := { key := { key7 with inst := 6 }, tag := 0, prio := 5, head := 0x2000, cycles := 1, pol := pol, quart := 0, elapsed := 0, counted := false
                                   det := 0, start := 0 }
/-- An empty core with a ready task. -/
def waitingTask : State := { State.reset with insts := [inst7] }
/-- Meridian 0 has one row, for queue F, whose graph is at 0x1000 or at an address without a graph, and an entry in F. -/
def firing (g : Nat) : State := graphed.modMeridian 0 fun d => { d with
  pol := d.pol.set 0 (BitVec.ofNat 64 (2 ^ 63 + 2 ^ 54 + 127 * 2 ^ 26 + 255 * 2 ^ 18)), gr := d.gr.set 0 (BitVec.ofNat 64 (2 ^ 63 + g)), ctl := BitVec.ofNat 64 (2 ^ 63)
  queue := d.queue.set 0 [(3, 4)], owner := some x0 }

theorem witness_TaskStarts : (waitingTask.ctx x0).resident = false ∧ (waitingTask.nextFor x0).map (fun r => (r.saved, r.key)) = some (false, key7) ∧
    (waitingTask.inst? 7).map (fun i => i.nodes[0]?) = some (some oneNode) ∧ bits (waitingTask.ctx x0).reg.detctl 0 2 = 0 ∧
    (stopped.ctx x0).status = .halted ∧ (stopped.ctx x0).resume = some (BitVec.ofNat 512 (64 * 2 ^ 128)) ∧
    ((stopped.modCx fun c => { c with task := some (task 0) }).ctx x0).task = some (task 0) ∧ (stopped.ctx x0).released = [] ∧
    ((firing 0x1000).firingRow 0).map (fun p => (p.1, p.2.q)) = some (x0, 0) ∧ (firing 0x1000).fabric.heldEntries = [] ∧
    (∀ p ∈ [(0x1000, true), (0x1040, false)], (match (firing p.1).readGraph x0 true .device (BitVec.ofNat 56 p.1) ((firing p.1).ctx x0).regs.stencil 0 with
      | .ok g => some g.valid
      | .error _ => none) = some p.2) := by
  refine ⟨?_, ?_, ?_, ?_, ?_, ?_, ?_, ?_, ?_, ?_, ?_⟩ <;> decide +kernel

/-- Both slots of core 0 run tasks of lower priority than the one that waits; of a policy. -/
def pressed (pol : Fin 4) : State := { (base.modCtx x0 fun c => { c with task := some (task pol) }).modCtx { core := 0, slot := 1 } fun c =>
  { c with status := .running, serial := 2, task := some { task pol with prio := 3 } } with insts := [inst7] }
def evicting : State := ((pressed 1).modCore 0 fun k => { k with clock := 512 }).modCtx x0 fun c => { c with evict := some { since := 0, reached := false }, atCkpt := false }
/-- A decision has been put off to the third cycle of a slice of four. -/
def deferred : State := (pressed 1).modCtx x0 fun c => { c with deferTo := some 3, slice := 4, reg := { c.reg with swcost := 4 * 2 ^ 32 } }
def leaving (st : Status) : State := (pressed 1).modCtx x0 fun c => { c with status := st, evict := some { since := 0, reached := true }, reg := { c.reg with tpool := 1 } }
def returning : State := { State.reset with saved := [{ key := key7, ctx := { Ctx.reset with task := some { task 1 with key := key7 } }, acc := [], segs := [], eyes := [], frame := 0
                                                        pool := 0, halted := false, due := [], log := 0, place := x0, image := [] }] }

theorem witness_Preemption : (∀ p ∈ [(0 : Fin 4), 2], (inOrder ((pressed p).readyOn 0)).map (·.key) = [key7] ∧
      (((pressed p).slotsOf 0).any fun y => (pressed p).slotFree y 0) = false ∧
      (((inOrder ((pressed p).readyOn 0)).head?.bind fun r => (pressed p).victim 0 r) = some (x0, task p))) ∧ ((pressed 0).ctx x0).deferTo = none ∧
    bits ((pressed 0).ctx x0).reg.swcost 0 32 ≤ ((pressed 0).ctx x0).slice ∧
    ((waitingTask.readyOn 0).all fun r => (waitingTask.slotsOf 0).any fun y => waitingTask.slotFree y r.quart) = true ∧
    (evicting.ctx x0).evict = some { since := 0, reached := false } ∧ (evicting.ctx x0).releasing = none ∧ (evicting.core 0).clock.toNat = 0 + 512 ∧ (evicting.ctx x0).frozen = false ∧ evicting.mayRelease x0 = true ∧
    ((deferred.ctx x0).deferTo = some 3 ∧ 3 ≤ (deferred.ctx x0).slice ∧ (deferred.ctx x0).task.isSome = true ∧
      bits (deferred.ctx x0).reg.swcost 32 16 = 4 ∧ 4 ≤ (deferred.ctx x0).slice) ∧
    (∀ st ∈ [Status.running, .halted], (leaving st).freeFrame x0 = some 0 ∧ (leaving st).maySwitch x0 = true ∧ ((leaving st).ctx x0).released = [] ∧
      ((leaving st).ctx x0).winWrites = [] ∧ (∀ v ∈ ((leaving st).core 0).spilled, v.slot ≠ 0) ∧ (((leaving st).ctx x0).evict.any fun e => e.reached) = true) ∧
    (returning.nextFor x0).map (fun r => (r.saved, r.key)) = some (true, key7) ∧ (returning.saved.all fun v => returning.frameImage v.frameNo == v.image) = true := by
  refine ⟨?_, ?_, ?_, ?_, ?_, ?_, ?_, ?_, ?_, ?_, ?_, ?_, ?_⟩ <;> decide +kernel

/-! ## Witnesses: the fabric and management -/

/-- Channel 0 takes messages of this package, and a window of 16 bytes at address 512 is open for it. -/
def window : Window := { cmd := { fill with instr := .crecv 0 5 1 2 3 }, places := [{ va := 512, loc := { home := 0, pa := 512, ver := none }, len := 16 }], len := 16
                         fill := 8, lost := false }
def windowed : State := (store base 7 [0x80]).modFabric fun f => { f with windows := [(0, window)] }
def ringing : State := base.modFabric fun f => { f with
  rings := [{ cmd := { fill with instr := .cringReduceScatter 0 5 1 2 3, c := 64 }, data := [], wire := [], lost := false }]
  inbox := [{ id := 0, kind := 0, step := 0, n := 0, lost := false, data := [] }] }

/-- 63 chunks of contributions of rank 1 are held for rank 0. -/
def holding : State := base.modFabric fun f => { f with
  early := (List.range 63).map fun i => (0, 0, { chunk := i, rank := 1, fits := true, lost := false, data := [] }) }

theorem witness_Collectives : (∃ w, WindowTakes windowed 0 w (piece 512 16) 8) ∧
    64 ≤ (holding.modFabric fun f => { f with early := f.early ++ [(0, 0, { chunk := 63, rank := 1, fits := true, lost := false, data := [] })] }).heldChunks.length ∧
    (holding.fabric.reductions.find? fun r => r.isFor 0 0) = none ∧
    chAccepts (windowed.channelEntry 0) 0 0 = true ∧ windowed.homeDead 0 = false ∧ windowed.fabric.heldMsgs = [] ∧
    (windowed.openWindow 0).map (fun w => (decide (w.fill + 8 ≤ w.len), w.places.map (·.len))) = some (true, [16]) ∧
    windowed.homeDead 0 = false ∧ ((List.range 16).all fun i => !(windowed.homeRefuses (Loc.add { home := 0, pa := 512, ver := none } i) 1)) = true ∧
    Memory.wf windowed.mem = true ∧ chAccepts (base.channelEntry 0) 0 0 = false ∧ (base.fabric.reductions.find? fun r => r.isFor 0 0) = none ∧
    base.ringDead (-1) = false ∧ (base.fabric.port.get 5).isolated = false ∧
    { id := 0, kind := 0, step := 0, n := 0, lost := false, data := [] } ∈ ringing.fabric.inbox ∧ base.fabric.inbox = [] ∧
    (base.fabric.rings.find? fun r => r.takes { id := 0, kind := 0, step := 0, n := 0, lost := false, data := [] }) = none ∧
    ((ringing.fabric.rings.find? fun r => r.takes { id := 0, kind := 0, step := 0, n := 0, lost := false, data := [] }).map fun r => r.cmd.c.toNat % 2 ^ 27) = some 64 ∧ windowed.fabric.dir = [] ∧ windowed.views = [] := by
  refine ⟨⟨_, rfl, ?_, rfl, rfl, takes_of ?_, ?_, ?_⟩, ?_, ?_, ?_, ?_, ?_, ?_, ?_, ?_, ?_, ?_, ?_, ?_, ?_, ?_, ?_, ?_, ?_, ?_, ?_⟩ <;> decide +kernel

/-- Line 5 has a sharer, package 1, besides its owner to be, package 2; line 6 is owned by package 1, the one peer that has a bit of
its own; line 9 of package 3 is dirty in a cache here. -/
def shared : State := (base.modFabric fun f => { f with
  peer := f.peer.set 0 0x8001
  dir := [{ DirEntry.empty 5 with state := .s, exact := 1, waitAck := [1], newOwner := some 2 }, { DirEntry.empty 6 with state := .m, owner := 1 }]
  copies := [{ home := 3, line := 9, state := .m }] }).modCore 0 fun k =>
  { k with l1 := [{ line := globalLine 3 9, way := 0, rrpv := 0, block := none, dirty := true, undo := Undo.none }] }

theorem witness_FabricDirectory : shared.mayServe 4 1 = true ∧ shared.mayServe 6 2 = true ∧ shared.invalidated (shared.dirEntry 4) 1 = [] ∧
    shared.invalidated (shared.dirEntry 6) 2 ≠ [] ∧ shared.peerIndex 1 = some 0 ∧ shared.peerIndex 2047 = none ∧
    (shared.dirEntry 5).newOwner = some 2 ∧ (shared.dirEntry 5).waitAck = [1] ∧ shared.homeDead 1 = false ∧ (shared.dirEntry 6).owned 1 = true ∧
    (acking.dirEntry 5).newOwner = some acking.fabric.coord ∧ Memory.wf shared.mem = true ∧ shared.ownsRemote (globalLine 3 9) = true ∧ shared.homeDead 3 = false ∧
    (shared.dirEntry 6).newOwner = none ∧ (shared.dirEntry 5).newOwner.isSome = true ∧ shared.fabric.heldMsgs = [] ∧ acking.fabric.heldMsgs = [] := by
  refine ⟨?_, ?_, ?_, ?_, ?_, ?_, ?_, ?_, ?_, ?_, ?_, ?_, ?_, ?_, ?_, ?_, ?_, ?_⟩ <;> decide +kernel

/-- The control complex owns the semaphore of a package that has booted. -/
def owned : State := base.modMgmt fun g => { g with
  owner := some .controlComplex
  lease := 5
  epoch := 41
  open_ := true
  nonce := 8
  opSeq := some 2
  opKey := BitVec.ofNat 512 (ofBytes (Config.shake256 [1] 64)) }
def freed : State := owned.modMgmt fun g => { g with owner := none }

/-- Both ring ports in long-haul mode, past half their frame counters. -/
def longHaul : State := base.modFabric fun f => { f with
  port := (f.port.set 4 { Port.reset with longHaul := true, counter := 2 ^ 31, epoch := 1, rxEpoch := 1, keys := [(1, [7])] }).set 5 { Port.reset with longHaul := true, counter := 2 ^ 31 }
  sent := [{ dst := 1, stream := 0, seq := 0, data := .other [], sends := 1, cmd := some 9 }] }

theorem witness_FabricPorts : (∀ n : Fin 2, (longHaul.fabric.port.get (ringPort n)).longHaul = true ∧ (longHaul.fabric.port.get (ringPort n)).up = true ∧
      2 ^ 31 ≤ (longHaul.fabric.port.get (ringPort n)).counter ∧ (longHaul.fabric.port.get (ringPort n)).epoch = (longHaul.fabric.port.get (ringPort n)).newest ∧
      (longHaul.fabric.port.get (ringPort n)).counter < 2 ^ 32) ∧
    (longHaul.fabric.port.get 4).expected = (1, 0) ∧ ((longHaul.fabric.port.get 4).keyOf 1).isSome = true ∧
    ((longHaul.fabric.port.get 4).keyOf (longHaul.fabric.port.get 4).epoch).isSome = true ∧ (longHaul.fabric.port.get 5).keyOf (longHaul.fabric.port.get 5).epoch = none ∧
    (owned.mgmt.open_ = true ∧ owned.mgmt.owner = some .controlComplex) ∧
    longHaul.deadPeer (1, 0) = false ∧ ((List.range 8).filter fun i => (longHaul.fabric.port.get 4).lanes.getLsbD i).length = 8 ∧ ((1000 * 1200 + 0) * (8 * 400000) + 1000 * 2 ^ 32 + 1000 * (8 * 400000) - 1) / (1000 * (8 * 400000)) = 2543 ∧ 2543 < 2 ^ 16 ∧ longHaul.fabric.dedup = [] ∧
    longHaul.fabric.sent[0]?.map (·.sends) = some 1 ∧ (base.fabric.port.toList.all fun r => r.up && !r.longHaul) = true ∧
    (1, 0) ∉ base.fabric.dead ∧ ¬((1 : Fin 8) = base.fabric.dom ∧ (0 : BitVec 11) = base.fabric.coord) ∧ (fabricked.neighbour 4) = some (1, 0) ∧
    (fabricked.fabric.port.get 4).isolated = false := by
  refine ⟨?_, ?_, ?_, ?_, ?_, ?_, ?_, ?_, ?_, ?_, ?_, ?_, ?_, ?_, ?_, ?_⟩ <;> decide +kernel

/-- The management port owns the semaphore; and a package at the place of row 3's spare. -/
def ported : State := owned.modMgmt fun g => { g with owner := some .managementPort }
def spared : State := owned.modFabric fun f => { f with px := 3, py := 32 }

theorem witness_Management : freed.mgmt.owner = none ∧ freed.mgmt.open_ = true ∧ owned.mgmt.owner = some .controlComplex ∧ owned.mgmt.open_ = true ∧
    base.mgmt.open_ = false ∧ (ported.mgmt.owner = some .managementPort ∧ ported.mgmt.open_ = true ∧ ported.mgmt.epoch = 41) ∧
    (spared.fabric.px.toNat = (3 : Fin 64).val ∧ spared.fabric.py.toNat = 32 ∧ ∀ z : Fin 32, spared.fabric.physY 3 z ≠ 32) ∧
    (bits (4 : Word) 2 14 ≠ 0 ∧ bits (2 : Word) 32 32 = 0 ∧ bits (2 ^ 32 + 3 : Word) 0 2 = 3 ∧ bits (2 ^ 32 : Word) 0 2 = 0 ∧ bits (2 ^ 32 + 41 * 2 ^ 16 + 2 : Word) 16 16 = 41 ∧
      bits (2 ^ 32 + 41 * 2 ^ 16 + 2 : Word) 2 14 = 0) ∧
    owned.mgmt.owner ≠ some .managementPort ∧ (41 : BitVec 16) = owned.mgmt.epoch ∧ (42 : BitVec 16) ≠ owned.mgmt.epoch ∧
    (owned.counters.Pairwise fun p q => p.1 < q.1) ∧ owned.mgmt.opSeq = some 2 ∧ (2 : Word).toNat ≤ (2 : Word).toNat ∧ (2 : Word).toNat < (3 : Word).toNat ∧
    (8 : Word) = owned.mgmt.nonce ∧ (∀ o ∈ [0x60, 0x10], (owned.mgReg o).isSome = true) ∧
    (∀ w, owned.signedBy { offset := 0x60, write := w, key := [1], signedOk := true, nonce := 8, seq := 3 } = true) ∧
    (∀ w, owned.signedBy { offset := 0, write := w, key := [1], signedOk := false, nonce := 8, seq := 3 } = false) := by
  refine ⟨?_, ?_, ?_, ?_, ?_, ?_, ?_, ?_, ?_, ?_, ?_, ?_, ?_, ?_, ?_, ?_, ?_, fun w => ?_, fun w => rfl⟩
  case refine_18 => simp [State.signedBy, owned, State.modMgmt]
  all_goals decide +kernel

def armedOn (w : Nat) : State := base.modMgmt fun g => { g with shutter := { g.shutter with word := BitVec.ofNat 64 w, armed := true } }
/-- Two firings, the second of which asked for a halt; the clock stands between their dues, or before both. -/
def fired (clock : Nat) : State := (base.modMgmt fun g => { g with shutter := { g.shutter with fired := [{ core := 0, due := 64, halt := false }, { core := 0, due := 70, halt := true }] } }).modCore 0
  fun k => { k with clock := BitVec.ofNat 64 clock }

/-- Words with each of the two parts of reserved bits clear and set, and a source that is enabled and one that is not. -/
theorem witness_Shutters : owned.mgmt.owner = some .controlComplex ∧ (2 ^ 63 + 2 ^ 56 + 7) / 2 ^ 40 % 2 ^ 16 = 0 ∧ (2 ^ 63 + 2 ^ 56 + 7) / 2 ^ 12 % 2 ^ 20 = 0 ∧
    2 ^ 55 / 2 ^ 40 % 2 ^ 16 ≠ 0 ∧ 2 ^ 12 / 2 ^ 12 % 2 ^ 20 ≠ 0 ∧ (armedOn (2 ^ 59 + 7)).mgmt.shutter.armed = true ∧
    ((armedOn (2 ^ 59 + 7)).mgmt.shutter.word.getLsbD 59 = true ∧ (armedOn (2 ^ 59 + 7)).mgmt.shutter.word.toNat % 2 ^ 12 = 7) ∧
    (armedOn (2 ^ 59 + 7)).mgmt.shutter.word.getLsbD 58 = false ∧ (∀ f ∈ (fired 5).mgmt.shutter.fired, ¬f.due ≤ ((fired 5).core f.core).clock.toNat) ∧
    (∃ f ∈ (fired 64).mgmt.shutter.fired, f.due ≤ ((fired 64).core f.core).clock.toNat) ∧ (∃ f ∈ (fired 64).mgmt.shutter.fired, ¬f.due ≤ ((fired 64).core f.core).clock.toNat) ∧
    (∃ f ∈ (fired 70).mgmt.shutter.fired, f.due ≤ ((fired 70).core f.core).clock.toNat ∧ f.halt = true) ∧ (fired 64).cores.any (fun p => p.1 == 0) = true := by
  refine ⟨?_, ?_, ?_, ?_, ?_, ?_, ?_, ?_, ?_, ?_, ?_, ?_, ?_⟩ <;> decide +kernel

def lowDuty : State := base.modMgmt fun g => { g with duty := 16, step := 3 }

theorem witness_PowerBudget : base.mgmt.limit < 2401 ∧ 16 < base.mgmt.duty.toNat ∧ lowDuty.mgmt.duty.toNat = 16 ∧ 0 < lowDuty.mgmt.step ∧
    base.mgmt.junction < 100 ∧ 2349 + 50 < base.mgmt.limit ∧ base.mgmt.duty.toNat ≤ 64 ∧ lowDuty.mgmt.step < lowDuty.mgmt.clk.toNat ∧ base.mgmt.clk.toNat ≤ base.mgmt.step ∧
    ((base.modMgmt fun g => { g with trip := true }).mgmt.trip) = true ∧ (base.mgmt.counts.all fun p => p.1 != .granule 0 0) = true ∧
    (∀ p ∈ base.mgmt.windows, 1 < p.2.threshold) ∧ ((base.mgmt.windows.find? fun p => p.1 == kindOfUnit (.granule 0 0)).isSome = true) := by
  refine ⟨?_, ?_, ?_, ?_, ?_, ?_, ?_, ?_, ?_, ?_, ?_, ?_, ?_⟩ <;> decide +kernel

/-! ## Witnesses: reset, landing, the step -/

/-- A boot whose self-test passes or not; whether its images verify is the signature's affair, which the statement leaves open. -/
def boot (rom train : Bool) : BootInput :=
  let i (v : BitVec 32) : Image := { key := [1], version := v, signature := [], body := [7] }
  { romOk := rom, primary := i 3, alternate := i 2, trainOk := train, os := i 4, manifest := 2, operatorKey := 4, reserves := [(0x10000, 64)], nonce := 5 }

/-- A self-test that fails ends the boot, whatever the images. -/
theorem witness_ResetAndBoot : (boot false true).romOk = false ∧ (boot true false).trainOk = false ∧
    (match exec (.packageReset (boot false true)) base with
      | .next t => (t.mgmt.boot.toNat, t.mgmt.open_)
      | _ => (0, true)) = (1, false) := by
  refine ⟨?_, ?_, ?_⟩ <;> decide +kernel

theorem witness_ResultsLand : (Landing.v 7 VReg.reset (BitVec.allOnes 128)).place = .v 7 ∧
    (Landing.s 1 (clean 5)).place ≠ .s 2 := by
  refine ⟨?_, ?_⟩ <;> decide +kernel

/-! ## Decoding: words written out in the spec's examples -/

/-- R100 to R117, R228 to R233, R272 to R286: the scalar slot. -/
theorem decode_scalar : ∀ p ∈ [(0x04720901, Instr.sub 7 8 9), (0x0C517FFF, .addi 5 5 0x3FFF), (0x40500001, .li 5 1), (0x44523456, .liu 5 0x23456),
    (0x243101CC, .bfxN 3 4 7 12), (0x4C00C001, .mts 3 1), (0x6045FFFB, .brNz 5 0xFFFB), (0x7004001A, .chk 4 26), (0xB0520001, .st64 5 8 0 1),
    (0xBC41870F, .amo64 4 6 7 0 15), (0xCC014000, .sig 5), (0xCC014001, .clrf 5), (0xCC114001, .clrfErr 5), (0xCC200602, .advP 2 6), (0xCC200603, .advC 2 6),
    (0x50500000, .clk 5), (0x54600001, .coreidPhys 6), (0x54600000, .coreidLog 6)], decodeSlot .s (BitVec.ofNat 32 p.1) = some p.2 := by decide +kernel

/-- R153, R257, R258, R278 to R282, R301, R304, R328, R330: the system instructions of the scalar slot. -/
theorem decode_system : ∀ p ∈ [(0xE4518000, Instr.carve 5 6), (0xC8000008, .fenceP 1 0), (0xDC418700, .launch 4 6 7), (0xDC400702, .launchQB 4 7),
    (0xD0010500, .seqadd 4 5), (0xD8910000, .seqrd 9 4), (0xD5910600, .seqwatch 25 4 6), (0xD7910600, .seqwatchTag 25 4 6), (0xE8000005, .trap 5),
    (0xE0000000, .retire), (0xEC000000, .retu), (0xF0000000, .retl), (0xF4010500, .qseed 4 5), (0xF4008301, .qldt 0 2 3), (0xF461C802, .qpt 6 7 8)],
    decodeSlot .s (BitVec.ofNat 32 p.1) = some p.2 := by decide +kernel

/-- R126 to R158: the vector slots. -/
theorem decode_vector : ∀ p ∈ [(0x27209188, Instr.vfma .f32 8 9 6 0 true), (0x570C1082, .vcmpLt .f32 3 1 2 0 false), (0x5C0420C5, .vsel .n32 1 2 3 0 false 5),
    (0x87515000, .vredAdd .f32 20 21 0), (0xD6105181, .vamoAddSr 4 5 6 0), (0xE728B300, .vqpt .f32 10 11 12 0), (0x080C4141, .vaddSat .i8 3 4 5 0 false),
    (0xB20880C0, .vld .i32 2 8 3 0)], decodeSlot .v0 (BitVec.ofNat 32 p.1) = some p.2 ∨ decodeSlot .v1 (BitVec.ofNat 32 p.1) = some p.2 := by decide +kernel

/-- R187 to R215: the mirror slot. -/
theorem decode_mirror : ∀ p ∈ [(0x10C029CC, Instr.mcall 3 0xA7 6), (0x52A78000, .mdrain 5 2 7 true), (0xB9410860, .mephw 4 5 16 true 3), (0xC2400000, .mstat 9 false)],
    decodeSlot .m (BitVec.ofNat 32 p.1) = some p.2 := by decide +kernel

/-- R239 to R243, R362 to R390: the copy slots. -/
theorem decode_copy : ∀ p ∈ [(0x0994A2CC, Instr.cpy 3 5 10 11 12), (0x491D454D, .cstashGet 2 7 20 21 13), (0x500C000D, .cstashDrop 0 3 13), (0x6014A2CC, .csend 0 5 10 11 12),
    (0x90244140, .cmcast 0 9 4 5)], decodeSlot .c0 (BitVec.ofNat 32 p.1) = some p.2 ∧ decodeSlot .c1 (BitVec.ofNat 32 p.1) = some p.2 := by decide +kernel

/-- R30, R164 to R181: the transform slot and the G slot. -/
theorem decode_transform : (∀ p ∈ [(0x0BC14200, Instr.xcvt 7 8 20 8), (0x11D1E203, .xq false 7 4 30 8 3), (0x21C820C5, .xsld false 7 false 2 2 3 5)],
      decodeSlot .x (BitVec.ofNat 32 p.1) = some p.2) ∧ decodeSlot .g 0x00001007 = some (.pause Gate.absent 7) := by decide +kernel

/-- R27, R33: a word with an opcode that its slot has not, and one with a reserved bit set, decode to nothing. -/
theorem decode_refuses : decodeSlot .x 0xFFFFFFFF = none ∧ decodeSlot .s 0x04720981 = none ∧ decodeSlot .s 0xE0000001 = none := by decide +kernel

/-! ## Well-formedness: an ill-formed term for each check -/

theorem wf_scalar : ∀ i ∈ [Instr.bfxN 1 2 63 1, .bfxI 1 2 32 32, .bfi 1 2 1 63, .amo32 1 2 3 12 0, .amo64 1 2 3 15 0, .rld 1 2 0, .fenceP 6 0, .fenceP 0 7,
    .pause { Gate.absent with scope := 6 } 0, .phase { Gate.absent with wait := 3, mask := 1 } 0, .mark { Gate.absent with wait := 1 } 0,
    .pause { Gate.absent with mask := 1 } 0, .pause { Gate.absent with bank := 1 } 0], i.wf = false := by decide

theorem wf_vector_hold : ∀ i ∈ [Instr.vadd .i8 1 2 63 0 true, .vaddSat .i8 1 2 63 0 true, .vsub .f32 1 2 63 0 true, .vsubSat .i16 1 2 63 0 true, .vmul .i8 1 2 63 0 true,
    .vmulHi .i8 1 2 63 0 true, .vmulWide .i8 1 2 63 0 true, .vfma .f32 1 2 63 0 true, .vfmaFms .f32 1 2 63 0 true, .vfmaFnma .f32 1 2 63 0 true,
    .vmin .i8 1 2 63 0 true, .vmax .i8 1 2 63 0 true, .vlogAnd .i8 1 2 63 0 true, .vlogOr .i8 1 2 63 0 true, .vlogXor .i8 1 2 63 0 true, .vlogAndn .i8 1 2 63 0 true,
    .vshShl .i8 1 2 63 0 true, .vshShr .i8 1 2 63 0 true, .vshSar .i8 1 2 63 0 true, .vcmpEq .i8 1 2 63 0 true, .vcmpNe .i8 1 2 63 0 true, .vcmpLt .i8 1 2 63 0 true,
    .vcmpLe .i8 1 2 63 0 true, .vcmpGt .i8 1 2 63 0 true, .vcmpGe .i8 1 2 63 0 true, .vcmpUo .f32 1 2 63 0 true, .vsel .i8 1 2 63 0 true 1, .vbfxN32 1 2 63 0 true,
    .vbfxI32 1 2 63 0 true, .vfshLeft .i32 1 2 63 0 true, .vfshRight .n32 1 2 63 0 true, .vshuf .i8 1 2 63 0 true, .vrot .i8 1 2 63 0 true, .vxg .i8 1 2 63 0 true],
    i.wf = false := by decide

theorem wf_vector_formats : ∀ i ∈ [Instr.vaddSat .f32 1 2 3 0 false, .vsubSat .bf16 1 2 3 0 false, .vmulHi .f16 1 2 3 0 false, .vmulWide .i32 1 2 3 0 false,
    .vabs .n8 1 2 0, .vneg .n32 1 2 0, .vshShl .f32 1 2 3 0 false, .vshShr .f16 1 2 3 0 false, .vshSar .bf16 1 2 3 0 false, .vcmpUo .i8 1 2 3 0 false, .vbitClz .f32 1 2 0,
    .vbitCtz .f16 1 2 0, .vbitFfs .bf16 1 2 0, .vbitPopc .f32 1 2 0, .vfshLeft .i16 1 2 3 0 false, .vfshRight .f32 1 2 3 0 false, .vredAdd .i8 1 2 0, .vredMax .f16 1 2 0,
    .vredMin .bf16 1 2 0, .vamoAdd .i8 1 2 3 0, .vamoMin .f32 1 2 3 0, .vamoMax .bf16 1 2 3 0, .vamoFmax .i32 1 2 3 0, .vqpt .i32 1 2 3 0], i.wf = false := by decide

theorem wf_mirror_copy_transform : ∀ i ∈ [Instr.mdrain 0 0 3 false, .mmode 0 false false 1 0, .mmode 1 true false 0 0, .mmode 6 false false 0 0, .mmode 2 false true 0 0,
    .mseg 0 3 0, .mseg 0 0 3, .mseg 1 1 0, .mephw 0 0 0 false 1, .cgath 0 0 1 2 63, .cscat 0 0 1 2 63, .cbcast 0 0 1 2 63, .cxfm 0 0 1 2 63, .cstashGet 0 0 0 2 3,
    .cstashGet 0 0 1 0 3, .cringReduceScatter 0 0 1 2 63, .cringAllGather 0 0 1 2 63, .cringReduceScatterF32 0 0 1 2 63, .cringAllGatherF32 0 0 1 2 63,
    .xcvt 11 0 1 2, .xcvt 8 7 61 0, .xcvtSr 0 15 1 2 3, .xq false 0 4 1 2 3, .xq false 7 1 1 2 3, .xq false 7 9 1 2 3, .xdq true 4 4 1 2 3, .xdq true 5 9 1 2 3,
    .xsld true 4 false 0 0 0 0, .xsst true 15 false 0 0 0 0, .xtr 3 0 0, .xtr 2 63 0, .xperm 3 0 0 0, .xhad 3 false 0 0 0, .xamax 4 0 0 0, .xamax 10 0 0 0,
    .xpack 0 3 false false 0 0, .xpack 8 0 false false 0 0, .xunpk 15 0 false 0 0, .xexp 3 0 0 0, .xexp 0 0 0 13], i.wf = false := by decide

/-! ## One step, against the spec's examples -/

/-- The value a scalar instruction has put on its way. -/
def lands (i : Instr) (s : State) : Option (Nat × Nat) :=
  match exec i s with
  | .next t => match t.cx.delay.getLast? with
    | some e => match e.landing with
      | .s _ x => some (e.left, x.val.toNat)
      | _ => none
    | none => none
  | _ => none

/-- R100's examples. -/
theorem test_alu : lands (.sub 7 2 3) (pair 5 7) = some (1, 0xFFFF_FFFF_FFFF_FFFE) ∧ lands (.cmpLt 7 2 3) (pair 5 7) = some (1, 1) ∧
    lands (.cmpLtn 7 3 2) (pair 5 7) = some (1, 0) ∧ lands (.clz 7 2) (pair 0x100 0) = some (1, 55) ∧ lands (.ctz 7 2) (pair 0x100 0) = some (1, 8) ∧
    lands (.ffs 7 2) (pair 0x100 0) = some (1, 9) := by decide +kernel

/-- R101's table of edge cases, and its high halves. -/
theorem test_mul_div : (∀ r ∈ [(2 ^ 64 - 7, 2, 2 ^ 64 - 3, 2 ^ 64 - 1, 0x7FFF_FFFF_FFFF_FFFC, 1), (7, 2 ^ 64 - 2, 2 ^ 64 - 3, 1, 0, 7),
      (9, 0, 2 ^ 64 - 1, 9, 2 ^ 64 - 1, 9), (2 ^ 63, 2 ^ 64 - 1, 2 ^ 63, 0, 0, 2 ^ 63)],
      lands (.div 7 2 3) (pair r.1 r.2.1) = some (20, r.2.2.1) ∧ lands (.rem 7 2 3) (pair r.1 r.2.1) = some (20, r.2.2.2.1) ∧
      lands (.divn 7 2 3) (pair r.1 r.2.1) = some (20, r.2.2.2.2.1) ∧ lands (.remn 7 2 3) (pair r.1 r.2.1) = some (20, r.2.2.2.2.2)) ∧
    lands (.mulh 7 2 3) (pair (2 ^ 64 - 1) 3) = some (3, 2 ^ 64 - 1) ∧ lands (.mulhn 7 2 3) (pair (2 ^ 64 - 1) 3) = some (3, 2) := by decide +kernel

/-- R107's and R109's examples. -/
theorem test_fields : lands (.bfxN 4 2 7 12) (pair 0xABC123 0) = some (1, 0xBC) ∧ lands (.bfxI 4 2 7 12) (pair 0xABC123 0) = some (1, 0xFFFF_FFFF_FFFF_FFBC) ∧
    lands (.fshr 4 3 2 13) (pair 0x2000 5) = some (1, 0x0028_0000_0000_0001) := by decide +kernel

/-- R106's chain: the last link. -/
theorem test_liu : lands (.liu 2 0xCDEF0) (pair 0x123456789AB 0) = some (1, 0x123456789ABCDEF0) := by decide +kernel

/-- R285's example: of four slots none is filled; two are free after the producer moves by two. -/
theorem test_ring : (match exec (.advP 2 6) (withS ringed [(6, clean 1)]) with
    | .next t => t.cx.delay.map fun e => match e.landing with | .ring h v => (h.val, hsP v, flag v 12) | _ => (99, 0, false)
    | _ => []) = [(2, 0, true)] := by decide +kernel

/-- R94's example, x = 1 + 2^-8 to bf16. -/
theorem test_rounding : (FFmt.bf16.round .rne false 257 (-8)).1 = 0x3F80 ∧ (FFmt.bf16.round .ru false 257 (-8)).1 = 0x3F81 ∧
    (FFmt.bf16.round .rd false 257 (-8)).1 = 0x3F80 ∧ (FFmt.bf16.round .rd true 257 (-8)).1 = 0xBF81 ∧
    (FFmt.bf16.round (.sr 32767 16) false 257 (-8)).1 = 0x3F81 ∧ (FFmt.bf16.round (.sr 32768 16) false 257 (-8)).1 = 0x3F80 := by decide +kernel

/-- R469's example. -/
theorem test_governor : (match exec (.governorInterval 2520 1150 0 0) base with
    | .next t => t.mgmt.duty.toNat
    | _ => 0) = 57 := by decide +kernel

/-- R13's example, of a store of 32 bits. -/
theorem test_little_endian : (match exec (.st32 3 2 0 0) (withS mapped [(3, clean 0x1234)]) with
    | .next t => t.cx.withheld.map fun w => w.lanes.map (·.bytes)
    | _ => []) = [[[0x34, 0x12, 0, 0]]] := by decide +kernel

/-- R115's example: a taken `br.nz` at an address goes five bytes back. -/
theorem test_branch : (match exec (.brNz 5 0xFFFB) (withS { base with cur := { base.cur with addr := 69 } } [(5, clean 1)]) with
    | .next t => t.cx.transfer.map fun x => (x.taken, x.target.toNat, x.due)
    | _ => none) = some (true, 64, 4) := by decide +kernel

/-! ## A step -/

/-- `sub s7, s8, s9` stands alone in a bundle at address 64, with 5 and 7 to subtract. -/
def placed : State := (withS base [(8, clean 5), (9, clean 7)]).withFetchWord 32 0x04720901

/-- R100's example through the step, another bundle behind it: the result has landed after one cycle, and the context goes on
at the next bundle (R23). -/
theorem test_step : (match step (placed.putByte (homeKey 0 69) 0x04) with
    | .next t => (((t.ctx x0).regs.s.get 7).val.toNat, (t.ctx x0).pc.toNat, (t.core 0).clock.toNat)
    | _ => (0, 0, 0)) = (0xFFFF_FFFF_FFFF_FFFE, 69, 1) := by decide +kernel

/-- The state of `placed` as its bundle is about to issue, with the line of its code here. -/
def issuing : State := placed.modCore 0 Core.tickClock
def fetched : State := issuing.obtainCode x0 (issuing.ctx x0).reg.ptroot (issuing.ctx x0).sup (issuing.ctx x0).pc
def opened : State := fetched.touch x0 (fetched.ctx x0).reg.ptroot (lineOf (issuing.ctx x0).pc)

theorem witness_StepRunsDecoded : placed.agenda = [] ∧ placed.turns = [] ∧ placed.absent.contains 0 = false ∧ placed.mgmt.shutter.fired = [] ∧
    issuing.halted = false ∧ issuing.firstServed 0 = none ∧ (issuing.ctx { core := 0, slot := 1 }).status = .empty ∧ (issuing.core 0).bank = none ∧
    (issuing.ctx x0).status = .running ∧ (∀ e ∈ (issuing.ctx x0).delay, e.left ≠ 0) ∧ (issuing.ctx x0).reloadErr = none ∧ (issuing.ctx x0).pause = 0 ∧
    (issuing.ctx x0).carveWord = none ∧ issuing.carveHolds x0 = false ∧ (issuing.ctx x0).task = none ∧ (issuing.ctx x0).rephase = false ∧
    (issuing.ctx x0).reg.trctl.getLsbD 63 = false ∧ (issuing.ctx x0).trace.stall = 0 ∧ (issuing.ctx x0).checked = true ∧ (issuing.ctx x0).releasing = none ∧ (issuing.ctx x0).evict = none ∧
    (issuing.ctx x0).high = 0 ∧
    (match issuing.translate 0 (issuing.ctx x0).reg.ptroot (issuing.ctx x0).sup .fetch (lineOf (issuing.ctx x0).pc) with
      | .ok l => (List.range 64).all fun i => !(issuing.elsewhere (issuing.keyOf (l.add i) / 128))
      | .error _ => false) = true ∧
    (match fetched.fetchLine x0 (fetched.ctx x0).reg.ptroot (fetched.ctx x0).sup .bundle (issuing.ctx x0).pc with
      | .ok line => !(isHead line) && line.getD 0 0 != 0 && (opened.decodeFault 0 line).isNone && (match decodeBundle 0 line with
        | .ok b => decide (b.gate = Gate.absent ∧ b.ops = [(.s, .sub 7 8 9)])
        | .error _ => false)
      | .error _ => false) = true ∧ namesV (.sub 7 8 9) = [] ∧ Ready (.sub 7 8 9) opened ∧
    (match exec (.sub 7 8 9) opened with | .next t => t.raised.isNone | _ => false) = true := by
  refine ⟨?_, ?_, ?_, ?_, ?_, ?_, ?_, ?_, ?_, ?_, ?_, ?_, ?_, ?_, ?_, ?_, ?_, ?_, ?_, ?_, ?_, ?_, ?_, ?_, ?_, ready_of ?_, ?_⟩ <;> decide +kernel

/-- R460: of two reads by the control complex, the one of a lost sector is counted. -/
theorem test_complex_read_of_lost : (match step { State.reset with lost := [2], turns := [{ core := 0, work := false, reads := [64, 96] }] } with
    | .next t => t.mgmt.lostReads
    | _ => 0) = 1 := by decide +kernel

/-- Memory is in its form and a step goes on. -/
theorem witness_MemoryStaysCanonical : Memory.wf placed.mem = true ∧ placed.mem ≠ [] ∧ (match step placed with | .next _ => true | _ => false) = true := by
  refine ⟨?_, ?_, ?_⟩ <;> decide +kernel

/-- A word that decodes to a well-formed instruction, whose word it is. -/
theorem witness_EncodingsRoundTrip : decodeSlot .s 0x04720901 = some (.sub 7 8 9) ∧ (Instr.sub 7 8 9).wf = true ∧ encode (.sub 7 8 9) = some 0x04720901 ∧
    Sys2Proof.Laws.Coded.isEvent (.sub 7 8 9) = false := by
  decide +kernel

end Sys2Proof.Tests
end

section
/-! Control registers as `mfs` and `mts` meet them (R69, R111), and the part number (R2). -/

namespace Sys2Proof.Proofs

open Machine Laws

/-! ## What the Access column lets through -/

/-- An access that the column gives to all, or that the supervisor makes, is allowed (R69). -/
theorem ctlAllowed_of_access {n : Nat} {r w : Who} {write sup : Bool} (access : ctlAccess n = some (r, w))
    (may : (if write then w else r) ≠ .sup ∨ sup = true) : ctlAllowed n write sup = .ok () := by
  unfold ctlAllowed
  rw [access]
  rcases may with open_ | rfl
  · simp [open_]
  · simp

theorem ctlIgnored_of_access {n : Nat} {r : Who} (access : ctlAccess n = some (r, .ignored)) : ctlIgnored n = true := by
  simp [ctlIgnored, access]

/-- A read that the column allows enters the register's value, clean, one cycle on (R69, R111). -/
theorem exec_mfs_allowed {d : Fin 64} {n : BitVec 14} {s : State} {r w : Who} (ready : Ready (.mfs d n) s)
    (access : ctlAccess n.toNat = some (r, w)) (may : r ≠ .sup ∨ s.supervisor = true) :
    exec (.mfs d n) s = .next (s.pushS 1 d (s.readCtl s.cur.ctx n.toNat) .clean) := by
  have act : s.mfsAct d n = .ok (s.pushS 1 d (s.readCtl s.cur.ctx n.toNat) .clean) := by
    rw [State.mfsAct, ctlAllowed_of_access (write := false) access (by simpa using may)]
  exact issue_next (act := (·.mfsAct d n)) ready act

/-- A write that the column ignores changes nothing, whoever makes it and whatever the value (R69). -/
theorem exec_mts_ignored {a : Fin 64} {n : BitVec 14} {s : State} {r : Who} (ready : Ready (.mts a n) s)
    (access : ctlAccess n.toNat = some (r, .ignored)) : exec (.mts a n) s = .next s := by
  have act : s.mtsAct a n = .ok s := by
    simp [State.mtsAct, ctlAllowed_of_access (write := true) access (.inl (by simp)), ctlIgnored_of_access access]
  exact issue_next (act := (·.mtsAct a n)) ready act

/-! ## `%partid` -/

theorem ctlAccess_partid : ctlAccess 0x000 = some (.all, .ignored) := rfl

theorem readCtl_partid (s : State) (x : CtxId) : s.readCtl x 0x000 = BitVec.ofNat 64 (1792 - s.absent.length) := rfl

/-- The count of physical cores is a 64-bit value as it stands: it is at most 1792. -/
theorem toNat_readCtl_partid (s : State) (x : CtxId) : (s.readCtl x 0x000).toNat = 1792 - s.absent.length := by
  rw [readCtl_partid, BitVec.toNat_ofNat, Nat.mod_eq_of_lt (by omega)]

/-- Settles O5: the Access column opens `%partid` to every reader and ignores every write, and the count it reads fits its low
sixteen bits. -/
theorem partNumber : Obligations.PartNumber := by
  intro d a s absent_le
  refine ⟨fun ready => ⟨_, exec_mfs_allowed ready ctlAccess_partid (.inl (by decide)), ?_⟩,
    fun ready => exec_mts_ignored ready ctlAccess_partid⟩
  have count : (s.readCtl s.cur.ctx (0x000 : BitVec 14).toNat).toNat = 1792 - s.absent.length :=
    toNat_readCtl_partid s s.cur.ctx
  constructor <;> omega

end Sys2Proof.Proofs
end

section
/-! The values of the scalar computations, as words: what each operation of R100 to R110 gives, bit by bit or as a number. -/

namespace Sys2Proof.Proofs

open Machine Laws

/-! ## Truth values -/

theorem toNat_truth (p : Bool) : (truth p).toNat = if p then 1 else 0 := by cases p <;> rfl

theorem toNat_truth_decide (p : Prop) [Decidable p] : (truth (decide p)).toNat = if p then 1 else 0 := by
  rw [toNat_truth]; simp only [decide_eq_true_eq]

theorem toNat_truth_beq (x y : Word) : (truth (x == y)).toNat = if x = y then 1 else 0 := by
  rw [toNat_truth]; simp only [beq_iff_eq]

theorem toNat_truth_bne (x y : Word) : (truth (x != y)).toNat = if x = y then 0 else 1 := by
  rw [toNat_truth]; by_cases e : x = y <;> simp [e]

/-! ## Sums, shifts, rotations, minima -/

theorem sub_toNat_add_mod (x y : Word) : ((x - y).toNat + y.toNat) % 2 ^ 64 = x.toNat := by
  rw [← BitVec.toNat_add, BitVec.sub_add_cancel]

theorem andNot_getLsbD (x y : Word) : ∀ i < 64, (x &&& ~~~y).getLsbD i = (x.getLsbD i && !(y.getLsbD i)) := by
  intro i lt
  rw [BitVec.getLsbD_and, BitVec.getLsbD_not, decide_eq_true lt, Bool.true_and]

theorem shiftLeft_toNat (x : Word) (n : Nat) : (x <<< n).toNat = x.toNat * 2 ^ n % 2 ^ 64 := by
  rw [BitVec.toNat_shiftLeft, Nat.shiftLeft_eq]

theorem ushiftRight_toNat (x : Word) (n : Nat) : (x >>> n).toNat = x.toNat / 2 ^ n := by
  rw [BitVec.toNat_ushiftRight, Nat.shiftRight_eq_div_pow]

theorem sshiftRight_toInt (x : Word) (n : Nat) : (x.sshiftRight n).toInt = x.toInt / 2 ^ n := by
  rw [BitVec.toInt_sshiftRight, Int.shiftRight_eq_div_pow]
  exact congrArg (x.toInt / ·) (Int.natCast_pow 2 n)

/-- A bit of a rotated word comes from n places below it, around the word. -/
theorem rotateLeft_getLsbD (x : Word) {n : Nat} (n_lt : n < 64) : ∀ i < 64,
    (x.rotateLeft n).getLsbD i = x.getLsbD ((i + 64 - n) % 64) := by
  intro i i_lt
  rw [BitVec.getLsbD_rotateLeft_of_le n_lt]
  by_cases below : i < n
  · rw [decide_eq_true below, cond_true, Nat.mod_eq_of_lt (by omega)]
    congr 1; omega
  · have source : (i + 64 - n) % 64 = i - n := by omega
    rw [decide_eq_false below, cond_false, source, decide_eq_true i_lt, Bool.true_and]

theorem toInt_min (x y : Word) : (if y.toInt < x.toInt then y else x).toInt = min x.toInt y.toInt := by
  split <;> omega

theorem toInt_max (x y : Word) : (if x.toInt < y.toInt then y else x).toInt = max x.toInt y.toInt := by
  split <;> omega

theorem toNat_min (x y : Word) : (if y.toNat < x.toNat then y else x).toNat = min x.toNat y.toNat := by
  split <;> omega

theorem toNat_max (x y : Word) : (if x.toNat < y.toNat then y else x).toNat = max x.toNat y.toNat := by
  split <;> omega

/-! ## Bit counts -/

/-- A count of at most 64 is read back from the word that holds it. -/
theorem toNat_ofNat_count {n : Nat} (le : n ≤ 64) : (BitVec.ofNat 64 n).toNat = n := by
  rw [BitVec.toNat_ofNat, Nat.mod_eq_of_lt (by omega)]

/-- The bit that the counts of the model test. -/
theorem div_pow_mod_two_beq {w : Nat} (x : BitVec w) (i : Nat) : (x.toNat / 2 ^ i % 2 == 1) = x.getLsbD i := by
  rw [← BitVec.testBit_toNat, Nat.testBit_eq_decide_div_mod_eq]
  rfl

theorem leadingZeros_le (x : Word) : leadingZeros 64 x.toNat ≤ 64 := by
  unfold leadingZeros; split <;> omega

/-- A word that is not zero has its highest bit at its logarithm, which the count subtracts from 63. -/
theorem leadingZeros_of_ne_zero {x : Word} (nonzero : x.toNat ≠ 0) :
    leadingZeros 64 x.toNat + x.toNat.log2 = 63 := by
  have log_lt : x.toNat.log2 < 64 := (Nat.log2_lt nonzero).mpr x.isLt
  rw [leadingZeros, if_neg nonzero]
  omega

theorem getLsbD_above_leadingZeros (x : Word) (i : Nat) (above : 64 ≤ i + leadingZeros 64 x.toNat) :
    x.getLsbD i = false := by
  rw [← BitVec.testBit_toNat]
  by_cases zero : x.toNat = 0
  · rw [zero, Nat.zero_testBit]
  · have count := leadingZeros_of_ne_zero zero
    exact Nat.testBit_lt_two_pow ((Nat.log2_lt zero).mp (by omega))

theorem getLsbD_at_leadingZeros (x : Word) (some_one : leadingZeros 64 x.toNat < 64) :
    x.getLsbD (63 - leadingZeros 64 x.toNat) = true := by
  have nonzero : x.toNat ≠ 0 := by
    intro zero
    simp [leadingZeros, zero] at some_one
  have count := leadingZeros_of_ne_zero nonzero
  rw [← BitVec.testBit_toNat, show 63 - leadingZeros 64 x.toNat = x.toNat.log2 by omega]
  exact Nat.testBit_log2 nonzero

theorem clzWord_spec (x : Word) :
    (BitVec.ofNat 64 (leadingZeros 64 x.toNat)).toNat ≤ 64 ∧
      (∀ i, 64 ≤ i + (BitVec.ofNat 64 (leadingZeros 64 x.toNat)).toNat → x.getLsbD i = false) ∧
      ((BitVec.ofNat 64 (leadingZeros 64 x.toNat)).toNat < 64 →
        x.getLsbD (63 - (BitVec.ofNat 64 (leadingZeros 64 x.toNat)).toNat) = true) := by
  rw [toNat_ofNat_count (leadingZeros_le x)]
  exact ⟨leadingZeros_le x, getLsbD_above_leadingZeros x, getLsbD_at_leadingZeros x⟩

/-- The count of trailing zeros stands at the lowest set bit, or at 64 where there is none. -/
theorem trailingZeros_spec (x : Word) :
    trailingZeros 64 x.toNat ≤ 64 ∧ (∀ i < trailingZeros 64 x.toNat, x.getLsbD i = false) ∧
      (trailingZeros 64 x.toNat < 64 → x.getLsbD (trailingZeros 64 x.toNat) = true) := by
  unfold trailingZeros
  simp only [div_pow_mod_two_beq]
  split
  case h_1 n found =>
    obtain ⟨set, inside, below⟩ := List.find?_range_eq_some.mp found
    refine ⟨Nat.le_of_lt (List.mem_range.mp inside), fun i lt => ?_, fun _ => set⟩
    simpa using below i lt
  case h_2 none_set =>
    refine ⟨Nat.le_refl _, fun i lt => ?_, fun lt => absurd lt (Nat.lt_irrefl _)⟩
    simpa using List.find?_range_eq_none.mp none_set i lt

/-- A word that is not zero has a lowest set bit inside it. -/
theorem trailingZeros_lt {x : Word} (nonzero : x ≠ 0) : trailingZeros 64 x.toNat < 64 := by
  obtain ⟨le, zeros, -⟩ := trailingZeros_spec x
  refine Nat.lt_of_le_of_ne le fun all => nonzero (BitVec.eq_of_getLsbD_eq fun i lt => ?_)
  rw [zeros i (by omega), BitVec.ofNat_eq_ofNat, BitVec.getLsbD_zero]

theorem ctzWord_spec (x : Word) :
    (BitVec.ofNat 64 (trailingZeros 64 x.toNat)).toNat ≤ 64 ∧
      (∀ i < (BitVec.ofNat 64 (trailingZeros 64 x.toNat)).toNat, x.getLsbD i = false) ∧
      ((BitVec.ofNat 64 (trailingZeros 64 x.toNat)).toNat < 64 →
        x.getLsbD (BitVec.ofNat 64 (trailingZeros 64 x.toNat)).toNat = true) := by
  have spec := trailingZeros_spec x
  rw [toNat_ofNat_count spec.1]
  exact spec

/-- `ffs` of a word that is not zero is one more than its count of trailing zeros. -/
theorem toNat_ffsWord {x : Word} (nonzero : x ≠ 0) :
    (BitVec.ofNat 64 (firstSet 64 x.toNat)).toNat = trailingZeros 64 x.toNat + 1 := by
  have pattern : x.toNat ≠ 0 := fun zero => nonzero (BitVec.eq_of_toNat_eq zero)
  rw [firstSet, if_neg pattern, toNat_ofNat_count (trailingZeros_lt nonzero)]

theorem ffsWord_spec (x : Word) :
    (x = 0 → BitVec.ofNat 64 (firstSet 64 x.toNat) = 0) ∧
      (x ≠ 0 → 1 ≤ (BitVec.ofNat 64 (firstSet 64 x.toNat)).toNat ∧
        x.getLsbD ((BitVec.ofNat 64 (firstSet 64 x.toNat)).toNat - 1) = true ∧
        ∀ i < (BitVec.ofNat 64 (firstSet 64 x.toNat)).toNat - 1, x.getLsbD i = false) := by
  refine ⟨?_, fun nonzero => ?_⟩
  · rintro rfl
    rfl
  · obtain ⟨-, zeros, set⟩ := trailingZeros_spec x
    rw [toNat_ffsWord nonzero, Nat.add_sub_cancel]
    exact ⟨by omega, set (trailingZeros_lt nonzero), zeros⟩

theorem popCount_eq_countP (x : Word) : popCount 64 x.toNat = (List.range 64).countP fun i => x.getLsbD i := by
  unfold popCount
  simp only [div_pow_mod_two_beq, List.countP_eq_length_filter]

theorem popCount_le (x : Word) : popCount 64 x.toNat ≤ 64 :=
  Nat.le_trans (List.length_filter_le _ _) (Nat.le_of_eq List.length_range)

theorem toNat_popcWord (x : Word) :
    (BitVec.ofNat 64 (popCount 64 x.toNat)).toNat = (List.range 64).countP fun i => x.getLsbD i := by
  rw [toNat_ofNat_count (popCount_le x), popCount_eq_countP]

theorem reverse_getLsbD (x : Word) : ∀ i < 64, x.reverse.getLsbD i = x.getLsbD (63 - i) := by
  intro i lt
  rw [BitVec.getLsbD_reverse, BitVec.getMsbD_eq_getLsbD, decide_eq_true lt, Bool.true_and]

/-! ## Products and quotients -/

theorem toInt_mulHigh (x y : Word) : (mulHigh x y).toInt = x.toInt * y.toInt / 2 ^ 64 := by
  have upper : x.toInt * y.toInt ≤ 2 ^ 126 := BitVec.toInt_mul_toInt_le
  have lower : -(2 ^ 126) ≤ x.toInt * y.toInt := BitVec.le_toInt_mul_toInt
  exact BitVec.toInt_ofInt_eq_self (by decide) (by omega) (by omega)

theorem toNat_mulHighUnsigned (x y : Word) :
    (BitVec.ofNat 64 (x.toNat * y.toNat / 2 ^ 64)).toNat = x.toNat * y.toNat / 2 ^ 64 := by
  have product : x.toNat * y.toNat < 2 ^ 64 * 2 ^ 64 := Nat.mul_lt_mul'' x.isLt y.isLt
  rw [BitVec.toNat_ofNat, Nat.mod_eq_of_lt (Nat.div_lt_of_lt_mul product)]

/-- A quotient toward zero has the sign of the product and the quotient of the magnitudes. -/
theorem tdiv_eq_sign_mul_natAbs_div (x y : Int) : x.tdiv y = (x * y).sign * (x.natAbs / y.natAbs : Nat) := by
  have parts := Int.sign_mul_natAbs (x.tdiv y)
  rw [Int.sign_tdiv, Int.natAbs_tdiv, ← Int.sign_mul] at parts
  rw [← parts]
  split
  case isTrue lt => rw [Nat.div_eq_of_lt lt, Int.zero_mul, Int.natCast_zero, Int.mul_zero]
  case isFalse => rfl

theorem divS_eq_sdiv {x y : Word} (nonzero : y ≠ 0) : divS x y = x.sdiv y := by
  rw [divS, if_neg nonzero]
  exact BitVec.eq_of_toInt_eq (by rw [BitVec.toInt_ofInt, BitVec.toInt_sdiv])

theorem remS_eq_srem {x y : Word} (nonzero : y ≠ 0) : remS x y = x.srem y := by
  rw [remS, if_neg nonzero, ← BitVec.toInt_srem, BitVec.ofInt_toInt]

theorem divS_of_zero {x y : Word} (zero : y = 0) : divS x y = BitVec.allOnes 64 := if_pos zero
theorem divU_of_zero {x y : Word} (zero : y = 0) : divU x y = BitVec.allOnes 64 := if_pos zero
theorem remS_of_zero {x y : Word} (zero : y = 0) : remS x y = x := if_pos zero
theorem remU_of_zero {x y : Word} (zero : y = 0) : remU x y = x := if_pos zero

theorem toInt_divS {x y : Word} (nonzero : y ≠ 0) (fits : ¬(x.toInt = -2 ^ 63 ∧ y.toInt = -1)) :
    (divS x y).toInt = (x.toInt * y.toInt).sign * (x.toInt.natAbs / y.toInt.natAbs : Nat) := by
  have one_fits : x ≠ BitVec.intMin 64 ∨ y ≠ -1#64 := by
    by_cases hx : x = BitVec.intMin 64
    · refine .inr fun hy => fits ?_
      subst hx hy
      decide
    · exact .inl hx
  rw [divS_eq_sdiv nonzero, BitVec.toInt_sdiv_of_ne_or_ne _ _ one_fits, tdiv_eq_sign_mul_natAbs_div]

theorem toInt_divS_overflow {x y : Word} (hx : x.toInt = -2 ^ 63) (hy : y.toInt = -1) : (divS x y).toInt = -2 ^ 63 := by
  obtain rfl : x = BitVec.intMin 64 := BitVec.eq_of_toInt_eq hx
  obtain rfl : y = -1#64 := BitVec.eq_of_toInt_eq hy
  decide

theorem toNat_divU {x y : Word} (nonzero : y ≠ 0) : (divU x y).toNat = x.toNat / y.toNat := by
  rw [divU, if_neg nonzero, BitVec.toNat_ofNat, Nat.mod_eq_of_lt (Nat.lt_of_le_of_lt (Nat.div_le_self _ _) x.isLt)]

theorem toNat_remU {x y : Word} (nonzero : y ≠ 0) : (remU x y).toNat = x.toNat % y.toNat := by
  rw [remU, if_neg nonzero, BitVec.toNat_ofNat, Nat.mod_eq_of_lt (Nat.lt_of_le_of_lt (Nat.mod_le _ _) x.isLt)]

theorem toInt_remS {x y : Word} (nonzero : y ≠ 0) : (remS x y).toInt = x.toInt.tmod y.toInt := by
  rw [remS_eq_srem nonzero, BitVec.toInt_srem]

theorem remS_minus_one (x : Word) {y : Word} (hy : y.toInt = -1) : remS x y = 0 := by
  have nonzero : y ≠ 0 := by rintro rfl; exact absurd hy (by decide)
  refine BitVec.eq_of_toInt_eq ?_
  rw [toInt_remS nonzero, hy, Int.tmod_neg, Int.tmod_one]
  rfl

/-- A remainder of truncated division is zero or has the sign of the dividend. -/
theorem tmod_eq_zero_or_neg_iff (x y : Int) : x.tmod y = 0 ∨ (x.tmod y < 0 ↔ x < 0) := by
  by_cases neg : x < 0
  · have le : 0 ≤ (-x).tmod y := Int.tmod_nonneg y (by omega)
    rw [Int.neg_tmod] at le
    omega
  · have le : 0 ≤ x.tmod y := Int.tmod_nonneg y (by omega)
    omega

/-- What is left beside a quotient: less than the divisor in magnitude, with the sign of the dividend. -/
theorem remS_spec {x y : Word} (nonzero : y ≠ 0) :
    ∃ q : Int, x.toInt = q * y.toInt + (remS x y).toInt ∧ (remS x y).toInt.natAbs < y.toInt.natAbs ∧
      ((remS x y).toInt = 0 ∨ ((remS x y).toInt < 0 ↔ x.toInt < 0)) := by
  have divisor : y.toInt ≠ 0 := fun zero => nonzero (BitVec.eq_of_toInt_eq zero)
  rw [toInt_remS nonzero]
  refine ⟨x.toInt.tdiv y.toInt, ?_, ?_, tmod_eq_zero_or_neg_iff _ _⟩
  · rw [Int.mul_comm, Int.mul_tdiv_add_tmod]
  · rw [Int.natAbs_tmod]
    exact Nat.mod_lt _ (Int.natAbs_pos.mpr divisor)

/-! ## Extended immediates -/

theorem signExtend_toNat {w v : Nat} (i : BitVec w) : ((i.signExtend v).toNat : Int) = i.toInt % 2 ^ v := by
  have modulus : ((2 ^ v : Nat) : Int) = 2 ^ v := Int.natCast_pow 2 v
  have pos : 0 < 2 ^ v := Nat.two_pow_pos v
  rw [BitVec.signExtend, BitVec.toNat_ofInt, ← modulus]
  exact Int.toNat_of_nonneg (Int.emod_nonneg _ (by omega))

/-- The immediate of a compare keeps its signed value (R104). -/
theorem immediate_toInt (c : BitVec 11) : (c.signExtend 64).toInt = c.toInt := BitVec.toInt_signExtend_of_le (by decide)

/-- A bit of a sign-extended value is its own bit, or its highest above it. -/
theorem signExtend_getLsbD {w v : Nat} (i : BitVec (w + 1)) {k : Nat} (lt : k < v) :
    (i.signExtend v).getLsbD k = i.getLsbD (min k w) := by
  rw [BitVec.getLsbD_signExtend, decide_eq_true lt, Bool.true_and]
  split
  case isTrue inside => rw [Nat.min_eq_left (by omega)]
  case isFalse above => rw [Nat.min_eq_right (by omega), BitVec.msb_eq_getLsbD_last, Nat.add_sub_cancel]

theorem toNat_shiftLeft_or_low (x : Word) (j : BitVec 20) :
    (x <<< 20 ||| j.setWidth 64).toNat = (x.toNat * 2 ^ 20 + j.toNat) % 2 ^ 64 := by
  have j_lt : j.toNat < 2 ^ 20 := j.isLt
  have high : x.toNat * 2 ^ 20 % 2 ^ 64 = 2 ^ 20 * (x.toNat % 2 ^ 44) := by omega
  rw [BitVec.toNat_or, shiftLeft_toNat, BitVec.toNat_setWidth, Nat.mod_eq_of_lt (by omega : j.toNat < 2 ^ 64), high,
    ← Nat.two_pow_add_eq_or_of_lt j_lt]
  omega

/-! ## Fields -/

theorem sext_eq_toInt {w : Nat} (x : BitVec w) (n : Nat) : sext x n = (x.setWidth n).toInt := by
  have modulus : ((2 ^ n : Nat) : Int) = 2 ^ n := Int.natCast_pow 2 n
  rw [BitVec.toInt_eq_toNat_cond, BitVec.toNat_setWidth, modulus]
  rfl

/-- A signed field as a sign extension. -/
theorem fieldI_eq_signExtend (x : Word) {n : Nat} (pos : Nat) (le : n ≤ 64) :
    fieldI x n pos = (x.extractLsb' pos n).signExtend 64 := by
  have same : (BitVec.ofNat 64 (bits x pos n)).setWidth n = x.extractLsb' pos n := by
    apply BitVec.eq_of_toNat_eq
    have dvd : 2 ^ n ∣ 2 ^ 64 := Nat.pow_dvd_pow 2 le
    rw [BitVec.toNat_setWidth, BitVec.toNat_ofNat, BitVec.extractLsb'_toNat, Nat.mod_mod_of_dvd _ dvd, bits, Nat.mod_mod,
      Nat.shiftRight_eq_div_pow]
  rw [fieldI, sext_eq_toInt, same]
  rfl

theorem getLsbD_fieldI (x : Word) {l : Nat} (pos : Nat) (lt : l < 64) : ∀ k < 64,
    (fieldI x (l + 1) pos).getLsbD k = x.getLsbD (pos + min k l) := by
  intro k k_lt
  rw [fieldI_eq_signExtend x pos lt, signExtend_getLsbD _ k_lt, BitVec.getLsbD_extractLsb',
    decide_eq_true (by omega : min k l < l + 1), Bool.true_and]

theorem getLsbD_fieldN (x : Word) (l pos k : Nat) :
    (fieldN x (l + 1) pos).getLsbD k = (decide (k ≤ l) && x.getLsbD (pos + k)) := by
  rw [fieldN, bits, BitVec.getLsbD_ofNat, Nat.testBit_mod_two_pow, Nat.testBit_div_two_pow, BitVec.testBit_toNat,
    Nat.add_comm k pos]
  by_cases lt : k < 64
  · rw [decide_eq_true lt, Bool.true_and]
    simp only [Nat.lt_succ_iff]
  · simp only [BitVec.getLsbD_of_ge x (pos + k) (by omega), Bool.and_false]

/-- A bit of a word with a field replaced is the field's inside it, and the word's outside. -/
theorem getLsbD_putField (x : Word) {pos n v : Nat} (inside : pos + n ≤ 64) (k : Nat) :
    (putField x pos n v).getLsbD k = if pos ≤ k ∧ k < pos + n then v.testBit (k - pos) else x.getLsbD k := by
  have low : x.toNat % 2 ^ pos < 2 ^ pos := Nat.mod_lt _ (Nat.two_pow_pos _)
  have mid : v % 2 ^ n < 2 ^ n := Nat.mod_lt _ (Nat.two_pow_pos _)
  have packed : x.toNat / 2 ^ (pos + n) * 2 ^ (pos + n) + v % 2 ^ n * 2 ^ pos + x.toNat % 2 ^ pos =
      2 ^ pos * (2 ^ n * (x.toNat / 2 ^ (pos + n)) + v % 2 ^ n) + x.toNat % 2 ^ pos := by
    rw [Nat.pow_add, Nat.mul_add]; ac_rfl
  simp only [putField]
  rw [packed, BitVec.getLsbD_ofNat, Nat.testBit_two_pow_mul_add _ low, Nat.testBit_two_pow_mul_add _ mid,
    Nat.testBit_mod_two_pow, Nat.testBit_mod_two_pow, Nat.testBit_div_two_pow, BitVec.testBit_toNat]
  rcases Nat.lt_or_ge k pos with below | not_below
  · simp [below, show k < 64 by omega, show ¬pos ≤ k by omega]
  by_cases in_field : k < pos + n
  · simp [in_field, not_below, show ¬k < pos by omega, show k < 64 by omega, show k - pos < n by omega]
  · have place : k - pos - n + (pos + n) = k := by omega
    rw [if_neg (by omega), if_neg (by omega), if_neg (by omega), place, BitVec.testBit_toNat]
    by_cases lt : k < 64
    · rw [decide_eq_true lt, Bool.true_and]
    · rw [BitVec.getLsbD_of_ge x k (by omega), Bool.and_false]

/-- An inserted field inside the word (R108). -/
theorem getLsbD_insert (x y : Word) {l pos : Nat} (inside : l + pos ≤ 63) (k : Nat) :
    (Machine.insert x y (l + 1) pos).getLsbD k = if pos ≤ k ∧ k ≤ pos + l then y.getLsbD (k - pos) else x.getLsbD k := by
  simp only [Machine.insert, getLsbD_putField x (show pos + (l + 1) ≤ 64 by omega), BitVec.testBit_toNat, ← Nat.add_assoc,
    Nat.lt_succ_iff]

end Sys2Proof.Proofs
end

section
/-! The scalar computations (R97 to R110): a ready form enters its value, and the function codes of the two groups. -/

namespace Sys2Proof.Proofs

open Machine Laws

/-! ## What a ready computation writes -/

section Writes

variable {i : Instr} {l : Nat} {d a b c : Fin 64} {s : State} {p : Word → Prop}

theorem writesS_scalar1 {f : Word → Word} (means : exec i s = scalar1 i d a f s) (value : p (f (s.readS a).val))
    (ready : Ready i s) : WritesS i s 1 d (s.readS a).tag p :=
  ⟨_, means.trans (scalar1_ready ready d a f), value⟩

theorem writesS_scalar2 {f : Word → Word → Word} (means : exec i s = scalar2 i l d a b f s)
    (value : p (f (s.readS a).val (s.readS b).val)) (ready : Ready i s) :
    WritesS i s l d (maxTag (s.readS a).tag (s.readS b).tag) p :=
  ⟨_, means.trans (scalar2_ready ready l d a b f), value⟩

theorem writesS_scalar3 {f : Word → Word → Word → Word} (means : exec i s = scalar3 i d a b c f s)
    (value : p (f (s.readS a).val (s.readS b).val (s.readS c).val)) (ready : Ready i s) :
    WritesS i s 1 d (maxTag (maxTag (s.readS a).tag (s.readS b).tag) (s.readS c).tag) p :=
  ⟨_, means.trans (scalar3_ready ready d a b c f), value⟩

end Writes

/-- A word packed from an opcode, three registers and a function code keeps the code in its low byte (R100, R101). -/
theorem encode_lowByte {i : Instr} {op fn : Nat} (d a b : Fin 64)
    (packs : encodeNat i = some (pack [(op, 26), (d.val, 20), (a.val, 14), (b.val, 8), (fn, 0)]))
    (op_lt : op < 2 ^ 6 := by decide) (fn_lt : fn < 2 ^ 8 := by decide) :
    ∃ w : SlotWord, encode i = some w ∧ w.toNat % 256 = fn := by
  have word : encode i = some (BitVec.ofNat 32 (pack [(op, 26), (d.val, 20), (a.val, 14), (b.val, 8), (fn, 0)])) := by
    rw [encode, packs]; rfl
  have low := Coded.read [(op, 26, 6), (d.val, 20, 6), (a.val, 14, 6), (b.val, 8, 6), (fn, 0, 8)] rfl rfl
    ⟨op_lt, d.isLt, a.isLt, b.isLt, fn_lt, trivial⟩ 0 8 fn rfl
  rw [bits, Nat.pow_zero, Nat.div_one] at low
  exact ⟨_, word, low⟩

/-! ## The ALU group -/

/-- Settles O1: each form is one of the shared computations, and its value is what the word lemmas say. -/
theorem aluForms : Obligations.AluForms := by
  refine ⟨fun d a b s => ?_, fun d a s => ?_, fun d a b => ?_⟩
  · have amount : (s.readS b).val.toNat % 64 < 64 := Nat.mod_lt _ (by decide)
    exact ⟨writesS_scalar2 (exec_add d a b s) (BitVec.toNat_add _ _),
      writesS_scalar2 (exec_sub d a b s) (sub_toNat_add_mod _ _),
      writesS_scalar2 (exec_and d a b s) (fun _ => BitVec.getLsbD_and),
      writesS_scalar2 (exec_or d a b s) (fun _ => BitVec.getLsbD_or),
      writesS_scalar2 (exec_xor d a b s) (fun _ => BitVec.getLsbD_xor),
      writesS_scalar2 (exec_andn d a b s) (andNot_getLsbD _ _),
      writesS_scalar2 (exec_shl d a b s) (shiftLeft_toNat _ _),
      writesS_scalar2 (exec_shr d a b s) (ushiftRight_toNat _ _),
      writesS_scalar2 (exec_sar d a b s) (sshiftRight_toInt _ _),
      writesS_scalar2 (exec_rol d a b s) (rotateLeft_getLsbD _ amount),
      writesS_scalar2 (exec_min d a b s) (toInt_min _ _),
      writesS_scalar2 (exec_max d a b s) (toInt_max _ _),
      writesS_scalar2 (exec_minn d a b s) (toNat_min _ _),
      writesS_scalar2 (exec_maxn d a b s) (toNat_max _ _),
      writesS_scalar2 (exec_cmpEq d a b s) (by simp only [toNat_truth_beq, BitVec.toNat_inj]),
      writesS_scalar2 (exec_cmpNe d a b s) (by simp only [toNat_truth_bne, BitVec.toNat_inj]),
      writesS_scalar2 (exec_cmpLt d a b s) (toNat_truth_decide _),
      writesS_scalar2 (exec_cmpLe d a b s) (toNat_truth_decide _),
      writesS_scalar2 (exec_cmpLtn d a b s) (toNat_truth_decide _),
      writesS_scalar2 (exec_cmpLen d a b s) (toNat_truth_decide _)⟩
  · exact ⟨writesS_scalar1 (exec_clz d a s) (clzWord_spec _), writesS_scalar1 (exec_ctz d a s) (ctzWord_spec _),
      writesS_scalar1 (exec_ffs d a s) (ffsWord_spec _), writesS_scalar1 (exec_popc d a s) (toNat_popcWord _),
      writesS_scalar1 (exec_brev d a s) (reverse_getLsbD _)⟩
  · simp only [List.forall_mem_cons, List.not_mem_nil, false_imp_iff, implies_true, and_true]
    and_intros
    iterate 20 exact encode_lowByte d a b rfl
    all_goals exact encode_lowByte d a 0 rfl

/-! ## The MUL group -/

/-- Settles O2: each form is the shared computation of two registers with its latency and the value of its word lemma. -/
theorem mulForms : Obligations.MulForms := by
  intro d a b s
  refine ⟨writesS_scalar2 (exec_mul d a b s) (BitVec.toNat_mul _ _),
    writesS_scalar2 (exec_mulh d a b s) (toInt_mulHigh _ _),
    writesS_scalar2 (exec_mulhn d a b s) (toNat_mulHighUnsigned _ _),
    writesS_scalar2 (exec_div d a b s) ⟨divS_of_zero, toInt_divS_overflow, toInt_divS⟩,
    writesS_scalar2 (exec_divn d a b s) ⟨divU_of_zero, toNat_divU⟩,
    writesS_scalar2 (exec_rem d a b s) ⟨remS_of_zero, fun _ => remS_minus_one _, remS_spec⟩,
    writesS_scalar2 (exec_remn d a b s) ⟨remU_of_zero, toNat_remU⟩, ?_⟩
  simp only [List.forall_mem_cons, List.not_mem_nil, false_imp_iff, implies_true, and_true]
  and_intros
  all_goals exact encode_lowByte d a b rfl

/-! ## Immediates, constants, fields, funnels, selection -/

/-- Settles O3: the immediate forms are the register forms' values of an extended immediate, and fields, funnels and selection
are read off bit by bit. -/
theorem immediateForms : Obligations.ImmediateForms := by
  refine ⟨fun d a i n c j s => ?_, fun d a b c l p n s => ?_⟩
  · exact ⟨writesS_scalar1 (exec_addi d a i s) rfl,
      writesS_scalar1 (exec_andi d a i s) fun k lt => by rw [BitVec.getLsbD_and, signExtend_getLsbD i lt],
      writesS_scalar1 (exec_ori d a i s) fun k lt => by rw [BitVec.getLsbD_or, signExtend_getLsbD i lt],
      writesS_scalar1 (exec_xori d a i s) fun k lt => by rw [BitVec.getLsbD_xor, signExtend_getLsbD i lt],
      writesS_scalar1 (exec_shli d a n s) (shiftLeft_toNat _ _),
      writesS_scalar1 (exec_shri d a n s) (ushiftRight_toNat _ _),
      writesS_scalar1 (exec_sari d a n s) (sshiftRight_toInt _ _),
      writesS_scalar1 (exec_roli d a n s) (rotateLeft_getLsbD _ n.isLt),
      writesS_scalar1 (exec_cmpiEq d a c s) (by simp only [toNat_truth_beq, ← BitVec.toInt_inj, immediate_toInt]),
      writesS_scalar1 (exec_cmpiNe d a c s) (by simp only [toNat_truth_bne, ← BitVec.toInt_inj, immediate_toInt]),
      writesS_scalar1 (exec_cmpiLt d a c s) (by simp only [toNat_truth_decide, immediate_toInt]),
      writesS_scalar1 (exec_cmpiLe d a c s) (by simp only [toNat_truth_decide, immediate_toInt]),
      writesS_scalar1 (exec_cmpiLtn d a c s) (by simp only [toNat_truth_decide, ← signExtend_toNat, Int.ofNat_lt]),
      writesS_scalar1 (exec_cmpiLen d a c s) (by simp only [toNat_truth_decide, ← signExtend_toNat, Int.ofNat_le]),
      fun ready => ⟨_, (exec_li d j s).trans (issue_next ready rfl), BitVec.toInt_signExtend_of_le (by decide)⟩,
      writesS_scalar1 (exec_liu d j s) (toNat_shiftLeft_or_low _ _)⟩
  · exact ⟨writesS_scalar1 (exec_bfxN d a l p s) (getLsbD_fieldN _ _ _),
      writesS_scalar1 (exec_bfxI d a l p s) (getLsbD_fieldI _ _ l.isLt),
      fun ready => writesS_scalar2 (exec_bfi d a l p s) (getLsbD_insert _ _ (of_decide_eq_true ready.wf)) ready,
      writesS_scalar2 (exec_fshl d a b n s) (BitVec.toNat_ofNat _ _),
      writesS_scalar2 (exec_fshr d a b n s) (BitVec.toNat_ofNat _ _),
      writesS_scalar3 (exec_fshlv d a b c s) (BitVec.toNat_ofNat _ _),
      writesS_scalar3 (exec_fshrv d a b c s) (BitVec.toNat_ofNat _ _),
      writesS_scalar3 (exec_sel d a b c s) ⟨fun nonzero => if_neg nonzero, fun zero => if_pos zero⟩⟩

end Sys2Proof.Proofs
end

section
/-! Transfers (R55, R112 to R115) and the fetch path they count along (R22, R23). -/

namespace Sys2Proof.Proofs

open Machine Laws

/-! ## Displacements -/

/-- An address moved by a displacement wraps modulo 2^56 (R112, log 82). -/
theorem toNat_add_signExtend {w : Nat} (a : BitVec 56) (i : BitVec w) :
    ((a + i.signExtend 56).toNat : Int) = ((a.toNat : Int) + i.toInt) % 2 ^ 56 := by
  have moved := signExtend_toNat (v := 56) i
  rw [BitVec.toNat_add]
  omega

theorem toNat_relative {w : Nat} (s : State) (i : BitVec w) :
    ((s.relative i).toNat : Int) = ((s.cur.addr.toNat : Int) + i.toInt) % 2 ^ 56 := by
  rw [State.relative, BitVec.toNat_setWidth_of_le (by decide), toNat_add_signExtend]

/-! ## Branches -/

/-- A ready conditional branch tells the trace its outcome and enters its transfer (R113, R115). -/
theorem exec_branch {i : Instr} {a : Fin 64} {disp : BitVec 16} {f : Int → Bool} {s : State}
    (means : exec i s = branch i a disp f s) (ready : Ready i s) :
    exec i s = .next (s.branchAct (f (s.readS a).val.toInt) disp) :=
  means.trans (issue_next ready rfl)

/-- What the statement asks of a branch follows from its outcome. -/
theorem branch_goes {i : Instr} {a : Fin 64} {disp : BitVec 16} {f : Int → Bool} {s : State} {taken : Bool}
    (means : exec i s = branch i a disp f s) (outcome : f (s.readS a).val.toInt = taken) (ready : Ready i s) :
    ∃ target : Word, (target.toNat : Int) = ((s.cur.addr.toNat : Int) + disp.toInt) % 2 ^ 56 ∧
      exec i s = .next ((s.traceOutcome s.cur.ctx taken).setTransfer taken target) :=
  ⟨s.relative disp, toNat_relative s disp, outcome ▸ exec_branch means ready⟩

/-! ## A context passes its bundles -/

theorem elapse_keeps (c : Ctx) : c.elapse.regs = c.regs ∧ c.elapse.transfer = c.transfer := by
  unfold Ctx.elapse
  dsimp only
  split
  · exact ⟨rfl, rfl⟩
  · split <;> exact ⟨rfl, rfl⟩

theorem tick_regs (c : Ctx) : c.tick.regs = c.regs := (elapse_keeps _).1
theorem tick_transfer (c : Ctx) : c.tick.transfer = c.transfer := (elapse_keeps _).2

theorem pass_regs (c : Ctx) (n : BitVec 56) : (c.pass n).regs = c.regs := by
  unfold Ctx.pass
  dsimp only
  split <;> exact tick_regs c

theorem pass_transfer (c : Ctx) (n : BitVec 56) : (c.pass n).transfer = (passTransfer c.transfer).1 := by
  unfold Ctx.pass
  simp only [tick_transfer]
  split <;> rfl

/-- Fetch goes on at the target of the transfer that is made now, or at the next bundle (R55, R115). -/
theorem pass_pc (c : Ctx) (n : BitVec 56) :
    (c.pass n).pc = (passTransfer c.transfer).2.elim n fun t => field t.target 0 56 := by
  unfold Ctx.pass
  simp only [tick_transfer]
  split <;> simp only [*, Option.elim]

theorem pass_checked (c : Ctx) (n : BitVec 56) : (c.pass n).checked = (passTransfer c.transfer).2.isNone := by
  unfold Ctx.pass
  simp only [tick_transfer]
  split <;> simp only [*, Option.isNone]

theorem passTransfer_counts {t : Transfer} (more : 1 < t.due) :
    passTransfer (some t) = (some { t with due := t.due - 1 }, none) := if_neg (by omega)

theorem passTransfer_ends {t : Transfer} (last : t.due ≤ 1) :
    passTransfer (some t) = (none, if t.taken then some t else none) := if_pos last

/-- While a transfer has bundles left, each bundle counts it down and fetch runs on (R115). -/
theorem pass_delay {c : Ctx} {t : Transfer} {k : Nat} (pending : c.transfer = some { t with due := k + 2 }) (n : BitVec 56) :
    (c.pass n).transfer = some { t with due := k + 1 } ∧ (c.pass n).pc = n := by
  rw [pass_transfer, pass_pc, pending, passTransfer_counts (by simp)]
  exact ⟨rfl, rfl⟩

/-- After the third delay bundle fetch goes on at the target of a transfer that is taken, and at the next bundle otherwise (R55). -/
theorem pass_last {c : Ctx} {t : Transfer} (pending : c.transfer = some t) (last : t.due ≤ 1) (n : BitVec 56) :
    (c.pass n).transfer = none ∧ (c.pass n).pc = (if t.taken then BitVec.ofNat 56 t.target.toNat else n) ∧
      (c.pass n).checked = !t.taken := by
  rw [pass_transfer, pass_pc, pass_checked, pending, passTransfer_ends last]
  cases taken : t.taken
  · exact ⟨rfl, rfl, rfl⟩
  · refine ⟨rfl, ?_, rfl⟩
    simp only [if_true, Option.elim, field, Nat.pow_zero, Nat.div_one]

/-! ## The fetch path -/

/-- Of numbered positions, those that a header names are as many as the bits set at their numbers (R22). -/
theorem length_namedSlots (h : Byte) (slots : List (Nat × SlotPos)) :
    (slots.filterMap fun e => if bits h e.1 1 = 1 then some e.2 else none).length =
      (slots.map Prod.fst).countP fun i => h.getLsbD i := by
  have named : ∀ e : Nat × SlotPos, (if bits h e.1 1 = 1 then some e.2 else none).isSome = h.getLsbD e.1 := by
    intro e
    rw [← div_pow_mod_two_beq, Bool.eq_iff_iff, beq_iff_eq, Option.isSome_ite]
    rfl
  simp only [List.length_filterMap_eq_countP, named, List.countP_map, Function.comp_def]

theorem length_headerSlots (h : Byte) : (headerSlots h).length = (List.range 8).countP fun i => h.getLsbD i :=
  calc (headerSlots h).length
      = ((List.range 8).reverse).countP fun i => h.getLsbD i :=
        length_namedSlots h [(7, .g), (6, .s), (5, .v0), (4, .v1), (3, .m), (2, .c0), (1, .c1), (0, .x)]
    _ = (List.range 8).countP fun i => h.getLsbD i := List.countP_reverse

/-- The path stays at an address whose header is no filler. -/
theorem nextBundle_of_header {s : State} {x : CtxId} {d : BitVec 56} {fuel : Nat}
    (header : (s.lineAt x d).getD (d.toNat % 64) 0 ≠ 0) : s.nextBundle x d fuel = d := by
  cases fuel with
  | zero => rfl
  | succ f =>
    rw [List.getD_eq_getElem?_getD] at header
    rw [State.nextBundle]
    cases byte : (s.lineAt x d)[d.toNat % 64]? with
    | none => rfl
    | some h =>
      rw [byte] at header
      exact if_neg header

theorem linkAddr_of_headers {s : State} {x : CtxId} {a : BitVec 56}
    (headers : ∀ d ∈ [s.nextAddr x a, s.nextAddr x (s.nextAddr x a), s.nextAddr x (s.nextAddr x (s.nextAddr x a))],
      (s.lineAt x d).getD (d.toNat % 64) 0 ≠ 0) :
    s.linkAddr x a = s.nextAddr x (s.nextAddr x (s.nextAddr x (s.nextAddr x a))) := by
  simp only [List.forall_mem_cons] at headers
  obtain ⟨first, second, third, -⟩ := headers
  simp only [State.linkAddr, nextBundle_of_header first, nextBundle_of_header second, nextBundle_of_header third]

theorem toNat_afterBundle (a : BitVec 56) (h : Byte) : (afterBundle a h).toNat = (a.toNat + bundleLength h) % 2 ^ 56 := by
  rw [afterBundle, BitVec.toNat_add, BitVec.toNat_ofNat, Nat.add_mod_mod]

theorem toNat_nextLine (a : BitVec 56) : (lineOf a + 64).toNat = (a.toNat / 64 + 1) * 64 % 2 ^ 56 := by
  rw [lineOf, BitVec.toNat_add, BitVec.toNat_ofNat, Nat.mod_add_mod, Nat.add_mul]
  rfl

/-- The address after a bundle: its line's next byte, or the next line where that byte is a filler or the line ends (R22, R23). -/
theorem toNat_nextAddr {s : State} {x : CtxId} {a : BitVec 56} {n : Nat} (header : (s.lineAt x a).getD (a.toNat % 64) 0 ≠ 0)
    (after : a.toNat % 64 + bundleLength ((s.lineAt x a).getD (a.toNat % 64) 0) = n) (inside : n ≤ 64) :
    (s.nextAddr x a).toNat = (if n = 64 ∨ (s.lineAt x a).getD n 0 = 0 then (a.toNat / 64 + 1) * 64
      else a.toNat / 64 * 64 + n) % 2 ^ 56 := by
  have end_eq := toNat_afterBundle a ((s.lineAt x a).getD (a.toNat % 64) 0)
  have length_pos : 0 < bundleLength ((s.lineAt x a).getD (a.toNat % 64) 0) := Nat.add_pos_left Nat.one_pos _
  simp only [State.nextAddr, if_neg header]
  by_cases ends : n = 64
  · rw [if_pos (by omega), if_pos (Or.inl ends)]
    omega
  · have place : (afterBundle a ((s.lineAt x a).getD (a.toNat % 64) 0)).toNat % 64 = n := by omega
    rw [if_neg (by omega), skipFiller, place]
    by_cases filler : (s.lineAt x a).getD n 0 = 0
    · rw [if_pos filler, if_pos (Or.inr filler), toNat_nextLine]
      omega
    · rw [if_neg filler, if_neg (not_or.mpr ⟨ends, filler⟩)]
      omega

/-! ## The statement -/

/-- Settles O9: branches, the count of a transfer, jumps and calls, and the fetch path, each by its lemma. -/
theorem transfers : Obligations.Transfers := by
  refine ⟨fun a i s => ?_, fun c t n0 n1 n2 n3 pending due => ?_, fun a i s => ?_, fun x a s => ?_⟩
  · exact ⟨branch_goes (exec_brZ a i s) rfl, branch_goes (exec_brNz a i s) decide_not.symm, branch_goes (exec_brNeg a i s) rfl,
      branch_goes (exec_brNneg a i s) rfl, branch_goes (exec_brPos a i s) rfl, branch_goes (exec_brNpos a i s) rfl,
      fun ready => ⟨s.relative i, toNat_relative s i, (exec_br i s).trans (issue_next ready rfl)⟩⟩
  · have four : c.transfer = some { t with due := 2 + 2 } :=
      pending.trans (congrArg (fun k => some { t with due := k }) due)
    obtain ⟨three, -⟩ := pass_delay four n0
    obtain ⟨two, -⟩ := pass_delay three n1
    obtain ⟨one, pc⟩ := pass_delay two n2
    obtain ⟨made, goes, checked⟩ := pass_last one (Nat.le_refl _) n3
    exact ⟨pc, one, made, by simp only [pass_regs], goes, checked⟩
  · exact ⟨fun ready => (exec_jmp a s).trans (issue_next ready rfl),
      fun ready => ⟨s.relative i, toNat_relative s i, (exec_call i s).trans (issue_next ready rfl)⟩,
      fun ready => (exec_callr a s).trans (issue_next ready rfl)⟩
  · refine ⟨fun header inside => ?_, linkAddr_of_headers⟩
    exact toNat_nextAddr header (by rw [bundleLength, length_headerSlots, ← Nat.add_assoc]) inside

end Sys2Proof.Proofs
end

section
/-! What a poisoned scalar operand does (R84, R85), and `chk` (R117). -/

namespace Sys2Proof.Proofs

open Machine Laws

/-! ## The checks of one operand (R84, R85) -/

section OneRead

variable {handler : Bool} {p : SlotPos} {r : Machine.Read}

theorem operandStop_late {cls : Fin 4} {grp : Fin 8} {reg : Fin 64} (late : r.late = some (cls, grp, reg)) :
    operandStop handler [(p, r)] = some (p, if handler then .raise .late Info.none else .late cls grp reg) := by
  simp [operandStop, late]

theorem operandStop_contain (on_time : r.late = none) (lost : r.contain = true) :
    operandStop handler [(p, r)] = some (p, .raise .contain Info.none) := by
  simp [operandStop, on_time, lost]

theorem operandStop_poisonuse (on_time : r.late = none) (here : r.contain = false) (deferred : r.poisonuse = true) :
    operandStop handler [(p, r)] = some (p, .raise .poisonuse Info.none) := by
  simp [operandStop, on_time, here, deferred]

theorem operandStop_recovery {target : BitVec 56} (on_time : r.late = none) (here : r.contain = false)
    (allowed : r.poisonuse = false) (recovers : r.recovery = some target) :
    operandStop handler [(p, r)] = some (p, .redirect target) := by
  simp [operandStop, on_time, here, allowed, recovers]

end OneRead

theorem useS_has (s : State) (u : Use) (a : Fin 64) (t : Tag) : (s.useS u a).has t = ((s.readS a).tag == t) := by
  simp [State.useS, Read.has]

/-- A scalar register is late as group 0 of class 0 (R329). -/
theorem useS_late {s : State} {a : Fin 64} (u : Use) (late : (s.readS a).tag = .late) : (s.useS u a).late = some (0, 0, a) := by
  simp [State.useS, Read.late, late]

theorem useS_not_late {s : State} {a : Fin 64} (u : Use) (on_time : (s.readS a).tag ≠ .late) : (s.useS u a).late = none := by
  simp [State.useS, Read.late, on_time]

theorem useS_contain (s : State) (u : Use) (a : Fin 64) :
    (s.useS u a).contain = ((u == .strict || u == .spec) && (s.readS a).tag == .lost) :=
  congrArg ((u == .strict || u == .spec) && ·) (useS_has s u a .lost)

theorem useS_poisonuse (s : State) (u : Use) (a : Fin 64) :
    (s.useS u a).poisonuse = ((u == .strict || u == .data) && (s.readS a).tag == .deferred) :=
  congrArg ((u == .strict || u == .data) && ·) (useS_has s u a .deferred)

/-- No poison but late stops `chk` itself (R84). -/
theorem useS_chk_passes (s : State) (target : BitVec 56) (a : Fin 64) :
    (s.useS (.chk target) a).contain = false ∧ (s.useS (.chk target) a).poisonuse = false :=
  ⟨useS_contain s _ a, useS_poisonuse s _ a⟩

theorem useS_chk_recovery (s : State) (target : BitVec 56) (a : Fin 64) :
    (s.useS (.chk target) a).recovery = if (s.readS a).tag = .deferred then some target else none := by
  simp [Read.recovery, State.useS, Read.has]

/-! ## What stops an instruction with one scalar operand -/

section OneOperand

variable {i : Instr} {s : State} {a : Fin 64} {u : Use} {act : State → Except Stop State}

/-- A stop of the operand checks is taken before any effect (R85). -/
theorem stops_of_operandStop {e : Stop} (means : exec i s = issue i s act) (wf : i.wf = true) (reads : s.uses i = [s.useS u a])
    (stop : operandStop s.bank?.isSome [(s.cur.pos, s.useS u a)] = some (s.cur.pos, e)) : Stops i s e := by
  have check : s.operandCheck i = .error e := by rw [State.operandCheck, reads, List.map_singleton, stop]
  rw [Stops, means, issue, wf, check]
  rfl

/-- A late operand traps in place, whatever its use; in a handler it is a fault (R85, R276). -/
theorem stops_of_late (means : exec i s = issue i s act) (wf : i.wf = true) (reads : s.uses i = [s.useS u a])
    (late : (s.readS a).tag = .late) : Stops i s (if s.bank?.isSome then .raise .late Info.none else .late 0 0 a) :=
  stops_of_operandStop means wf reads (operandStop_late (useS_late u late))

theorem stops_of_late_outside (means : exec i s = issue i s act) (wf : i.wf = true) (reads : s.uses i = [s.useS u a])
    (late : (s.readS a).tag = .late) (outside : s.bank? = none) : Stops i s (.late 0 0 a) := by
  simpa [outside] using stops_of_late means wf reads late

/-- The outcomes of R84 and R85 for an instruction that reads one scalar register, strictly. -/
theorem strict_outcomes (means : exec i s = issue i s act) (wf : i.wf = true) (reads : s.uses i = [s.useS .strict a]) :
    ((s.readS a).tag = .lost → Stops i s (.raise .contain Info.none)) ∧
    ((s.readS a).tag = .deferred → Stops i s (.raise .poisonuse Info.none)) ∧
    ((s.readS a).tag = .late → s.bank? = none → Stops i s (.late 0 0 a)) ∧
    ((s.readS a).tag = .late → s.bank? ≠ none → Stops i s (.raise .late Info.none)) := by
  refine ⟨fun lost => ?_, fun deferred => ?_, stops_of_late_outside means wf reads, fun late handler => ?_⟩
  · refine stops_of_operandStop means wf reads (operandStop_contain (useS_not_late _ (by simp [lost])) ?_)
    rw [useS_contain, lost]
    rfl
  · refine stops_of_operandStop means wf reads (operandStop_poisonuse (useS_not_late _ (by simp [deferred])) ?_ ?_)
    · rw [useS_contain, deferred]
      rfl
    · rw [useS_poisonuse, deferred]
      rfl
  · simpa [Option.isSome_iff_ne_none, handler] using stops_of_late means wf reads late

end OneOperand

/-! ## `chk` -/

/-- The recovery target of `chk` is its displacement from its bundle (R117, log 82). -/
theorem uses_chk (s : State) (a : Fin 64) (i : BitVec 16) :
    s.uses (.chk a i) = [s.useS (.chk (s.cur.addr + i.signExtend 56)) a] := by
  have target : trunc (sext i 16) 56 = i.signExtend 56 := by rw [sext_eq_toInt, BitVec.setWidth_eq]; rfl
  rw [← target]
  rfl

/-- `chk` of a register that is neither deferred nor late is ready wherever its context has room, and a lost tag does not stop
it (R84, R117). -/
theorem ready_chk {s : State} {a : Fin 64} {i : BitVec 16} (good : (s.readS a).tag = .clean ∨ (s.readS a).tag = .lost)
    (fits : Fits (.chk a i) s) : Ready (.chk a i) s := by
  have not_late : (s.readS a).tag ≠ .late := by rcases good with tag | tag <;> simp [tag]
  have not_deferred : (s.readS a).tag ≠ .deferred := by rcases good with tag | tag <;> simp [tag]
  refine ⟨rfl, ?_, fits, nofun, nofun, nofun⟩
  obtain ⟨here, allowed⟩ := useS_chk_passes s (s.cur.addr + i.signExtend 56) a
  rw [Readable, uses_chk, List.forall_mem_singleton]
  exact ⟨useS_not_late _ not_late, here, allowed, (useS_chk_recovery _ _ _).trans (if_neg not_deferred)⟩

/-- A deferred register sends `chk` to its recovery target (R117). -/
theorem stops_chk_deferred {s : State} {a : Fin 64} {i : BitVec 16} (deferred : (s.readS a).tag = .deferred) :
    Stops (.chk a i) s (.redirect (s.cur.addr + i.signExtend 56)) := by
  obtain ⟨here, allowed⟩ := useS_chk_passes s (s.cur.addr + i.signExtend 56) a
  exact stops_of_operandStop (exec_chk a i s) rfl (uses_chk s a i) (operandStop_recovery (useS_not_late _ (by simp [deferred]))
    here allowed ((useS_chk_recovery _ _ _).trans (if_pos deferred)))

/-- Settles O10: `chk` by its register's tag, and the strict operand of the six instructions that read one scalar register. -/
theorem poisonOutcomes : Obligations.PoisonOutcomes := by
  refine ⟨fun a i s => ⟨fun good fits => ?_, fun deferred => ?_, ?_⟩, fun a s => ?_⟩
  · exact (exec_chk a i s).trans (issue_next (ready_chk good fits) rfl)
  · exact ⟨_, toNat_add_signExtend s.cur.addr i, stops_chk_deferred deferred⟩
  · exact stops_of_late_outside (exec_chk a i s) rfl (uses_chk s a i)
  · simp only [List.forall_mem_cons]
    exact ⟨strict_outcomes (exec_jmp a s) rfl rfl, strict_outcomes (exec_callr a s) rfl rfl,
      strict_outcomes (exec_sig a s) rfl rfl, strict_outcomes (exec_clrf a s) rfl rfl, strict_outcomes (exec_clrfErr a s) rfl rfl,
      strict_outcomes (exec_xtblKey a s) rfl rfl, List.forall_mem_nil _⟩

end Sys2Proof.Proofs
end

section
/-! The sequence unit (R149, R153 to R157): a point bit by bit, the transfers of dimension records, and what stands after a
span's lines are looked up in the TLBs (R352). -/

namespace Sys2Proof.Proofs

open Machine Laws

/-! ## Points (R149, R150) -/

theorem decide_succ_mod_two (n : Nat) : decide ((n + 1) % 2 = 1) = !decide (n % 2 = 1) := by
  rw [← decide_not, decide_eq_decide]; omega

/-- A bit of a sum without carry of selected words is the parity of the selected words that have it. -/
theorem getLsbD_foldl_xor {w : Nat} (selected : Nat → Bool) (word : Nat → BitVec w) (l : List Nat) (y : BitVec w) (j : Nat) :
    (l.foldl (fun y k => if selected k then y ^^^ word k else y) y).getLsbD j =
      (y.getLsbD j ^^ decide ((l.countP fun k => selected k && (word k).getLsbD j) % 2 = 1)) := by
  induction l generalizing y with
  | nil => simp
  | cons k l ih =>
    rw [List.foldl_cons, ih, List.countP_cons]
    cases selected k with
    | false => simp
    | true => cases bit : (word k).getLsbD j <;> simp [bit, decide_succ_mod_two]

theorem getLsbD_grayPoint (r : BitVec 1088) (i : BitVec 32) (j : Nat) : (grayPoint r i).getLsbD j =
    decide (((List.range 32).countP fun k => (i ^^^ (i >>> 1)).getLsbD k && (direction r k).getLsbD j) % 2 = 1) := by
  have parity := getLsbD_foldl_xor (i ^^^ (i >>> 1)).getLsbD (direction r) (List.range 32) 0#32 j
  rwa [BitVec.getLsbD_zero, Bool.false_xor] at parity

theorem qpoint_of_unseeded {r : BitVec 1088} (unseeded : recordSeed r = 0) (i : BitVec 32) : qpoint r i = grayPoint r i :=
  if_pos unseeded

theorem pointForm_n32 (y : BitVec 32) : pointForm false y = y := rfl

theorem flag_eq_getLsbD {w : Nat} (x : BitVec w) (i : Nat) : flag x i = x.getLsbD i := div_pow_mod_two_beq x i

theorem bits_low {w : Nat} (x : BitVec w) (n : Nat) : bits x 0 n = x.toNat % 2 ^ n := by
  rw [bits, Nat.pow_zero, Nat.div_one]

theorem field_low {w : Nat} (x : BitVec w) (n : Nat) : field x 0 n = x.setWidth n := by
  rw [field, Nat.pow_zero, Nat.div_one, BitVec.ofNat_toNat]

/-- What `qpt` delivers (R157). -/
theorem writesS_qpt {d a b : Fin 64} {s : State} {p : Word → Prop} (ready : Ready (.qpt d a b) s)
    (value : p ((pointForm ((s.readS b).val.getLsbD 6)
      (qpoint (s.cx.regs.dim ((s.readS b).val.toNat % 64)) ((s.readS a).val.setWidth 32))).setWidth 64)) :
    WritesS (.qpt d a b) s 6 d (maxTag (s.readS a).tag (s.readS b).tag) p := by
  have dimension : bits (s.readS b).val 0 6 = (s.readS b).val.toNat % 64 := bits_low _ 6
  rw [← flag_eq_getLsbD, ← field_low (s.readS a).val, ← dimension] at value
  exact ⟨_, (exec_qpt d a b s).trans (issue_next ready rfl), value⟩

/-! ## Loads of records (R155) -/

section Loads

variable {s : State} {c : Fin 16} {addr v : Word} {ps : List Piece} (reach : s.reachSpan .read addr (136 * runCount v) = .ok ps)
include reach

theorem qldtAct_of_here (here : (s.readPieces c ps).1.lost = false) : s.qldtAct c addr v =
    .ok ((s.readPieces c ps).2.pushDims (runFirst v) (s.readPieces c ps).1.bytes (runCount v)) := by
  simp [State.qldtAct, reach, here]

theorem qldtAct_of_lost (lost : (s.readPieces c ps).1.lost = true) : s.qldtAct c addr v =
    .error (.raise .contain { Info.none with addr := field addr 0 56, looked := ps.map (·.va) }) := by
  simp [State.qldtAct, reach, lost]

end Loads

/-! ## What stays while addresses are looked up (R352) -/

theorem sameContext_refl (c : Ctx) : SameContext c c := by simp [SameContext]

theorem sameContext_trans {c d e : Ctx} (h : SameContext c d) (k : SameContext d e) : SameContext c e := by
  simp_all [SameContext]

theorem unmoved_refl (s : State) : Unmoved s s := ⟨rfl, rfl, rfl, rfl, rfl, fun _ => sameContext_refl _⟩

theorem unmoved_trans {s t u : State} (h : Unmoved s t) (k : Unmoved t u) : Unmoved s u := by
  obtain ⟨mem, lost, counters, cur, raised, same⟩ := h
  obtain ⟨mem', lost', counters', cur', raised', same'⟩ := k
  exact ⟨mem'.trans mem, lost'.trans lost, counters'.trans counters, cur'.trans cur, raised'.trans raised,
    fun x => sameContext_trans (same x) (same' x)⟩

/-- A core whose contexts stand as they were moves nothing. -/
theorem unmoved_modCore (s : State) (c : Fin 1792) {f : Core → Core} (same : ∀ k, (f k).ctx = k.ctx) : Unmoved s (s.modCore c f) := by
  refine ⟨rfl, rfl, rfl, rfl, rfl, fun x => ?_⟩
  rw [ctx_modCore]
  split
  case isTrue here => rw [same, ← here]; exact sameContext_refl _
  case isFalse => exact sameContext_refl _

theorem unmoved_modCtx (s : State) (x : CtxId) {f : Ctx → Ctx} (same : ∀ c, SameContext c (f c)) :
    Unmoved s (s.modCtx x f) := by
  refine ⟨rfl, rfl, rfl, rfl, rfl, fun y => ?_⟩
  rw [ctx_modCtx]
  split
  case isTrue here => rw [here]; exact same _
  case isFalse => exact sameContext_refl _

theorem unmoved_install (s : State) (c : Fin 1792) (e : TlbEntry) : Unmoved s (s.install c e) := by
  have core := unmoved_modCore s c (f := fun k => { k with tlb := trim 64 (e :: k.tlb.filter (· != e)) }) fun _ => rfl
  unfold State.install
  dsimp only
  split <;> exact core

theorem unmoved_touch (s : State) (x : CtxId) (ptroot : Word) (va : BitVec 56) : Unmoved s (s.touch x ptroot va) := by
  unfold State.touch
  split
  · exact unmoved_refl s
  split
  · exact unmoved_refl s
  split
  · exact unmoved_refl s
  · exact unmoved_trans (unmoved_install s x.core _) (unmoved_modCtx _ x fun _ => by simp [SameContext])

theorem unmoved_touchAll (s : State) (l : List (BitVec 56)) : Unmoved s (s.touchAll l) := by
  unfold State.touchAll
  induction l generalizing s with
  | nil => exact unmoved_refl s
  | cons va l ih => exact unmoved_trans (unmoved_touch s _ _ va) (ih _)

/-! ## Stores of records (R156) -/

/-- A store that is withheld is the newest of its context, and neither memory nor a register moves (R252). -/
theorem withhold_appends (s : State) (kind : StoreKind) (lanes : List Lane) (cls : Fin 16) (p : Path) :
    ∃ w : StoreOp, w.kind = kind ∧ w.lanes = lanes ∧ w.cls = cls ∧ (s.withhold kind lanes cls p).mem = s.mem ∧
      (s.withhold kind lanes cls p).cx = { s.cx with withheld := s.cx.withheld ++ [w] } :=
  ⟨_, rfl, rfl, rfl, rfl, cx_modCx _ _⟩

theorem withhold_after_touchAll (s : State) (l : List (BitVec 56)) (kind : StoreKind) (lanes : List Lane) (cls : Fin 16) (p : Path) :
    ∃ w : StoreOp, ((s.touchAll l).withhold kind lanes cls p).mem = s.mem ∧
      ((s.touchAll l).withhold kind lanes cls p).cx.regs = s.cx.regs ∧
      ((s.touchAll l).withhold kind lanes cls p).cx.withheld = s.cx.withheld ++ [w] ∧ w.cls = cls ∧ w.kind = kind ∧ w.lanes = lanes := by
  obtain ⟨mem_same, -, -, cur_same, -, same⟩ := unmoved_touchAll s l
  obtain ⟨regs_same, -, -, -, -, -, -, -, -, withheld_same, -⟩ := same s.cur.ctx
  have cx_touched : (s.touchAll l).cx = (s.touchAll l).ctx s.cur.ctx := by rw [State.cx, cur_same]
  obtain ⟨w, is_kind, is_lanes, is_cls, mem_after, cx_after⟩ := withhold_appends (s.touchAll l) kind lanes cls p
  refine ⟨w, mem_after.trans mem_same, ?_, ?_, is_cls, is_kind, is_lanes⟩
  · rw [cx_after, cx_touched]; exact regs_same
  · rw [cx_after, cx_touched]; exact congrArg (· ++ [w]) withheld_same

theorem qsaveAct_of_reach {s : State} {c : Fin 16} {addr v : Word} {ps : List Piece}
    (reach : s.reachSpan .write addr (136 * runCount v) = .ok ps) : s.qsaveAct addr v c =
      .ok ((s.touchAll (ps.map (·.va))).withhold .span (spanLanes ps
        ((List.range (runCount v)).flatMap fun i => bytesOf 136 (s.cx.regs.dim ((runFirst v + i) % 64)).toNat) false) c .l) := by
  rw [State.qsaveAct, reach]

/-! ## The statement -/

/-- Settles O20: seeds and record loads by their own effects, a point by the parity of its direction numbers, a record store by
the store it withholds. -/
theorem sequenceUnit : Obligations.SequenceUnit := by
  intro d a b c s x y
  refine ⟨fun ready => ?_, fun ready => writesS_qpt ready fun unseeded n32 j lt => ?_,
    fun ps reach here ready => (exec_qldt c a b s).trans (issue_next ready (qldtAct_of_here reach here)),
    fun ps reach lost ready => (exec_qldt c a b s).trans (issue_stop ready (qldtAct_of_lost reach lost)),
    fun ps reach ready => ?_⟩
  · exact ⟨_, bits_low x 6, (exec_qseed a b s).trans (issue_next ready rfl)⟩
  · rw [n32, pointForm_n32, qpoint_of_unseeded unseeded, BitVec.getLsbD_setWidth, getLsbD_grayPoint, decide_eq_true lt, Bool.true_and]
  · obtain ⟨w, mem_same, regs_same, appended, is_cls, is_kind, is_lanes⟩ := withhold_after_touchAll s (ps.map (·.va)) .span _ c .l
    exact ⟨_, w, (exec_qsave c a b s).trans (issue_next ready (qsaveAct_of_reach reach)), mem_same, regs_same, appended, is_cls,
      is_kind, is_lanes⟩

end Sys2Proof.Proofs
end
